-- ==== Sys2Proof/Word.lean ====
section
/-!
DEFINITION. The word types of the GZ-960 and their plainest arithmetic (spec/00_scope.md R2, R3; spec/01_strands.md R8).
-/

namespace Sys2Proof

/-- A 32-bit element of one lane, and a 32-bit instruction word (R8, R57). -/
abbrev Word := BitVec 32
/-- A register pair, low half in the even register (R3, R65). -/
abbrev DWord := BitVec 64
/-- A byte of memory. -/
abbrev Byte := BitVec 8

/-- The low half of a pair (R3). -/
def DWord.lo (d : DWord) : Word := d.setWidth 32
/-- The high half of a pair (R3). -/
def DWord.hi (d : DWord) : Word := (d >>> 32).setWidth 32
/-- A pair from its two halves (R3). -/
def DWord.make (lo hi : Word) : DWord := hi ++ lo

/-- A table held sparsely: (number, value) pairs, numbers rising, with no entry equal to the table's default. -/
abbrev Tbl (α : Type) := List (Nat × α)

end Sys2Proof
end

