-- ==== Sys2Proof/Syntax.lean ====
section
/-!
DEFINITION. The syntax of the GZ-960: operand forms (spec/02_encoding.md R62 to R67), modifiers (R71 to R82), and
`Instr`, one constructor for each row of spec/opcode_table.json: the instruction rows, then the rows that are steps of
the part's engines (spec/95_what_each_step_holds.md).
-/

namespace Sys2Proof

/-- A source operand code (R62). A literal is held as its 64-bit value: zero-extended where the position is 32 bits
wide, sign-extended where a 32-bit literal stands in a pair position (R64). -/
inductive Src
  | reg (n : Fin 120)   -- `v0` to `v119`; in a pair or quad position, its first register (R65)
  | lit (v : DWord)     -- `#value`
  | lane                -- `%lane`
  | slice               -- `%slice`
  | zero                -- `z`
  | strand              -- `%strand`
  | group               -- `%group`
  | ocyc                -- `%ocyc`
  deriving DecidableEq, Repr

/-- A destination operand code (R62): a register, or `z`, which discards the result. -/
inductive Dst
  | reg (n : Fin 120)
  | none
  deriving DecidableEq, Repr

/-- The guard of an extended instruction (R66): unguarded, or a register or special, negated or not. -/
inductive Guard
  | always
  | on (g : Src) (neg : Bool)
  deriving DecidableEq, Repr

/-- The operand fields of a base word (R59). A field the instruction does not use holds `z` (R63). -/
structure BOps where
  d : Dst
  a : Src
  b : Src
  deriving DecidableEq, Repr

/-- The operand fields, guard and lookahead of an extended instruction (R60). -/
structure XOps where
  la : Fin 16
  g  : Guard
  d  : Dst
  a  : Src
  b  : Src
  c  : Src
  deriving DecidableEq, Repr

/-- Element types, in the order of TY (R67). -/
inductive Ty
  | s32 | n32 | f32 | f16 | bf16 | e4m3 | e5m2 | e3m2 | e2m3 | e2m1 | s8 | n8 | s64 | n64 | gb16 | cb2
  deriving DecidableEq, Repr

/-- Rounding modes (R71, R72, R145). SR is CVT's only. -/
inductive RM
  | rne | rz | ru | rd | sr
  deriving DecidableEq, Repr

/-- Grade of a special function (R73, R159). -/
inductive Grade
  | fast | acc
  deriving DecidableEq, Repr

/-- BRC conditions (R69). -/
inductive Cond
  | z | nz | neg | nneg | odd | even
  deriving DecidableEq, Repr

/-- CMP relations, FN 0 to 7 (R70, R379). -/
inductive Rel
  | eq | ne | lt | le | gt | ge | un | or
  deriving DecidableEq, Repr

/-- VSEND modes (R31). -/
inductive SendMode
  | value | ballot | any | all | count
  deriving DecidableEq, Repr

/-- SHFL modes (R75, R438). -/
inductive ShflMode
  | idx | up | down | xor
  deriving DecidableEq, Repr

/-- VOTE modes (R75, R463). -/
inductive VoteMode
  | ballot | any | all | count
  deriving DecidableEq, Repr

/-- SCAN and LRED modes (R75). -/
inductive RedMode
  | add | min | max | and | or | xor | fadd
  deriving DecidableEq, Repr

/-- ATOM functions, FN 0 to 10 (R361). -/
inductive AtomFn
  | add | mins | minn | maxs | maxn | and | or | xor | xchg | cas | fadd
  deriving DecidableEq, Repr

/-- Scopes (R76, R234). -/
inductive Scope
  | strand | group | core | owner | system
  deriving DecidableEq, Repr

/-- Orders (R76, R236). -/
inductive Order
  | rlx | acq | rel | ar
  deriving DecidableEq, Repr

/-- The FEF field (R76, R77): plain, waiting, consuming (for FESET: set empty), filling (for FESET: set full). -/
inductive Fef
  | plain | waiting | consuming | filling
  deriving DecidableEq, Repr

/-- Bytes per lane, SIZE codes 0 to 4 (R76). -/
inductive Size
  | b1 | b2 | b4 | b8 | b16
  deriving DecidableEq, Repr

/-- The memory map (R76). -/
structure MemMod where
  scope  : Scope
  order  : Order
  fef    : Fef
  budget : BitVec 8
  park   : Bool
  size   : Size
  sx     : Bool
  det    : Bool
  deriving DecidableEq, Repr

/-- The narrow map without Q (R74): precision, signedness, saturation. -/
structure NarMod where
  p   : Nat
  s   : Bool
  sat : Bool
  deriving DecidableEq, Repr

/-- Tile levels (R79, R166). -/
inductive TLevel
  | core | pool | die
  deriving DecidableEq, Repr

/-- Completion counter levels (R81, R271). -/
inductive CLevel
  | launch | graph | phase | job
  deriving DecidableEq, Repr

/-- Row kinds of MCON (R80, R198). -/
inductive ConKind
  | id | perm | ones | seg
  deriving DecidableEq, Repr

/-- A strand by owner, logical core and strand slot (R297: the TSTRAND fields, with the owner). -/
structure StrandId where
  owner : Nat
  lcore : Nat
  slot  : Nat
  deriving DecidableEq, Repr

/-- A host command: the 128 bytes of R329. -/
abbrev Command := List Byte

/-- What an uncorrectable storage error was found in (R305). -/
inductive StorageErr
  | tile (owner lcore entry row : Nat)
  | bank (owner lcore : Nat)
  | reg (s : StrandId) (r : Nat)
  deriving DecidableEq, Repr

/-- One bank's four error counts, as the base die reads them (R342). -/
structure BankCounts where
  stack   : Nat
  channel : Nat
  bank    : Nat
  counts  : List Nat
  deriving DecidableEq, Repr

/-- A Kwayr Fabric Transport packet (R345), with the address of the peer package that it came from or goes to: the fields of its header,
its payload and its trailer. -/
structure Packet where
  peer  : Nat
  ver   : Nat
  kind  : Nat
  len   : Nat
  seq   : Nat
  sown  : Nat
  down  : Nat
  cause : Nat
  addr  : DWord
  data  : List Byte
  crc   : Word
  deriving DecidableEq, Repr

/-- What a start finds (R352): for each of the 11 steps, in order, whether it passes and whether it passes in its fallback form; and the
parts that fail: quarters (step 3), stacks (step 4), channels as 32 × stack + channel (step 5), banks as 16 × channel + bank (step 6), cores
(step 7), clause arrays by cluster (step 8), ports (step 10). -/
structure BootReport where
  tests    : List (Bool × Bool)
  quarters : List Nat
  hstacks  : List Nat
  channels : List Nat
  banks    : List Nat
  cores    : List Nat
  arrays   : List Nat
  ports    : List Nat
  deriving DecidableEq, Repr

/-- One constructor for each row of spec/opcode_table.json. -/
inductive Instr
  -- Base forms (R68). A row X_LIT of the table is X with a literal word.
  | nop
  | mov (o : BOps) | movLit (o : BOps)
  | add (o : BOps) | addLit (o : BOps)
  | sub (o : BOps) | subLit (o : BOps)
  | mul (o : BOps) | mulLit (o : BOps)
  | mulhS32 (o : BOps) | mulhS32Lit (o : BOps)
  | mulhN32 (o : BOps) | mulhN32Lit (o : BOps)
  | minS32 (o : BOps) | minS32Lit (o : BOps)
  | minN32 (o : BOps) | minN32Lit (o : BOps)
  | maxS32 (o : BOps) | maxS32Lit (o : BOps)
  | maxN32 (o : BOps) | maxN32Lit (o : BOps)
  | abs (o : BOps) | absLit (o : BOps)
  | and (o : BOps) | andLit (o : BOps)
  | or (o : BOps) | orLit (o : BOps)
  | xor (o : BOps) | xorLit (o : BOps)
  | andn (o : BOps) | andnLit (o : BOps)
  | shl (o : BOps) | shlLit (o : BOps)
  | shr (o : BOps) | shrLit (o : BOps)
  | sra (o : BOps) | sraLit (o : BOps)
  | rot (o : BOps) | rotLit (o : BOps)
  | popc (o : BOps) | popcLit (o : BOps)
  | clz (o : BOps) | clzLit (o : BOps)
  | brev (o : BOps) | brevLit (o : BOps)
  | prmb (o : BOps) | prmbLit (o : BOps)
  | fadd (o : BOps) | faddLit (o : BOps)
  | fsub (o : BOps) | fsubLit (o : BOps)
  | fmul (o : BOps) | fmulLit (o : BOps)
  | fmin (o : BOps) | fminLit (o : BOps)
  | fmax (o : BOps) | fmaxLit (o : BOps)
  | addw (o : BOps) | addwLit (o : BOps)
  | mulwN32 (o : BOps) | mulwN32Lit (o : BOps)
  | mulwS32 (o : BOps) | mulwS32Lit (o : BOps)
  | ixrd (o : BOps) | ixrdLit (o : BOps)
  | ixwr (o : BOps) | ixwrLit (o : BOps)
  | bra (off : BitVec 21)
  | brc (cond : Cond) (a : Src) (off : Word)
  | call (d : Dst) (off : Word)
  | jmp (a : Src) | jmpLit (a : Src)
  | exit
  | vend
  | vlend
  | vpop (d : Dst)
  | frecv (d : Dst)
  | yield
  | trap (code : BitVec 14)
  | rfree (a : Src) | rfreeLit (a : Src)
  | vsend (mode : SendMode) (a : Src) | vsendLit (mode : SendMode) (a : Src)
  -- Extended forms (R70).
  | cmp (x : XOps) (ty : Ty) (rel : Rel)
  | sel (x : XOps)
  | mad (x : XOps) (ty : Ty)
  | div (x : XOps) (ty : Ty)
  | bfx (x : XOps) (ty : Ty)
  | bfi (x : XOps)
  | ffma (x : XOps) (rm : RM)
  | fcls (x : XOps) (ty : Ty)
  | cvt (x : XOps) (ty sty : Ty) (sat : Bool) (rm : RM)
  | frnd (x : XOps) (rm : RM)
  | pfma (x : XOps) (ty : Ty) (rm : RM)
  | ex2 (x : XOps) (gr : Grade)
  | lg2 (x : XOps) (gr : Grade)
  | rcp (x : XOps) (gr : Grade)
  | rsq (x : XOps) (gr : Grade)
  | sqt (x : XOps) (gr : Grade)
  | sin (x : XOps) (gr : Grade)
  | cos (x : XOps) (gr : Grade)
  | tanh (x : XOps) (gr : Grade)
  | sigm (x : XOps) (gr : Grade)
  | erf (x : XOps) (gr : Grade)
  | nadd (x : XOps) (m : NarMod)
  | nsub (x : XOps) (m : NarMod)
  | nmul (x : XOps) (m : NarMod)
  | ndot (x : XOps) (m : NarMod)
  | nmin (x : XOps) (m : NarMod)
  | nmax (x : XOps) (m : NarMod)
  | npack (x : XOps) (m : NarMod) (q : Nat)
  | shfl (x : XOps) (mode : ShflMode)
  | vote (x : XOps) (mode : VoteMode)
  | scan (x : XOps) (ty : Ty) (mode : RedMode) (excl : Bool)
  | lred (x : XOps) (ty : Ty) (mode : RedMode)
  | rnd (x : XOps)
  | ld (x : XOps) (m : MemMod)
  | st (x : XOps) (m : MemMod)
  | atom (x : XOps) (fn : AtomFn) (m : MemMod)
  | feset (x : XOps) (m : MemMod)
  | feget (x : XOps) (m : MemMod)
  | waita (x : XOps) (m : MemMod)
  | wake (x : XOps) (m : MemMod)
  | xlat (x : XOps)
  | xdrop (x : XOps)
  | fence (x : XOps) (m : MemMod)
  | ldt (x : XOps) (size : Size)
  | stt (x : XOps) (size : Size)
  | cpy (x : XOps)
  | seal (x : XOps)
  | swait (x : XOps)
  | twany (x : XOps)
  | twall (x : XOps)
  | tfirst (x : XOps)
  | tclr (x : XOps)
  | binit (x : XOps)
  | barv (x : XOps)
  | bwait (x : XOps)
  | gsync (x : XOps)
  | talloc (x : XOps) (level : TLevel)
  | tfree (x : XOps)
  | tinfo (x : XOps)
  | mwld (x : XOps) (ty : Ty) (t : Bool)
  | mstr (x : XOps) (ty : Ty) (start reg : Bool)
  | mcon (x : XOps) (ty : Ty) (start : Bool) (kind : ConKind) (seglen : BitVec 8)
  | mclose (x : XOps)
  | mtile (x : XOps)
  | mstat (x : XOps)
  | cbld (x : XOps)
  | launch (x : XOps)
  | join (x : XOps)
  | cancel (x : XOps) (level : CLevel)
  | cntrd (x : XOps) (level : CLevel)
  | wlput (x : XOps)
  | wlget (x : XOps)
  | lcsync (x : XOps)
  | caopen (x : XOps)
  | caclose (x : XOps)
  | caload (x : XOps)
  | calearn (x : XOps)
  | cadec (x : XOps)
  | caprop (x : XOps)
  | caback (x : XOps)
  | caval (x : XOps)
  | catrail (x : XOps)
  | cadel (x : XOps)
  | srd (x : XOps) (index : BitVec 12)
  | swr (x : XOps) (index : BitVec 12)
  | eret (x : XOps)
  | eretDispose (x : XOps)
  | ralloc (x : XOps)
  | hgate (x : XOps)
  | intr (x : XOps)
  | frun (x : XOps) (mask : BitVec 8) (rel : Bool)
  | ftrip (x : XOps) (mask : BitVec 8)
  | fmask (x : XOps) (mask : BitVec 8)
  | fval (x : XOps) (mask : BitVec 8) (rel : Bool)
  | regang (x : XOps) (mask : BitVec 8)
  | vloop (x : XOps) (ft : Bool)
  -- What comes to the part from outside, and writes of its ports, named by what they act on: physical core p, owner o, logical
  -- core lc, strand s, gang set (by its lowest slice), group g, identity id of an access, copy, command, record or transfer.
  | rotacWrite (p : Nat) (v : DWord)
  | rotafStage (v : DWord)
  | rotafCommit (v : DWord)
  | correctedError
  | storageErrorKill (e : StorageErr)
  | errorCountPoll (banks : List BankCounts) (poisoned : List Nat)
  | enqueue (asid q : Nat) (c : Command)
  | lcmapWrite (v : DWord)
  | lovfWrite (o : Nat) (v : DWord)
  | parkbaseWrite (o : Nat) (v : DWord)
  | qtimeoutWrite (o : Nat) (v : Word)
  | jswapWrite (o : Nat) (v : Word)
  | intdropWrite
  | rfmCommand (bank o count : Nat)
  | refreshSkip (grp : Nat) (mask : DWord)
  | kwayrLinkRetrain (up : Bool)
  | remoteRequestReceive (p : Packet)
  | remoteReplyReceive (p : Packet)
  | nackReceive (p : Packet)
  | powerOn (r : BootReport)
  | recoveryImageReceive (ok : Bool)
  | coreRailOvercurrent (amps : Nat)
  | powerRecover (amps : Nat)
  | transferResend (id : Nat)
  | tailwaterWithholdEnd (amps : Nat)
  -- Steps of the part's engines.
  | coreCycle (p : Nat)
  | ownerFreezeEnd (o : Nat)
  | resultWriteback (id : Nat)
  | windowCommitPoint (o lc : Nat)
  | flumeSendResume (s : StrandId)
  | sliceTakesRun (s : StrandId) (set : Nat)
  | sliceTakesMask (s : StrandId) (set : Nat)
  | sliceTakesRegang (s : StrandId) (set : Nat)
  | sliceTakesEnd (s : StrandId) (set : Nat)
  | vpopTakesVal (s : StrandId) (set : Nat)
  | vloopTakesTrip (s : StrandId) (set : Nat)
  | returnQueueEntryArrive (s : StrandId)
  | vsendPushResume (s : StrandId) (set : Nat)
  | frecvPop (s : StrandId)
  | returnQueueStarvation (s : StrandId)
  | flumeDeadlock (s : StrandId)
  | strandEnd (s : StrandId)
  | rallocGrant (s : StrandId)
  | rfreeQuietAct (s : StrandId)
  | strandSwapOut (o lc : Nat)
  | strandSwapOutEnd (s : StrandId)
  | strandSwapIn (s : StrandId)
  | strandSwapInEnd (s : StrandId)
  | rotacTakesEffect (p : Nat)
  | rotafTableInForce
  | swapBegin (p : Nat)
  | swapQuietEnd (p : Nat)
  | drainSlotArrival (id : Nat)
  | swapSavePhase (p : Nat)
  | swapRestorePhase (p : Nat)
  | swapRebind (p : Nat)
  | swapComplete (p : Nat)
  | tileDrainComplete (o lc tile : Nat)
  | tallocPickGrant (s : StrandId)
  | copyUnitLands (id : Nat)
  | copyPageGranted (id : Nat)
  | copyComplete (id : Nat)
  | matCommandStart (id : Nat)
  | matCommandEnd (id : Nat)
  | twanyReturn (s : StrandId)
  | twallReturn (s : StrandId)
  | swaitComplete (s : StrandId)
  | bwaitRelease (s : StrandId)
  | gsyncComplete (g : Nat)
  | memoryAccessAct (id : Nat)
  | feRetryAttempt (id lane : Nat)
  | wokenRetry (id lane : Nat)
  | waitaSpuriousReturn (id lane : Nat)
  | xlatAct (id : Nat)
  | clauseCommandStart (o k : Nat)
  | capropRound (o k : Nat)
  | caloadColumnWrite (o k : Nat)
  | clauseCommandEnd (o k : Nat)
  | launchAct (id : Nat)
  | distributorStep (o : Nat)
  | overflowRecordRead (o : Nat)
  | groupStrandsStart (g : Nat)
  | joinObserveZero (s : StrandId)
  | joinSwapOut (s : StrandId)
  | joinSwapIn (s : StrandId)
  | cancelStrandStop (s : StrandId)
  | cancelQtimeoutKill (s : StrandId)
  | wlputAct (id : Nat)
  | wlgetAttempt (id : Nat)
  | strandedDetect (o comp : Nat)
  | trapInPlaceEntry (s : StrandId)
  | trapRecordStore (id : Nat)
  | watchdogTrap (s : StrandId)
  | preemptQuietEnd (o : Nat)
  | preemptDrainEnd (o : Nat)
  | preemptSaveEnd (o : Nat)
  | commandTake (o : Nat)
  | hostLaunch (o : Nat) (c : Command)
  | hostOpen (o : Nat) (c : Command)
  | hostClose (o : Nat) (c : Command)
  | hostCancel (o : Nat) (c : Command)
  | ocreate (c : Command)
  | oreset (c : Command)
  | odestroy (c : Command)
  | load (c : Command)
  | preempt (c : Command)
  | restore (c : Command)
  | swap (c : Command)
  | pause (c : Command)
  | resume (c : Command)
  | rota (c : Command)
  | resolve (c : Command)
  | unmap (c : Command)
  | stats (c : Command)
  | clearboot (c : Command)
  | intrRecordStore (id : Nat)
  | remoteTimeout (id : Nat)
  | powerFault
  deriving DecidableEq, Repr

end Sys2Proof
end

