-- ==== Sys2Proof/Machine/Float.lean ====
section
/-!
DEFINITION. Number formats and rounding (spec/04_arithmetic.md R137 to R154): a floating-point value is decoded to an exact
one, operations are exact, and one rounding encodes the result.
-/

namespace Sys2Proof.Machine

/-- A floating-point format (R137): exponent and mantissa bits, bias, whether it has infinities, whether it has NaNs. -/
structure Fmt where
  eb   : Nat
  mb   : Nat
  bias : Nat
  inf  : Bool
  nan  : Bool
  deriving DecidableEq, Repr

def fmtF32 : Fmt := ⟨8, 23, 127, true, true⟩

/-- The format of a float TY code (R137). [PRESUMED: notes/assumptions/59.md] -/
def fmtOf : Nat → Fmt
  | 3 => ⟨5, 10, 15, true, true⟩
  | 4 => ⟨8, 7, 127, true, true⟩
  | 5 => ⟨4, 3, 7, false, true⟩
  | 6 => ⟨5, 2, 15, true, true⟩
  | 7 => ⟨3, 2, 3, false, false⟩
  | 8 => ⟨2, 3, 1, false, false⟩
  | 9 => ⟨2, 1, 1, false, false⟩
  | _ => fmtF32

def Fmt.bits (f : Fmt) : Nat := 1 + f.eb + f.mb
/-- Code of +∞, or of the largest magnitude plus one. -/
def Fmt.infCode (f : Fmt) : Nat := (2 ^ f.eb - 1) * 2 ^ f.mb
/-- Code of the largest finite magnitude. -/
def Fmt.maxCode (f : Fmt) : Nat :=
  if f.inf then f.infCode - 1 else if f.nan then 2 ^ (f.eb + f.mb) - 2 else 2 ^ (f.eb + f.mb) - 1
/-- The canonical NaN (R138); +0 in a format without NaN (R153). -/
def Fmt.nanCode (f : Fmt) : Nat :=
  if f.inf then f.infCode + 2 ^ (f.mb - 1) else if f.nan then 2 ^ (f.eb + f.mb) - 1 else 0
/-- Exponent of the smallest step of the format. -/
def Fmt.qmin (f : Fmt) : Int := 1 - (f.bias : Int) - (f.mb : Int)

/-- An exact value: a NaN, an infinity, or ± m × 2^e; a zero keeps its sign. -/
inductive FVal
  | nan
  | inf (neg : Bool)
  | fin (neg : Bool) (m : Nat) (e : Int)
  deriving DecidableEq, Repr

/-- Decode an element (R137); bits above the format are ignored (R139). [PRESUMED: notes/assumptions/59.md] -/
def fdec (f : Fmt) (c : Nat) : FVal :=
  let neg := c.testBit (f.eb + f.mb)
  let mag := c % 2 ^ (f.eb + f.mb)
  let e := mag / 2 ^ f.mb
  let m := mag % 2 ^ f.mb
  if f.inf && e == 2 ^ f.eb - 1 then (if m = 0 then .inf neg else .nan)
  else if !f.inf && f.nan && mag == 2 ^ (f.eb + f.mb) - 1 then .nan
  else if e = 0 then .fin neg m f.qmin
  else .fin neg (m + 2 ^ f.mb) (f.qmin + (e - 1 : Nat))

/-- Does a rounding go to the neighbour of greater magnitude? `rem` of `2 ^ sh` is what lies beyond the smaller one, with
`sticky` for more below it (R145, R146). -/
def roundsUp (rm : RM) (r : Word) (neg odd : Bool) (rem sh : Nat) (sticky : Bool) : Bool :=
  let some_ := rem != 0 || sticky
  match rm with
  | .rne => decide (2 ^ sh < 2 * rem) || (2 * rem == 2 ^ sh && sh != 0 && (sticky || odd))
  | .rz => false
  | .ru => !neg && some_
  | .rd => neg && some_
  | .sr => decide (2 ^ 32 ≤ 2 ^ 32 * rem / 2 ^ sh + r.toNat)

/-- The largest magnitude, ∞, or what stands for ∞ in the format, when a rounding overflows (R147). -/
def overflowCode (f : Fmt) (rm : RM) (sat neg up : Bool) : Nat :=
  let toInf := match rm with
    | .rne => true
    | .rz => false
    | .ru => !neg
    | .rd => neg
    | .sr => up
  let s := if neg then 2 ^ (f.eb + f.mb) else 0
  if sat || !toInf || !(f.inf || f.nan) then s + f.maxCode
  else if f.inf then s + f.infCode else f.nanCode

/-- Round a magnitude (m, and more below it when `sticky`) × 2^e to a format (R145 to R148). -/
def fround (f : Fmt) (rm : RM) (sat : Bool) (r : Word) (neg : Bool) (m : Nat) (e : Int) (sticky : Bool) : Nat :=
  let s := if neg then 2 ^ (f.eb + f.mb) else 0
  if m = 0 ∧ sticky = false then s
  else
    let top : Int := (Nat.log2 m : Int) + e
    let q : Int := if m = 0 then f.qmin else max (top - f.mb) f.qmin
    let (t, up) : Nat × Bool :=
      if q ≤ e then (m * 2 ^ (e - q).toNat, false)
      else
        let sh := (q - e).toNat
        let t := m / 2 ^ sh
        (t, roundsUp rm r neg (t % 2 == 1) (m % 2 ^ sh) sh sticky)
    let code := (q - f.qmin).toNat * 2 ^ f.mb + t + (if up then 1 else 0)
    if code > f.maxCode then overflowCode f rm sat neg up else s + code

/-- Encode an exact value (R153 for what a format lacks). -/
def fenc (f : Fmt) (rm : RM) (sat : Bool) (r : Word) : FVal → Nat
  | .nan => f.nanCode
  | .inf neg =>
    let s := if neg then 2 ^ (f.eb + f.mb) else 0
    if sat || !(f.inf || f.nan) then s + f.maxCode else if f.inf then s + f.infCode else f.nanCode
  | .fin neg m e => fround f rm sat r neg m e false

def FVal.neg : FVal → FVal
  | .nan => .nan
  | .inf n => .inf !n
  | .fin n m e => .fin (!n) m e

/-- The exact product (R149). -/
def FVal.mul : FVal → FVal → FVal
  | .nan, _ | _, .nan => .nan
  | .inf a, .inf b => .inf (a != b)
  | .inf a, .fin b m _ | .fin b m _, .inf a => if m = 0 then .nan else .inf (a != b)
  | .fin a m e, .fin b n g => .fin (a != b) (m * n) (e + g)

/-- The exact sum; an exact zero takes the sign of R148. -/
def FVal.add (rm : RM) : FVal → FVal → FVal
  | .nan, _ | _, .nan => .nan
  | .inf a, .inf b => if a = b then .inf a else .nan
  | .inf a, _ | _, .inf a => .inf a
  | .fin a m e, .fin b n g =>
    let q := min e g
    let x : Int := (if a then -1 else 1) * (m * 2 ^ (e - q).toNat : Nat)
    let y : Int := (if b then -1 else 1) * (n * 2 ^ (g - q).toNat : Nat)
    let z := x + y
    if z = 0 then .fin (if a = b then a else rm == .rd) 0 0 else .fin (decide (z < 0)) z.natAbs q

/-- Order of two values that are not NaN: is a < b? Zeros are equal. -/
def FVal.lt (a b : FVal) : Bool :=
  match a, b with
  | .nan, _ | _, .nan => false
  | .inf x, .inf y => x && !y
  | .inf x, .fin .. => x
  | .fin .., .inf y => !y
  | .fin a m e, .fin b n g =>
    let q := min e g
    decide ((if a then -1 else 1 : Int) * (m * 2 ^ (e - q).toNat : Nat) < (if b then -1 else 1 : Int) * (n * 2 ^ (g - q).toNat : Nat))

def FVal.isNan : FVal → Bool
  | .nan => true
  | _ => false

def FVal.eq (a b : FVal) : Bool := !a.isNan && !b.isNan && !a.lt b && !b.lt a

/-! ### binary32 words -/

def f32 (w : Word) : FVal := fdec fmtF32 w.toNat
def toF32 (rm : RM) (v : FVal) : Word := BitVec.ofNat 32 (fenc fmtF32 rm false 0 v)

/-- RNE_f32 of an exact value (R6). -/
def rneF32 (v : FVal) : Word := toF32 .rne v
def f32Nan : Word := 0x7FC00000

def f32Add (rm : RM) (a b : Word) : Word := toF32 rm (FVal.add rm (f32 a) (f32 b))
def f32Sub (rm : RM) (a b : Word) : Word := toF32 rm (FVal.add rm (f32 a) (f32 b).neg)
def f32Mul (rm : RM) (a b : Word) : Word := toF32 rm ((f32 a).mul (f32 b))

/-- a × b + c, rounded once (R149). -/
def fmaVal (rm : RM) (a b c : FVal) : FVal := FVal.add rm (a.mul b) c

/-- minimumNumber and maximumNumber with −0 below +0 (R150). -/
def f32MinMax (isMax : Bool) (a b : Word) : Word :=
  let x := f32 a; let y := f32 b
  if x.isNan then (if y.isNan then f32Nan else b)
  else if y.isNan then a
  else
    let less := x.lt y || (!(y.lt x) && a.getLsbD 31 && !b.getLsbD 31)
    if less != isMax then a else b

/-- Class mask of an element (R151). -/
def fclass (f : Fmt) (c : Nat) : Nat :=
  match fdec f c with
  | .nan => 256
  | .inf n => if n then 1 else 128
  | .fin n m _ =>
    if m = 0 then (if n then 8 else 16)
    else if m < 2 ^ f.mb then (if n then 4 else 32)
    else if n then 2 else 64

/-! ### Integers and conversion (R153, R154) -/

/-- Round a value to an integer magnitude; `r` are the random bits of SR. -/
def roundInt (rm : RM) (r : Word) (neg : Bool) (m : Nat) (e : Int) : Nat :=
  if 0 ≤ e then m * 2 ^ e.toNat
  else
    let sh := (-e).toNat
    let t := m / 2 ^ sh
    if roundsUp rm r neg (t % 2 == 1) (m % 2 ^ sh) sh false then t + 1 else t

/-- Clamp an integer to a range. -/
def clampInt (lo hi x : Int) : Int := if x < lo then lo else if hi < x then hi else x

/-- Width and signedness of an integer TY code (R67); none for other types. -/
def intTy : Nat → Option (Nat × Bool)
  | 0 => some (32, true) | 1 => some (32, false) | 10 => some (8, true) | 11 => some (8, false)
  | 12 => some (64, true) | 13 => some (64, false) | _ => none

def intLo (w : Nat) (sg : Bool) : Int := if sg then -(2 ^ (w - 1) : Nat) else 0
def intHi (w : Nat) (sg : Bool) : Int := if sg then (2 ^ (w - 1) - 1 : Nat) else (2 ^ w - 1 : Nat)

/-- The integer of the low `w` bits. -/
def intOf (w : Nat) (sg : Bool) (c : Nat) : Int :=
  let v := c % 2 ^ w
  if sg && v.testBit (w - 1) then (v : Int) - (2 ^ w : Nat) else v

/-- The low `w` bits of an integer. -/
def intBits (w : Nat) (x : Int) : Nat := (x % (2 ^ w : Nat)).toNat

/-- UE5M3 scale codes (R140); 0xFF is NaN. -/
def ue5m3 (c : Nat) : FVal :=
  if c % 256 = 255 then .nan
  else if c / 8 % 32 = 0 then .fin false (c % 8) (-17) else .fin false (8 + c % 8) ((c / 8 % 32 : Nat) - 18)

/-- E8M0 scale codes (R142). -/
def e8m0 (c : Nat) : FVal := if c % 256 = 255 then .nan else .fin false 1 ((c % 256 : Nat) - 127)

/-- The value of a gb16 element form (R154). -/
def gb16Val (c : Nat) : FVal := (ue5m3 (c / 256)).mul (fdec (fmtOf 9) c)

/-- Convert an exact value to the gb16 element form (R154). -/
def toGb16 (rm : RM) (sat : Bool) (r : Word) (v : FVal) : Nat :=
  let six (m : Nat) (e : Int) : FVal := .fin false (6 * m) e
  let big := six 114688 0
  match v with
  | .nan => 0xFF00
  | .inf neg => if sat then 0xFE00 + 7 + (if neg then 8 else 0) else 0xFF00
  | .fin neg m e =>
    let x := FVal.fin false m e
    if !sat && big.lt x then 0xFF00
    else
      let y := if big.lt x then big else x
      let code := ((List.range 255).find? fun c => match ue5m3 c with
        | .fin _ sm se => !((six sm se).lt y)
        | _ => false).getD 254
      match ue5m3 code, y with
      | .fin _ sm se, .fin _ ym ye =>
        if sm = 0 then code * 256
        else
          let n := ym * 2 ^ 80
          code * 256 + fround (fmtOf 9) rm true r neg (n / sm) (ye - se - 80) (n % sm != 0)
      | _, _ => code * 256

/-- The exact value of a container of type STY: an integer or a float (R153). -/
def cvtSource (sty c : Nat) : Int ⊕ FVal :=
  match intTy sty with
  | some (w, sg) => .inl (intOf w sg c)
  | none => .inr (if sty = 14 then gb16Val c else fdec (fmtOf sty) c)

/-- CVT of one container (R153, R154). -/
def cvt (ty sty : Nat) (sat : Bool) (rm : RM) (r : Word) (c : Nat) : Nat :=
  if ty = sty ∧ ty = 14 then (if c / 256 % 256 = 255 then 0xFF00 else c % 16 + c / 256 % 256 * 256)
  else match cvtSource sty c, intTy ty with
    | .inl x, some (w, sg) => intBits w (if sat then clampInt (intLo w sg) (intHi w sg) x else x)
    | .inl x, none =>
      if ty = 14 then toGb16 rm sat r (.fin (decide (x < 0)) x.natAbs 0)
      else fround (fmtOf ty) rm sat r (decide (x < 0)) x.natAbs 0 false
    | .inr .nan, some _ => 0
    | .inr (.inf neg), some (w, sg) => intBits w (if neg then intLo w sg else intHi w sg)
    | .inr (.fin neg m e), some (w, sg) =>
      let t : Int := roundInt rm r neg m e
      intBits w (clampInt (intLo w sg) (intHi w sg) (if neg then -t else t))
    | .inr v, none => if ty = 14 then toGb16 rm sat r v else fenc (fmtOf ty) rm sat r v

/-- FRND: round to an integral value in f32 (R149). -/
def f32Round (rm : RM) (a : Word) : Word :=
  match f32 a with
  | .nan => f32Nan
  | .inf _ => a
  | .fin neg m e => toF32 .rne (.fin neg (roundInt rm 0 neg m e) 0)

end Sys2Proof.Machine
end

