-- ==== Sys2Proof/Config.lean ====
section
/-!
DEFINITION. What an implementation fixes and the values the spec leaves open. A free value is an opaque constant applied
to plain data, so nothing can prove a value of it (notes/assumptions say which rule leaves each open).
-/

namespace Sys2Proof.Config

/-- Extra core cycles that an untimed owner's memory or engine work takes beyond the timed latency (R126 promises no
latency to untimed owners), by the model's counter of free values. [DESIGN CHOICE: notes/assumptions/13.md] -/
opaque untimedDelay : Nat → Nat

/-- Bytes of the sections of a context image, by image, section and offset (R315 names the contents and the largest sizes, and no byte
layout). [DESIGN CHOICE: notes/assumptions/14.md] -/
opaque imageBody : Nat → Nat → Nat → Byte

/-- Size of a section of a context image that R315 does not fix, by image and section. [DESIGN CHOICE: notes/assumptions/14.md] -/
opaque sectionSize : Nat → Nat → Nat

/-- Bytes of a queue image (R332 gives its place and size, and no layout), by the model's counter of free values and the offset.
[DESIGN CHOICE: notes/assumptions/60.md] -/
opaque queueBytes : Nat → Nat → Byte

/-- The commands that the bytes of a queue image stand for which the part did not write. [DESIGN CHOICE: notes/assumptions/60.md] -/
opaque queueContents : List Byte → List (List Byte)

/-- Device cycles for which an effect due is not ready, by owner and by the questions of its own history (R116, R341, R350).
[DESIGN CHOICE: notes/assumptions/61.md] -/
opaque overrun : Nat → Nat → Nat

/-- Device cycles for which state that a turn needs lies in the spill area, by owner and by the exchanges of its own history (R12, R192).
[DESIGN CHOICE: notes/assumptions/51.md] -/
opaque exchange : Nat → Nat → Nat

/-- Bytes that a core writes to the spill area of an owner, by owner and by the exchanges of its own history (R324 gives places and no layout).
[DESIGN CHOICE: notes/assumptions/60.md] -/
opaque spillBytes : Nat → Nat → List Byte

/-- Which place of the spill area an exchange of R12 writes, by owner and by the exchanges of its own history.
[DESIGN CHOICE: notes/assumptions/51.md] -/
opaque spillPlace : Nat → Nat → Nat

/-- Registers that the bytes of a strand place stand for which the part did not write: (index, value) of the control slice and of the
vector slices. [DESIGN CHOICE: notes/assumptions/60.md] -/
opaque spillRegs : List Byte → List (Nat × Word) × List (Nat × Word)

/-- Bytes of a level-0 tile that the bytes of a tile place stand for which the part did not write: (offset, byte).
[DESIGN CHOICE: notes/assumptions/60.md] -/
opaque spillTile : List Byte → List (Nat × Byte)

/-- Latched state that the bytes of its place stand for which the part did not write: weights (format, T, MX, codes, scales) and codebook.
[DESIGN CHOICE: notes/assumptions/60.md] -/
opaque spillLatch : List Byte → Option (Nat × Bool × Bool × List (List Nat) × List (List Nat)) × Option (List Word)

/-- F_max as a length code, for the channels mapped out (R354). [DESIGN CHOICE: notes/assumptions/5.md] -/
opaque fmaxWith : List Nat → Nat

/-- Turns that the drain of a pre-emption takes, by the model's counter of free values; R310 sets their greatest number only.
[DESIGN CHOICE: notes/assumptions/15.md] -/
opaque drainTurns : Nat → Nat

/-- The threshold T of a memory stack's rolling activation counts (R339). [DESIGN CHOICE: notes/assumptions/6.md] -/
opaque rfmThreshold : Nat → Nat

/-- A value the spec leaves open, 32 bits, by the model's counter of free values.
[DESIGN CHOICE: notes/assumptions/7.md; DESIGN CHOICE: notes/assumptions/16.md] -/
opaque freeWord : Nat → Word

end Sys2Proof.Config
end

