-- ==== Sys2Proof/Decode.lean ====
section
/-!
DEFINITION. Decoding and encoding (spec/02_encoding.md): word framing R57 to R60, operand codes R62 to R66, the opcode
tables R68 and R70, the MOD maps R71 to R82, and the illegal-instruction subcodes R84 in the order of R83. The decoder is
total on any list of words and refuses by subcode; the encoder is written from the same tables.
-/

namespace Sys2Proof

/-! ### Numbers of the enumerated fields -/

/-- TY codes (R67). -/
def Ty.code : Ty → Nat
  | .s32 => 0 | .n32 => 1 | .f32 => 2 | .f16 => 3 | .bf16 => 4 | .e4m3 => 5 | .e5m2 => 6 | .e3m2 => 7
  | .e2m3 => 8 | .e2m1 => 9 | .s8 => 10 | .n8 => 11 | .s64 => 12 | .n64 => 13 | .gb16 => 14 | .cb2 => 15

/-- The type of a TY code (R67). -/
def Ty.ofCode : Nat → Ty
  | 0 => .s32 | 1 => .n32 | 2 => .f32 | 3 => .f16 | 4 => .bf16 | 5 => .e4m3 | 6 => .e5m2 | 7 => .e3m2
  | 8 => .e2m3 | 9 => .e2m1 | 10 => .s8 | 11 => .n8 | 12 => .s64 | 13 => .n64 | 14 => .gb16 | _ => .cb2

def RM.code : RM → Nat | .rne => 0 | .rz => 1 | .ru => 2 | .rd => 3 | .sr => 4
def RM.ofCode : Nat → Option RM
  | 0 => some .rne | 1 => some .rz | 2 => some .ru | 3 => some .rd | 4 => some .sr | _ => none

def Grade.code : Grade → Nat | .fast => 0 | .acc => 1
def Grade.ofCode : Nat → Grade | 0 => .fast | _ => .acc

def Cond.code : Cond → Nat | .z => 0 | .nz => 1 | .neg => 2 | .nneg => 3 | .odd => 4 | .even => 5
def Cond.ofCode : Nat → Option Cond
  | 0 => some .z | 1 => some .nz | 2 => some .neg | 3 => some .nneg | 4 => some .odd | 5 => some .even | _ => none

def Rel.code : Rel → Nat
  | .eq => 0 | .ne => 1 | .lt => 2 | .le => 3 | .gt => 4 | .ge => 5 | .un => 6 | .or => 7
def Rel.ofCode : Nat → Option Rel
  | 0 => some .eq | 1 => some .ne | 2 => some .lt | 3 => some .le | 4 => some .gt | 5 => some .ge
  | 6 => some .un | 7 => some .or | _ => none

def SendMode.code : SendMode → Nat | .value => 0 | .ballot => 1 | .any => 2 | .all => 3 | .count => 4
def SendMode.ofCode : Nat → Option SendMode
  | 0 => some .value | 1 => some .ballot | 2 => some .any | 3 => some .all | 4 => some .count | _ => none

def ShflMode.code : ShflMode → Nat | .idx => 0 | .up => 1 | .down => 2 | .xor => 3
def ShflMode.ofCode : Nat → Option ShflMode
  | 0 => some .idx | 1 => some .up | 2 => some .down | 3 => some .xor | _ => none

def VoteMode.code : VoteMode → Nat | .ballot => 0 | .any => 1 | .all => 2 | .count => 3
def VoteMode.ofCode : Nat → Option VoteMode
  | 0 => some .ballot | 1 => some .any | 2 => some .all | 3 => some .count | _ => none

def RedMode.code : RedMode → Nat
  | .add => 0 | .min => 1 | .max => 2 | .and => 3 | .or => 4 | .xor => 5 | .fadd => 6
def RedMode.ofCode : Nat → Option RedMode
  | 0 => some .add | 1 => some .min | 2 => some .max | 3 => some .and | 4 => some .or | 5 => some .xor
  | 6 => some .fadd | _ => none

def AtomFn.code : AtomFn → Nat
  | .add => 0 | .mins => 1 | .minn => 2 | .maxs => 3 | .maxn => 4 | .and => 5 | .or => 6 | .xor => 7
  | .xchg => 8 | .cas => 9 | .fadd => 10
def AtomFn.ofCode : Nat → Option AtomFn
  | 0 => some .add | 1 => some .mins | 2 => some .minn | 3 => some .maxs | 4 => some .maxn | 5 => some .and
  | 6 => some .or | 7 => some .xor | 8 => some .xchg | 9 => some .cas | 10 => some .fadd | _ => none

def Scope.code : Scope → Nat | .strand => 0 | .group => 1 | .core => 2 | .owner => 3 | .system => 4
def Scope.ofCode : Nat → Option Scope
  | 0 => some .strand | 1 => some .group | 2 => some .core | 3 => some .owner | 4 => some .system | _ => none

def Order.code : Order → Nat | .rlx => 0 | .acq => 1 | .rel => 2 | .ar => 3
def Order.ofCode : Nat → Option Order
  | 0 => some .rlx | 1 => some .acq | 2 => some .rel | 3 => some .ar | _ => none

def Fef.code : Fef → Nat | .plain => 0 | .waiting => 1 | .consuming => 2 | .filling => 3
def Fef.ofCode : Nat → Fef | 0 => .plain | 1 => .waiting | 2 => .consuming | _ => .filling

def Size.code : Size → Nat | .b1 => 0 | .b2 => 1 | .b4 => 2 | .b8 => 3 | .b16 => 4
def Size.ofCode : Nat → Option Size
  | 0 => some .b1 | 1 => some .b2 | 2 => some .b4 | 3 => some .b8 | 4 => some .b16 | _ => none

def TLevel.code : TLevel → Nat | .core => 0 | .pool => 1 | .die => 2
def TLevel.ofCode : Nat → Option TLevel
  | 0 => some .core | 1 => some .pool | 2 => some .die | _ => none

def CLevel.code : CLevel → Nat | .launch => 0 | .graph => 1 | .phase => 2 | .job => 3
def CLevel.ofCode : Nat → CLevel | 0 => .launch | 1 => .graph | 2 => .phase | _ => .job

def ConKind.code : ConKind → Nat | .id => 0 | .perm => 1 | .ones => 2 | .seg => 3
def ConKind.ofCode : Nat → Option ConKind
  | 0 => some .id | 1 => some .perm | 2 => some .ones | 3 => some .seg | _ => none

/-! ### Operand codes (R62) -/

def Src.code : Src → Nat
  | .reg n => n.val | .lit _ => 0x78 | .lane => 0x79 | .slice => 0x7A | .zero => 0x7B | .strand => 0x7C
  | .group => 0x7D | .ocyc => 0x7E

/-- The source of an operand code; `v` is the literal as its position reads it. Code 0x7F is illegal and never asked for. -/
def Src.ofCode (v : DWord) (c : Nat) : Src :=
  if h : c < 120 then .reg ⟨c, h⟩
  else match c with
    | 0x78 => .lit v | 0x79 => .lane | 0x7A => .slice | 0x7C => .strand | 0x7D => .group | 0x7E => .ocyc | _ => .zero

def Dst.code : Dst → Nat
  | .reg n => n.val | .none => 0x7B

def Dst.ofCode (c : Nat) : Dst :=
  if h : c < 120 then .reg ⟨c, h⟩ else .none

/-- What an operand position admits (R62 to R65 and the reference entries). -/
inductive Pos
  | zero    -- must hold 0x7B
  | dst | dst2 | dst4
  | src | src2
  | src2r   -- a pair that admits no literal (descriptors, R173; HGATE's image addresses, R127)
  | src4r   -- four registers that admit no literal
  | regs4   -- the first register of a record, a multiple of 4 (R177, R420)
  | reg     -- a register only (MCON with PERM)
  | regEven -- an even register only (MSTR with REG: R420)
  | lit     -- must hold 0x78 (BRC, CALL)
  deriving DecidableEq, Repr

/-- The positions of D, A, B and C. -/
structure Form where
  d : Pos
  a : Pos
  b : Pos
  c : Pos
  deriving DecidableEq, Repr

/-- Is the position 64 bits wide, so that a literal in it is 64 bits (R64)? -/
def Pos.wide : Pos → Bool
  | .src2 | .src2r | .dst2 => true
  | _ => false

/-- Registers the position names from its first (R65, R178, R202 lengths apart). -/
def Pos.regs : Pos → Nat
  | .dst | .src | .reg | .regEven => 1
  | .dst2 | .src2 | .src2r => 2
  | .dst4 | .src4r => 4
  | .zero | .regs4 | .lit => 0

/-- The subcode a code in D raises, if any (R84 0x05, 0x06, 0x07, 0x0C in that order). -/
def dstError (p : Pos) (c : Nat) : Option Nat :=
  if c = 0x7F then some 0x05
  else if c ≥ 0x78 ∧ c ≠ 0x7B then some 0x06
  else if p = .zero ∧ c ≠ 0x7B then some 0x07
  else if p = .dst2 ∧ c < 120 ∧ c % 2 = 1 then some 0x0C
  else if p = .dst4 ∧ c < 120 ∧ c % 4 ≠ 0 then some 0x0C
  else none

/-- The subcode a code in A, B or C raises, if any. -/
def srcError (p : Pos) (c : Nat) : Option Nat :=
  if c = 0x7F then some 0x05
  else match p with
    | .zero => if c = 0x7B then none else some 0x07
    | .lit => if c = 0x78 then none else some 0x07
    | .src2 =>
      if c < 120 then (if c % 2 = 1 then some 0x0C else none)
      else if c = 0x78 ∨ c = 0x7B then none else some 0x0C
    | .src2r =>
      if c < 120 then (if c % 2 = 1 then some 0x0C else none)
      else if c = 0x78 then some 0x07 else if c = 0x7B then none else some 0x0C
    | .src4r =>
      if c < 120 then (if c % 4 ≠ 0 then some 0x0C else none)
      else if c = 0x78 then some 0x07 else if c = 0x7B then none else some 0x0C
    | .regs4 => if c < 120 ∧ c % 4 = 0 then none else some 0x07
    | .reg => if c < 120 then none else some 0x07
    | .regEven => if c < 120 ∧ c % 2 = 0 then none else some 0x0C
    | _ => none

/-- The subcode a guard raises, if any (R66); VLOOP admits none (R462). -/
def guardError (allowed : Bool) (g : Nat) (gn : Bool) : Option Nat :=
  if g = 0x7F then some 0x05
  else if g = 0x78 then some 0x06
  else if g = 0x7B ∧ gn = true then some 0x07
  else if allowed = false ∧ g ≠ 0x7B then some 0x07
  else none

/-- The literal rules of R64: codes of A, B and C with their positions, and the literal if the instruction carries one. -/
def literalError (ext : Bool) (ps : List (Pos × Nat)) (lit : Option DWord) : Option Nat :=
  let n := (ps.filter fun x => x.2 = 0x78).length
  if n > 1 then some 0x08
  else match lit with
    | none => if n = 1 then some 0x09 else none
    | some v =>
      if n = 0 then some 0x0A
      else if ext ∧ (ps.any fun x => x.2 = 0x78 ∧ x.1.wide = false) ∧ v >>> 32 ≠ 0 then some 0x0B
      else none

/-! ### Streams (R15) -/

/-- The streams an instruction belongs to (R15). -/
inductive StreamCls
  | ctl | vec | both
  deriving DecidableEq, Repr

/-- R15's table, by OP and FN. -/
def streamCls (op fn : Nat) : StreamCls :=
  match op with
  | 0x22 | 0x23 | 0x24 | 0x25 | 0x26 | 0x2A | 0x2B | 0x2D => .ctl
  | 0x27 | 0x28 | 0x29 | 0x2E | 0x61 => .vec
  | 0x55 | 0x58 | 0x59 | 0x5A | 0x5B | 0x5C | 0x5E | 0x5F | 0x60 => .ctl
  | 0x5D => if fn = 4 ∨ fn = 5 then .both else .ctl
  | _ => .both

/-! ### System registers (R86) -/

/-- Who may read or write a register (R86): USER, SUPER or HYPER and above, or no level. -/
inductive Access
  | user | super | hyper | none
  deriving DecidableEq, Repr

/-- A row of R86: is it a pair, read level, write level. -/
structure SysReg where
  pair  : Bool
  read  : Access
  write : Access
  deriving DecidableEq, Repr

/-- The assigned system register indices (R86). -/
def sysReg : Nat → Option SysReg
  | 0x000 | 0x002 | 0x004 | 0x030 => some ⟨true, .user, .none⟩
  | 0x006 | 0x007 | 0x008 | 0x032 | 0x040 | 0x041 => some ⟨false, .user, .none⟩
  | 0x010 | 0x011 | 0x012 | 0x013 | 0x016 => some ⟨false, .super, .super⟩
  | 0x014 | 0x022 => some ⟨true, .super, .super⟩
  | 0x020 => some ⟨true, .user, .super⟩
  | 0x024 | 0x026 => some ⟨false, .user, .super⟩
  | 0x025 => some ⟨false, .user, .hyper⟩
  | 0x100 | 0x102 | 0x104 => some ⟨true, .hyper, .hyper⟩
  | 0x106 => some ⟨true, .hyper, .none⟩
  | 0x110 => some ⟨false, .hyper, .hyper⟩
  | _ => none

/-! ### Base opcodes (R68) -/

/-- Positions of a base opcode's D, A and B (R68). -/
def baseForm : Nat → Form
  | 0x01 | 0x0B | 0x14 | 0x15 | 0x16 | 0x20 => ⟨.dst, .src, .zero, .zero⟩
  | 0x1D => ⟨.dst2, .src2, .src2, .zero⟩
  | 0x1E | 0x1F => ⟨.dst2, .src, .src, .zero⟩
  | 0x21 => ⟨.zero, .src, .src, .zero⟩
  | 0x23 => ⟨.zero, .src, .lit, .zero⟩
  | 0x24 => ⟨.dst, .zero, .lit, .zero⟩
  | 0x25 | 0x2D | 0x2E => ⟨.zero, .src, .zero, .zero⟩
  | 0x26 | 0x27 | 0x28 | 0x2B | 0x2C => ⟨.zero, .zero, .zero, .zero⟩
  | 0x29 | 0x2A => ⟨.dst, .zero, .zero, .zero⟩
  | _ => ⟨.dst, .src, .src, .zero⟩

/-- LEN of a base opcode (R68): may it carry a literal, must it? -/
def baseLen : Nat → Bool × Bool
  | 0x00 | 0x22 | 0x26 | 0x27 | 0x28 | 0x29 | 0x2A | 0x2B | 0x2C => (false, false)
  | 0x23 | 0x24 => (true, true)
  | _ => (true, false)

/-- The instruction of a base opcode whose fields are operand codes; `l` is whether it carries a literal. -/
def buildBase (op : Nat) (l : Bool) (o : BOps) : Option Instr :=
  match op, l with
  | 0x01, false => some (.mov o) | 0x01, true => some (.movLit o)
  | 0x02, false => some (.add o) | 0x02, true => some (.addLit o)
  | 0x03, false => some (.sub o) | 0x03, true => some (.subLit o)
  | 0x04, false => some (.mul o) | 0x04, true => some (.mulLit o)
  | 0x05, false => some (.mulhS32 o) | 0x05, true => some (.mulhS32Lit o)
  | 0x06, false => some (.mulhN32 o) | 0x06, true => some (.mulhN32Lit o)
  | 0x07, false => some (.minS32 o) | 0x07, true => some (.minS32Lit o)
  | 0x08, false => some (.minN32 o) | 0x08, true => some (.minN32Lit o)
  | 0x09, false => some (.maxS32 o) | 0x09, true => some (.maxS32Lit o)
  | 0x0A, false => some (.maxN32 o) | 0x0A, true => some (.maxN32Lit o)
  | 0x0B, false => some (.abs o) | 0x0B, true => some (.absLit o)
  | 0x0C, false => some (.and o) | 0x0C, true => some (.andLit o)
  | 0x0D, false => some (.or o) | 0x0D, true => some (.orLit o)
  | 0x0E, false => some (.xor o) | 0x0E, true => some (.xorLit o)
  | 0x0F, false => some (.andn o) | 0x0F, true => some (.andnLit o)
  | 0x10, false => some (.shl o) | 0x10, true => some (.shlLit o)
  | 0x11, false => some (.shr o) | 0x11, true => some (.shrLit o)
  | 0x12, false => some (.sra o) | 0x12, true => some (.sraLit o)
  | 0x13, false => some (.rot o) | 0x13, true => some (.rotLit o)
  | 0x14, false => some (.popc o) | 0x14, true => some (.popcLit o)
  | 0x15, false => some (.clz o) | 0x15, true => some (.clzLit o)
  | 0x16, false => some (.brev o) | 0x16, true => some (.brevLit o)
  | 0x17, false => some (.prmb o) | 0x17, true => some (.prmbLit o)
  | 0x18, false => some (.fadd o) | 0x18, true => some (.faddLit o)
  | 0x19, false => some (.fsub o) | 0x19, true => some (.fsubLit o)
  | 0x1A, false => some (.fmul o) | 0x1A, true => some (.fmulLit o)
  | 0x1B, false => some (.fmin o) | 0x1B, true => some (.fminLit o)
  | 0x1C, false => some (.fmax o) | 0x1C, true => some (.fmaxLit o)
  | 0x1D, false => some (.addw o) | 0x1D, true => some (.addwLit o)
  | 0x1E, false => some (.mulwN32 o) | 0x1E, true => some (.mulwN32Lit o)
  | 0x1F, false => some (.mulwS32 o) | 0x1F, true => some (.mulwS32Lit o)
  | 0x20, false => some (.ixrd o) | 0x20, true => some (.ixrdLit o)
  | 0x21, false => some (.ixwr o) | 0x21, true => some (.ixwrLit o)
  | 0x25, false => some (.jmp o.a) | 0x25, true => some (.jmpLit o.a)
  | 0x26, _ => some .exit
  | 0x27, _ => some .vend
  | 0x28, _ => some .vlend
  | 0x29, _ => some (.vpop o.d)
  | 0x2A, _ => some (.frecv o.d)
  | 0x2B, _ => some .yield
  | 0x2D, false => some (.rfree o.a) | 0x2D, true => some (.rfreeLit o.a)
  | _, _ => none

/-! ### Extended opcodes (R70) -/

/-- FN values assigned to an OP (R70): none below this bound; 0 for a reserved OP. -/
def fnCount : Nat → Nat
  | 0x40 => 8 | 0x4B => 10 | 0x4C => 7 | 0x4D => 4 | 0x52 => 11 | 0x53 | 0x54 | 0x55 | 0x57 => 2
  | 0x59 => 6 | 0x5A => 4 | 0x5B => 3 | 0x5C | 0x5D => 7 | 0x5E => 10 | 0x5F => 6 | 0x60 => 5
  | 0x41 | 0x42 | 0x43 | 0x44 | 0x45 | 0x46 | 0x47 | 0x48 | 0x49 | 0x4A | 0x4E | 0x50 | 0x51 | 0x56 | 0x58 | 0x61 => 1
  | _ => 0

/-- Bits [hi:lo] of a word, as a number (R2). -/
def field (w : Word) (hi lo : Nat) : Nat := (w.toNat >>> lo) % 2 ^ (hi + 1 - lo)

/-- Position of a data operand of 1, 2 or 4 registers by its SIZE code (R211). -/
def dataPos (one two four : Pos) (size : Nat) : Pos :=
  if size = 3 then two else if size = 4 then four else one

/-- Is the type held in a pair (R139)? -/
def ty64 (ty : Nat) : Bool := ty = 12 ∨ ty = 13

/-- Positions of an extended instruction (R70 and the reference entries); they may depend on TY, MOD and, for ERET, on
whether C holds 0x7B (R302). The A operands of HGATE and SWAIT take what a source field takes, specials and z too.
[DESIGN CHOICE: notes/assumptions/63.md] -/
def extForm (op fn ty : Nat) (mod : Word) (cz : Bool) : Form :=
  match op, fn with
  | 0x40, _ => let p := if ty64 ty then Pos.src2 else .src; ⟨.dst, p, p, .zero⟩
  | 0x41, _ | 0x42, _ | 0x45, _ | 0x46, _ | 0x4A, _ => ⟨.dst, .src, .src, .src⟩
  | 0x43, _ => ⟨.dst2, .src, .src, .zero⟩
  | 0x44, _ => ⟨.dst, .src, .src, .zero⟩
  | 0x47, _ | 0x49, _ | 0x4B, _ => ⟨.dst, .src, .zero, .zero⟩
  | 0x48, _ =>
    ⟨if ty64 ty then .dst2 else .dst, if ty64 (field mod 7 4) then .src2 else .src,
     if field mod 2 0 = 4 then .src else .zero, .zero⟩
  | 0x4C, 3 => ⟨.dst, .src, .src, .src⟩
  | 0x4C, _ => ⟨.dst, .src, .src, .zero⟩
  | 0x4D, 0 => ⟨.dst, .src, .src, .zero⟩
  | 0x4D, _ => ⟨.dst, .src, .zero, .zero⟩
  | 0x4E, _ => ⟨.dst, .src2, .src, .zero⟩
  | 0x50, _ => ⟨dataPos .dst .dst2 .dst4 (field mod 19 17), .src, .src, .zero⟩
  | 0x51, _ => ⟨.zero, .src, .src, dataPos .src .src2 .src4r (field mod 19 17)⟩
  | 0x52, 9 => if field mod 19 17 = 3 then ⟨.dst2, .src, .src, .src4r⟩ else ⟨.dst, .src, .src, .src2⟩
  | 0x52, _ => if field mod 19 17 = 3 then ⟨.dst2, .src, .src, .src2⟩ else ⟨.dst, .src, .src, .src⟩
  | 0x53, 0 => ⟨.zero, .src, .src, .src⟩
  | 0x53, _ => ⟨.dst, .src, .src, .zero⟩
  | 0x54, 0 => ⟨.dst2, .src, .src, .src⟩
  | 0x54, _ => ⟨.dst, .src, .src, .src⟩
  | 0x55, 0 => ⟨.dst, .src2, .src, .zero⟩
  | 0x55, _ => ⟨.zero, .src, .zero, .zero⟩
  | 0x57, 0 => ⟨dataPos .dst .dst2 .dst4 (field mod 19 17), .src2r, .src, .zero⟩
  | 0x57, _ => ⟨.zero, .src2r, .src, dataPos .src .src2 .src4r (field mod 19 17)⟩
  | 0x58, _ => ⟨.zero, .regs4, .zero, .zero⟩
  | 0x59, 0 => ⟨.dst, .zero, .zero, .zero⟩
  | 0x59, 1 => ⟨.zero, .src, .zero, .zero⟩
  | 0x59, 5 => ⟨.zero, .src2, .zero, .zero⟩
  | 0x59, _ => ⟨.dst2, .src2, .zero, .zero⟩
  | 0x5A, 0 | 0x5A, 1 => ⟨.zero, .src, .src, .zero⟩
  | 0x5A, 2 => ⟨.dst2, .src, .zero, .zero⟩
  | 0x5B, 0 => ⟨.dst, .src, .src, .zero⟩
  | 0x5B, 1 => ⟨.zero, .src, .zero, .zero⟩
  | 0x5B, _ => ⟨.dst2, .src, .zero, .zero⟩
  | 0x5C, 0 | 0x5C, 6 => ⟨.zero, .src2r, .zero, .zero⟩
  | 0x5C, 1 => ⟨.zero, if field mod 1 1 = 1 then .regEven else .src2r, .src2r, .src⟩
  | 0x5C, 2 => ⟨.zero, if field mod 4 2 = 1 then .reg else .zero, .src2r, .src⟩
  | 0x5C, 3 => ⟨.zero, .src2r, .src2r, .src⟩
  | 0x5C, 4 => ⟨.zero, .regs4, .zero, .zero⟩
  | 0x5C, _ => ⟨.dst2, .zero, .zero, .zero⟩
  | 0x5D, 0 | 0x5D, 4 => ⟨.dst, .src, .src, .zero⟩
  | 0x5D, 1 | 0x5D, 2 => ⟨.dst, .src, .zero, .zero⟩
  | 0x5D, 3 => ⟨.dst2, .src, .zero, .zero⟩
  | 0x5D, 5 => ⟨.dst2, .src, .src, .zero⟩
  | 0x5E, 0 => ⟨.dst, .src, .src, .zero⟩
  | 0x5E, 2 => ⟨.dst, .src2r, .src, .src⟩
  | 0x5E, 3 => ⟨.dst, .src2r, .zero, .zero⟩
  | 0x5E, 4 | 0x5E, 6 | 0x5E, 7 => ⟨.dst, .src, .zero, .zero⟩
  | 0x5E, 5 | 0x5E, 8 => ⟨.dst2, .src, .zero, .zero⟩
  | 0x5E, 9 => ⟨.zero, .src, .zero, .zero⟩
  | 0x5F, 0 =>
    match sysReg (field mod 11 0) with
    | some r => ⟨if r.pair then .dst2 else .dst, .zero, .zero, .zero⟩
    | none => ⟨.dst, .zero, .zero, .zero⟩
  | 0x5F, 1 =>
    match sysReg (field mod 11 0) with
    | some r => ⟨.zero, if r.pair then .src2 else .src, .zero, .zero⟩
    | none => ⟨.zero, .src, .zero, .zero⟩
  | 0x5F, 2 => if cz then ⟨.zero, .zero, .zero, .zero⟩ else ⟨.dst, .src, .src, .src⟩
  | 0x5F, 3 => ⟨.dst, .src, .zero, .zero⟩
  | 0x5F, 4 => ⟨.dst, .src, .src2r, .src2r⟩
  | 0x5F, 5 => ⟨.zero, .src, .src, .zero⟩
  | 0x60, 4 => ⟨.zero, .zero, .zero, .zero⟩
  | 0x60, _ => ⟨.zero, .src, .zero, .zero⟩
  | 0x61, _ => ⟨.zero, if field mod 0 0 = 1 then .zero else .src, .zero, .zero⟩
  | _, _ => ⟨.zero, .zero, .zero, .zero⟩

/-- Is TY permitted (R70; R75 and R413 for SCAN and LRED)? -/
def tyOk (op fn ty : Nat) (mod : Word) : Bool :=
  match op, fn with
  | 0x40, 6 | 0x40, 7 => ty = 2
  | 0x40, _ => ty = 0 ∨ ty = 1 ∨ ty = 2 ∨ ty = 12 ∨ ty = 13
  | 0x42, _ | 0x43, _ | 0x44, _ => ty ≤ 1
  | 0x46, _ | 0x49, _ | 0x4B, _ => ty = 2
  | 0x47, _ => ty = 2 ∨ ty = 3 ∨ ty = 4
  | 0x48, _ => ty ≤ 14
  | 0x4A, _ => ty = 3 ∨ ty = 4
  | 0x4D, 2 | 0x4D, 3 =>
    match field mod 2 0 with
    | 0 => ty ≤ 1
    | 3 | 4 | 5 => ty = 0
    | 6 => ty = 2
    | _ => ty ≤ 2
  | 0x52, 10 => ty = 2
  | 0x5C, 0 => (3 ≤ ty ∧ ty ≤ 9) ∨ ty = 14 ∨ ty = 15
  | 0x5C, 1 | 0x5C, 2 => (3 ≤ ty ∧ ty ≤ 9) ∨ ty = 14
  | _, _ => ty = 0

/-- The memory map's limits (R76, R77) for OP and FN; `dz` says that D holds 0x7B, which DET needs. -/
def memModOk (op fn : Nat) (mod : Word) (dz : Bool) : Bool :=
  let scope := field mod 2 0; let order := field mod 5 3; let fef := field mod 7 6
  let bp := field mod 16 8; let size := field mod 19 17; let sx := field mod 20 20; let det := field mod 21 21
  let rest := decide (field mod 31 22 = 0 ∧ scope ≤ 4)
  rest && match op, fn with
  | 0x50, _ => decide (order ≤ 1 ∧ fef ≤ 2 ∧ (fef = 0 → bp = 0) ∧ size ≤ 4 ∧ (sx = 1 → size ≤ 1) ∧ det = 0)
  | 0x51, _ => decide ((order = 0 ∨ order = 2) ∧ (fef = 0 ∨ fef = 3) ∧ (fef = 0 → bp = 0) ∧ size ≤ 4 ∧ sx = 0 ∧ det = 0)
  | 0x52, _ => decide (order ≤ 3 ∧ fef = 0 ∧ bp = 0 ∧ (size = 2 ∨ size = 3) ∧ sx = 0
      ∧ (fn = 10 → size = 2) ∧ (det = 1 → fn = 10 ∧ dz = true))
  | 0x53, 0 => decide ((order = 0 ∨ order = 2) ∧ 2 ≤ fef ∧ bp = 0 ∧ size = 2 ∧ sx = 0 ∧ det = 0)
  | 0x53, _ => decide (order ≤ 1 ∧ fef = 0 ∧ bp = 0 ∧ size = 2 ∧ sx = 0 ∧ det = 0)
  | 0x54, 0 => decide (order ≤ 1 ∧ fef = 0 ∧ size = 2 ∧ sx = 0 ∧ det = 0)
  | 0x54, _ => decide ((order = 0 ∨ order = 2) ∧ fef = 0 ∧ bp = 0 ∧ size = 2 ∧ sx = 0 ∧ det = 0)
  | _, _ => decide (1 ≤ order ∧ order ≤ 3 ∧ fef = 0 ∧ bp = 0 ∧ size = 0 ∧ sx = 0 ∧ det = 0)

/-- Is MOD permitted (R71 to R82, R18, R27)? -/
def modOk (op fn : Nat) (mod : Word) (dz : Bool) : Bool :=
  match op, fn with
  | 0x46, _ | 0x49, _ | 0x4A, _ => decide (field mod 31 2 = 0)
  | 0x48, _ => decide (field mod 31 8 = 0 ∧ field mod 7 4 ≤ 14 ∧ field mod 2 0 ≤ 4)
  | 0x4B, _ => decide (field mod 31 1 = 0)
  | 0x4C, 6 => decide (field mod 31 13 = 0 ∧ field mod 7 7 = 0 ∧ 1 ≤ field mod 4 0 ∧ field mod 4 0 ≤ 16
      ∧ 1 ≤ field mod 12 8 ∧ field mod 12 8 ≤ 16)
  | 0x4C, _ => decide (field mod 31 7 = 0 ∧ 1 ≤ field mod 4 0 ∧ field mod 4 0 ≤ 16)
  | 0x4D, 0 | 0x4D, 1 => decide (field mod 31 2 = 0)
  | 0x4D, 2 => decide (field mod 31 4 = 0 ∧ field mod 2 0 ≤ 6)
  | 0x4D, _ => decide (field mod 31 3 = 0 ∧ field mod 2 0 ≤ 6)
  | 0x50, _ | 0x51, _ | 0x52, _ | 0x53, _ | 0x54, _ | 0x56, _ => memModOk op fn mod dz
  | 0x57, _ => decide (field mod 31 20 = 0 ∧ field mod 16 0 = 0 ∧ field mod 19 17 ≤ 4)
  | 0x5B, 0 => decide (field mod 31 2 = 0 ∧ field mod 1 0 ≤ 2)
  | 0x5C, 0 => decide (field mod 31 1 = 0)
  | 0x5C, 1 => decide (field mod 31 2 = 0)
  | 0x5C, 2 => decide (field mod 31 16 = 0 ∧ field mod 7 5 = 0 ∧ field mod 1 1 = 0 ∧ field mod 4 2 ≤ 3
      ∧ (field mod 4 2 = 3 ↔ field mod 15 8 ≠ 0))
  | 0x5D, 2 | 0x5D, 3 => decide (field mod 31 2 = 0)
  | 0x5F, 0 | 0x5F, 1 => decide (field mod 31 12 = 0)
  | 0x60, 0 | 0x60, 3 => decide (field mod 31 9 = 0)
  | 0x60, _ => decide (field mod 31 8 = 0)
  | 0x61, _ => decide (field mod 31 1 = 0)
  | _, _ => decide (mod = 0)

/-- The memory map as a structure (R76). -/
def memMod (mod : Word) : Option MemMod := do
  let scope ← Scope.ofCode (field mod 2 0)
  let order ← Order.ofCode (field mod 5 3)
  let size ← Size.ofCode (field mod 19 17)
  return ⟨scope, order, Fef.ofCode (field mod 7 6), BitVec.ofNat 8 (field mod 15 8), field mod 16 16 = 1, size,
    field mod 20 20 = 1, field mod 21 21 = 1⟩

/-- The MOD word of a memory map (R76). -/
def memModWord (m : MemMod) : Word :=
  BitVec.ofNat 32 (m.scope.code + m.order.code * 2 ^ 3 + m.fef.code * 2 ^ 6 + m.budget.toNat * 2 ^ 8
    + m.park.toNat * 2 ^ 16 + m.size.code * 2 ^ 17 + m.sx.toNat * 2 ^ 20 + m.det.toNat * 2 ^ 21)

/-- The narrow map without Q (R74). -/
def narMod (mod : Word) : NarMod := ⟨field mod 4 0, field mod 5 5 = 1, field mod 6 6 = 1⟩

/-- The MOD word of a narrow map (R74). -/
def narModWord (m : NarMod) (q : Nat) : Word :=
  BitVec.ofNat 32 (m.p + m.s.toNat * 2 ^ 5 + m.sat.toNat * 2 ^ 6 + q * 2 ^ 8)

/-- The extended instruction of OP, FN, TY and MOD (R70). It is asked for only once `tyOk` and `modOk` hold. -/
def buildExt (op fn ty : Nat) (mod : Word) (x : XOps) : Option Instr :=
  let t := Ty.ofCode ty
  let gr := Grade.ofCode (field mod 0 0)
  match op, fn with
  | 0x40, _ => (Rel.ofCode fn).map fun r => .cmp x t r
  | 0x41, _ => some (.sel x)
  | 0x42, _ => some (.mad x t)
  | 0x43, _ => some (.div x t)
  | 0x44, _ => some (.bfx x t)
  | 0x45, _ => some (.bfi x)
  | 0x46, _ => (RM.ofCode (field mod 2 0)).map fun r => .ffma x r
  | 0x47, _ => some (.fcls x t)
  | 0x48, _ => (RM.ofCode (field mod 2 0)).map fun r => .cvt x t (Ty.ofCode (field mod 7 4)) (field mod 3 3 = 1) r
  | 0x49, _ => (RM.ofCode (field mod 2 0)).map fun r => .frnd x r
  | 0x4A, _ => (RM.ofCode (field mod 2 0)).map fun r => .pfma x t r
  | 0x4B, 0 => some (.ex2 x gr) | 0x4B, 1 => some (.lg2 x gr) | 0x4B, 2 => some (.rcp x gr)
  | 0x4B, 3 => some (.rsq x gr) | 0x4B, 4 => some (.sqt x gr) | 0x4B, 5 => some (.sin x gr)
  | 0x4B, 6 => some (.cos x gr) | 0x4B, 7 => some (.tanh x gr) | 0x4B, 8 => some (.sigm x gr)
  | 0x4B, 9 => some (.erf x gr)
  | 0x4C, 0 => some (.nadd x (narMod mod)) | 0x4C, 1 => some (.nsub x (narMod mod))
  | 0x4C, 2 => some (.nmul x (narMod mod)) | 0x4C, 3 => some (.ndot x (narMod mod))
  | 0x4C, 4 => some (.nmin x (narMod mod)) | 0x4C, 5 => some (.nmax x (narMod mod))
  | 0x4C, 6 => some (.npack x (narMod mod) (field mod 12 8))
  | 0x4D, 0 => (ShflMode.ofCode (field mod 2 0)).map fun m => .shfl x m
  | 0x4D, 1 => (VoteMode.ofCode (field mod 2 0)).map fun m => .vote x m
  | 0x4D, 2 => (RedMode.ofCode (field mod 2 0)).map fun m => .scan x t m (field mod 3 3 = 1)
  | 0x4D, 3 => (RedMode.ofCode (field mod 2 0)).map fun m => .lred x t m
  | 0x4E, _ => some (.rnd x)
  | 0x50, _ => (memMod mod).map fun m => .ld x m
  | 0x51, _ => (memMod mod).map fun m => .st x m
  | 0x52, _ => (memMod mod).bind fun m => (AtomFn.ofCode fn).map fun f => .atom x f m
  | 0x53, 0 => (memMod mod).map fun m => .feset x m
  | 0x53, 1 => (memMod mod).map fun m => .feget x m
  | 0x54, 0 => (memMod mod).map fun m => .waita x m
  | 0x54, 1 => (memMod mod).map fun m => .wake x m
  | 0x55, 0 => some (.xlat x) | 0x55, 1 => some (.xdrop x)
  | 0x56, _ => (memMod mod).map fun m => .fence x m
  | 0x57, 0 => (Size.ofCode (field mod 19 17)).map fun s => .ldt x s
  | 0x57, 1 => (Size.ofCode (field mod 19 17)).map fun s => .stt x s
  | 0x58, _ => some (.cpy x)
  | 0x59, 0 => some (.seal x) | 0x59, 1 => some (.swait x) | 0x59, 2 => some (.twany x)
  | 0x59, 3 => some (.twall x) | 0x59, 4 => some (.tfirst x) | 0x59, 5 => some (.tclr x)
  | 0x5A, 0 => some (.binit x) | 0x5A, 1 => some (.barv x) | 0x5A, 2 => some (.bwait x) | 0x5A, 3 => some (.gsync x)
  | 0x5B, 0 => (TLevel.ofCode (field mod 1 0)).map fun l => .talloc x l
  | 0x5B, 1 => some (.tfree x) | 0x5B, 2 => some (.tinfo x)
  | 0x5C, 0 => some (.mwld x t (field mod 0 0 = 1))
  | 0x5C, 1 => some (.mstr x t (field mod 0 0 = 1) (field mod 1 1 = 1))
  | 0x5C, 2 => (ConKind.ofCode (field mod 4 2)).map fun k =>
      .mcon x t (field mod 0 0 = 1) k (BitVec.ofNat 8 (field mod 15 8))
  | 0x5C, 3 => some (.mclose x) | 0x5C, 4 => some (.mtile x) | 0x5C, 5 => some (.mstat x) | 0x5C, 6 => some (.cbld x)
  | 0x5D, 0 => some (.launch x) | 0x5D, 1 => some (.join x)
  | 0x5D, 2 => some (.cancel x (CLevel.ofCode (field mod 1 0)))
  | 0x5D, 3 => some (.cntrd x (CLevel.ofCode (field mod 1 0)))
  | 0x5D, 4 => some (.wlput x) | 0x5D, 5 => some (.wlget x) | 0x5D, 6 => some (.lcsync x)
  | 0x5E, 0 => some (.caopen x) | 0x5E, 1 => some (.caclose x) | 0x5E, 2 => some (.caload x)
  | 0x5E, 3 => some (.calearn x) | 0x5E, 4 => some (.cadec x) | 0x5E, 5 => some (.caprop x)
  | 0x5E, 6 => some (.caback x) | 0x5E, 7 => some (.caval x) | 0x5E, 8 => some (.catrail x) | 0x5E, 9 => some (.cadel x)
  | 0x5F, 0 => some (.srd x (BitVec.ofNat 12 (field mod 11 0)))
  | 0x5F, 1 => some (.swr x (BitVec.ofNat 12 (field mod 11 0)))
  | 0x5F, 2 => if x.c = .zero then some (.eret x) else some (.eretDispose x)
  | 0x5F, 3 => some (.ralloc x) | 0x5F, 4 => some (.hgate x) | 0x5F, 5 => some (.intr x)
  | 0x60, 0 => some (.frun x (BitVec.ofNat 8 (field mod 7 0)) (field mod 8 8 = 1))
  | 0x60, 1 => some (.ftrip x (BitVec.ofNat 8 (field mod 7 0)))
  | 0x60, 2 => some (.fmask x (BitVec.ofNat 8 (field mod 7 0)))
  | 0x60, 3 => some (.fval x (BitVec.ofNat 8 (field mod 7 0)) (field mod 8 8 = 1))
  | 0x60, 4 => some (.regang x (BitVec.ofNat 8 (field mod 7 0)))
  | 0x61, _ => some (.vloop x (field mod 0 0 = 1))
  | _, _ => none

/-! ### The decoder -/

/-- Why a word list is no instruction: too few words for its LEN, or an illegal-instruction subcode (R84), with the
stream class where the opcode is known, since a wrong stream (0x04) is tested before the later subcodes (R83). -/
inductive DecErr
  | short
  | illegal (sub : Nat) (cls : Option StreamCls)
  deriving DecidableEq, Repr

/-- The first failing check of a list. -/
def firstError : List (Option Nat) → Option Nat
  | [] => none
  | some e :: _ => some e
  | none :: l => firstError l

/-- Words of an instruction by LEN (R57). -/
def lenWords (w : Word) : Nat :=
  match field w 1 0 with
  | 0 => 1 | 1 => 2 | 2 => 3 | _ => 5

/-- The literal of a base form in a position (R64): sign-extended in a pair position. -/
def baseLit (p : Pos) (l : Word) : DWord := if p.wide then l.signExtend 64 else l.setWidth 64

/-- Decode a base word and its literal (R59, R68, R69). [DEDUCED: notes/assumptions/18.md; DEDUCED: notes/assumptions/19.md] -/
def decodeBase (w : Word) (lit : Option Word) : Except DecErr Instr :=
  let op := field w 8 2
  let d := field w 15 9; let a := field w 22 16; let b := field w 29 23
  let cls := some (streamCls op 0)
  let f := baseForm op
  if op > 0x2E then .error (.illegal 0x01 none)
  else if (lit.isSome && !(baseLen op).1) || (lit.isNone && (baseLen op).2) then .error (.illegal 0x03 none)
  else if op = 0x00 then .ok .nop
  else if op = 0x22 then .ok (.bra (BitVec.ofNat 21 (field w 29 9)))
  else if op = 0x2C then
    match dstError .zero d with
    | some e => .error (.illegal e cls)
    | none => .ok (.trap (BitVec.ofNat 14 (a * 2 ^ 7 + b)))
  else
    let dErr := if op = 0x23 ∨ op = 0x2E then none else dstError f.d d
    match firstError [dErr, srcError f.a a, srcError f.b b,
        literalError false [(f.a, a), (f.b, b)] (lit.map (·.setWidth 64))] with
    | some e => .error (.illegal e cls)
    | none =>
      let l := lit.getD 0
      let A := Src.ofCode (baseLit f.a l) a
      let B := Src.ofCode (baseLit f.b l) b
      if op = 0x23 then
        match (if d < 8 then Cond.ofCode d else none) with
        | some c => .ok (.brc c A l)
        | none => .error (.illegal 0x11 cls)
      else if op = 0x24 then .ok (.call (Dst.ofCode d) l)
      else if op = 0x2E then
        match SendMode.ofCode d with
        | some m => .ok (if lit.isSome then .vsendLit m A else .vsend m A)
        | none => .error (.illegal 0x11 cls)
      else
        match buildBase op lit.isSome ⟨Dst.ofCode d, A, B⟩ with
        | some i => .ok i
        | none => .error (.illegal 0x01 none)

/-- Decode the three words of an extended instruction and its literal (R60, R70).
[DEDUCED: notes/assumptions/18.md; DEDUCED: notes/assumptions/19.md] -/
def decodeExt (w0 w1 w2 : Word) (lit : Option DWord) : Except DecErr Instr :=
  let op := field w0 8 2; let fn := field w1 30 23; let ty := field w1 22 19
  let d := field w0 15 9; let a := field w0 22 16; let b := field w0 29 23; let c := field w1 6 0
  let g := field w1 13 7; let gn := decide (field w1 14 14 = 1)
  let cls := some (streamCls op fn)
  if fnCount op = 0 then .error (.illegal 0x01 none)
  else if fn ≥ fnCount op then .error (.illegal 0x02 none)
  else
    let f := extForm op fn ty w2 (c = 0x7B)
    let dErr := if op = 0x5F ∧ fn = 2 ∧ c = 0x7B ∧ d ≠ 0x7B ∧ d ≠ 0x7F then some 0x07 else dstError f.d d
    let idx := field w2 11 0
    match firstError [dErr, srcError f.a a, srcError f.b b, srcError f.c c, guardError (op ≠ 0x61) g gn,
        literalError true [(f.a, a), (f.b, b), (f.c, c)] lit,
        (if tyOk op fn ty w2 then none else some 0x0D),
        (if modOk op fn w2 (d = 0x7B) then none else some 0x0E),
        (if op = 0x5F ∧ fn ≤ 1 ∧ sysReg idx = none then some 0x0F else none),
        (if op = 0x5F ∧ fn = 1 ∧ (sysReg idx).map (·.write) = some .none then some 0x10 else none)] with
    | some e => .error (.illegal e cls)
    | none =>
      let l := lit.getD 0
      let guard := if g = 0x7B then Guard.always else .on (Src.ofCode 0 g) gn
      let x : XOps := ⟨⟨field w1 18 15, Nat.mod_lt _ (by decide)⟩, guard, Dst.ofCode d, Src.ofCode l a, Src.ofCode l b,
        Src.ofCode l c⟩
      match buildExt op fn ty w2 x with
      | some i => .ok i
      | none => .error (.illegal 0x0E cls)

/-- Decode the instruction that starts a list of words (R57, R58), with its length in words. -/
def decode : List Word → Except DecErr (Instr × Nat)
  | [] => .error .short
  | w :: ws =>
    let op := field w 8 2
    let ext := decide (op ≥ 0x40)
    let bad : Except DecErr (Instr × Nat) :=
      .error (.illegal (if ext ∧ fnCount op = 0 ∨ ¬ ext ∧ op > 0x2E then 0x01 else 0x03) none)
    match field w 1 0, ws with
    | 0, _ => if ext then bad else (decodeBase w none).map (·, 1)
    | 1, l :: _ => if ext then bad else (decodeBase w (some l)).map (·, 2)
    | 2, w1 :: w2 :: _ => if ext then (decodeExt w w1 w2 none).map (·, 3) else bad
    | 3, w1 :: w2 :: l0 :: l1 :: _ => if ext then (decodeExt w w1 w2 (some (DWord.make l0 l1))).map (·, 5) else bad
    | _, _ => .error .short

/-- The instruction an opcode-table word stands for: bit 0 is the least significant bit of the first word, and the bits
above `nbits` are zero (R3, R57). -/
def decodeTableWord (nbits w : Nat) : Option Instr :=
  let v := w % 2 ^ nbits
  let ws := [0, 1, 2, 3, 4].map fun i => BitVec.ofNat 32 (v >>> (32 * i))
  match decode ws with
  | .ok (i, _) => some i
  | .error _ => none

/-! ### The encoder -/

/-- How an instruction is encoded: not at all (an engine's step), as a base word with operand codes, as one of the base
words whose fields have other meanings (R69), or extended. -/
inductive Enc
  | none
  | base (op : Nat) (o : BOps)
  | word (w : Word)
  | wordLit (w l : Word)
  | send (mode : SendMode) (a : Src)
  | brc (cond : Cond) (a : Src) (off : Word)
  | ext (op fn ty : Nat) (mod : Word) (x : XOps)
  deriving DecidableEq, Repr

/-- The encoding of every constructor (R68 to R82). -/
def Instr.enc : Instr → Enc
  | .nop => .word 0
  | .mov o | .movLit o => .base 0x01 o
  | .add o | .addLit o => .base 0x02 o
  | .sub o | .subLit o => .base 0x03 o
  | .mul o | .mulLit o => .base 0x04 o
  | .mulhS32 o | .mulhS32Lit o => .base 0x05 o
  | .mulhN32 o | .mulhN32Lit o => .base 0x06 o
  | .minS32 o | .minS32Lit o => .base 0x07 o
  | .minN32 o | .minN32Lit o => .base 0x08 o
  | .maxS32 o | .maxS32Lit o => .base 0x09 o
  | .maxN32 o | .maxN32Lit o => .base 0x0A o
  | .abs o | .absLit o => .base 0x0B o
  | .and o | .andLit o => .base 0x0C o
  | .or o | .orLit o => .base 0x0D o
  | .xor o | .xorLit o => .base 0x0E o
  | .andn o | .andnLit o => .base 0x0F o
  | .shl o | .shlLit o => .base 0x10 o
  | .shr o | .shrLit o => .base 0x11 o
  | .sra o | .sraLit o => .base 0x12 o
  | .rot o | .rotLit o => .base 0x13 o
  | .popc o | .popcLit o => .base 0x14 o
  | .clz o | .clzLit o => .base 0x15 o
  | .brev o | .brevLit o => .base 0x16 o
  | .prmb o | .prmbLit o => .base 0x17 o
  | .fadd o | .faddLit o => .base 0x18 o
  | .fsub o | .fsubLit o => .base 0x19 o
  | .fmul o | .fmulLit o => .base 0x1A o
  | .fmin o | .fminLit o => .base 0x1B o
  | .fmax o | .fmaxLit o => .base 0x1C o
  | .addw o | .addwLit o => .base 0x1D o
  | .mulwN32 o | .mulwN32Lit o => .base 0x1E o
  | .mulwS32 o | .mulwS32Lit o => .base 0x1F o
  | .ixrd o | .ixrdLit o => .base 0x20 o
  | .ixwr o | .ixwrLit o => .base 0x21 o
  | .bra off => .word (BitVec.ofNat 32 (0x88 + off.toNat * 2 ^ 9))
  | .brc c a off => .brc c a off
  | .call d off => .wordLit (BitVec.ofNat 32 (0x91 + d.code * 2 ^ 9 + 0x7B * 2 ^ 16 + 0x78 * 2 ^ 23)) off
  | .jmp a | .jmpLit a => .base 0x25 ⟨.none, a, .zero⟩
  | .exit => .base 0x26 ⟨.none, .zero, .zero⟩
  | .vend => .base 0x27 ⟨.none, .zero, .zero⟩
  | .vlend => .base 0x28 ⟨.none, .zero, .zero⟩
  | .vpop d => .base 0x29 ⟨d, .zero, .zero⟩
  | .frecv d => .base 0x2A ⟨d, .zero, .zero⟩
  | .yield => .base 0x2B ⟨.none, .zero, .zero⟩
  | .trap c => .word (BitVec.ofNat 32 (0xB0 + 0x7B * 2 ^ 9 + (c.toNat / 2 ^ 7) * 2 ^ 16 + (c.toNat % 2 ^ 7) * 2 ^ 23))
  | .rfree a | .rfreeLit a => .base 0x2D ⟨.none, a, .zero⟩
  | .vsend m a | .vsendLit m a => .send m a
  | .cmp x ty r => .ext 0x40 r.code ty.code 0 x
  | .sel x => .ext 0x41 0 0 0 x
  | .mad x ty => .ext 0x42 0 ty.code 0 x
  | .div x ty => .ext 0x43 0 ty.code 0 x
  | .bfx x ty => .ext 0x44 0 ty.code 0 x
  | .bfi x => .ext 0x45 0 0 0 x
  | .ffma x rm => .ext 0x46 0 2 (BitVec.ofNat 32 rm.code) x
  | .fcls x ty => .ext 0x47 0 ty.code 0 x
  | .cvt x ty sty sat rm =>
    .ext 0x48 0 ty.code (BitVec.ofNat 32 (rm.code + sat.toNat * 2 ^ 3 + sty.code * 2 ^ 4)) x
  | .frnd x rm => .ext 0x49 0 2 (BitVec.ofNat 32 rm.code) x
  | .pfma x ty rm => .ext 0x4A 0 ty.code (BitVec.ofNat 32 rm.code) x
  | .ex2 x g => .ext 0x4B 0 2 (BitVec.ofNat 32 g.code) x
  | .lg2 x g => .ext 0x4B 1 2 (BitVec.ofNat 32 g.code) x
  | .rcp x g => .ext 0x4B 2 2 (BitVec.ofNat 32 g.code) x
  | .rsq x g => .ext 0x4B 3 2 (BitVec.ofNat 32 g.code) x
  | .sqt x g => .ext 0x4B 4 2 (BitVec.ofNat 32 g.code) x
  | .sin x g => .ext 0x4B 5 2 (BitVec.ofNat 32 g.code) x
  | .cos x g => .ext 0x4B 6 2 (BitVec.ofNat 32 g.code) x
  | .tanh x g => .ext 0x4B 7 2 (BitVec.ofNat 32 g.code) x
  | .sigm x g => .ext 0x4B 8 2 (BitVec.ofNat 32 g.code) x
  | .erf x g => .ext 0x4B 9 2 (BitVec.ofNat 32 g.code) x
  | .nadd x m => .ext 0x4C 0 0 (narModWord m 0) x
  | .nsub x m => .ext 0x4C 1 0 (narModWord m 0) x
  | .nmul x m => .ext 0x4C 2 0 (narModWord m 0) x
  | .ndot x m => .ext 0x4C 3 0 (narModWord m 0) x
  | .nmin x m => .ext 0x4C 4 0 (narModWord m 0) x
  | .nmax x m => .ext 0x4C 5 0 (narModWord m 0) x
  | .npack x m q => .ext 0x4C 6 0 (narModWord m q) x
  | .shfl x m => .ext 0x4D 0 0 (BitVec.ofNat 32 m.code) x
  | .vote x m => .ext 0x4D 1 0 (BitVec.ofNat 32 m.code) x
  | .scan x ty m e => .ext 0x4D 2 ty.code (BitVec.ofNat 32 (m.code + e.toNat * 2 ^ 3)) x
  | .lred x ty m => .ext 0x4D 3 ty.code (BitVec.ofNat 32 m.code) x
  | .rnd x => .ext 0x4E 0 0 0 x
  | .ld x m => .ext 0x50 0 0 (memModWord m) x
  | .st x m => .ext 0x51 0 0 (memModWord m) x
  | .atom x fn m => .ext 0x52 fn.code (if fn = .fadd then 2 else 0) (memModWord m) x
  | .feset x m => .ext 0x53 0 0 (memModWord m) x
  | .feget x m => .ext 0x53 1 0 (memModWord m) x
  | .waita x m => .ext 0x54 0 0 (memModWord m) x
  | .wake x m => .ext 0x54 1 0 (memModWord m) x
  | .xlat x => .ext 0x55 0 0 0 x
  | .xdrop x => .ext 0x55 1 0 0 x
  | .fence x m => .ext 0x56 0 0 (memModWord m) x
  | .ldt x s => .ext 0x57 0 0 (BitVec.ofNat 32 (s.code * 2 ^ 17)) x
  | .stt x s => .ext 0x57 1 0 (BitVec.ofNat 32 (s.code * 2 ^ 17)) x
  | .cpy x => .ext 0x58 0 0 0 x
  | .seal x => .ext 0x59 0 0 0 x
  | .swait x => .ext 0x59 1 0 0 x
  | .twany x => .ext 0x59 2 0 0 x
  | .twall x => .ext 0x59 3 0 0 x
  | .tfirst x => .ext 0x59 4 0 0 x
  | .tclr x => .ext 0x59 5 0 0 x
  | .binit x => .ext 0x5A 0 0 0 x
  | .barv x => .ext 0x5A 1 0 0 x
  | .bwait x => .ext 0x5A 2 0 0 x
  | .gsync x => .ext 0x5A 3 0 0 x
  | .talloc x l => .ext 0x5B 0 0 (BitVec.ofNat 32 l.code) x
  | .tfree x => .ext 0x5B 1 0 0 x
  | .tinfo x => .ext 0x5B 2 0 0 x
  | .mwld x ty t => .ext 0x5C 0 ty.code (BitVec.ofNat 32 t.toNat) x
  | .mstr x ty start rg => .ext 0x5C 1 ty.code (BitVec.ofNat 32 (start.toNat + rg.toNat * 2)) x
  | .mcon x ty start k sl =>
    .ext 0x5C 2 ty.code (BitVec.ofNat 32 (start.toNat + k.code * 2 ^ 2 + sl.toNat * 2 ^ 8)) x
  | .mclose x => .ext 0x5C 3 0 0 x
  | .mtile x => .ext 0x5C 4 0 0 x
  | .mstat x => .ext 0x5C 5 0 0 x
  | .cbld x => .ext 0x5C 6 0 0 x
  | .launch x => .ext 0x5D 0 0 0 x
  | .join x => .ext 0x5D 1 0 0 x
  | .cancel x l => .ext 0x5D 2 0 (BitVec.ofNat 32 l.code) x
  | .cntrd x l => .ext 0x5D 3 0 (BitVec.ofNat 32 l.code) x
  | .wlput x => .ext 0x5D 4 0 0 x
  | .wlget x => .ext 0x5D 5 0 0 x
  | .lcsync x => .ext 0x5D 6 0 0 x
  | .caopen x => .ext 0x5E 0 0 0 x
  | .caclose x => .ext 0x5E 1 0 0 x
  | .caload x => .ext 0x5E 2 0 0 x
  | .calearn x => .ext 0x5E 3 0 0 x
  | .cadec x => .ext 0x5E 4 0 0 x
  | .caprop x => .ext 0x5E 5 0 0 x
  | .caback x => .ext 0x5E 6 0 0 x
  | .caval x => .ext 0x5E 7 0 0 x
  | .catrail x => .ext 0x5E 8 0 0 x
  | .cadel x => .ext 0x5E 9 0 0 x
  | .srd x i => .ext 0x5F 0 0 (i.setWidth 32) x
  | .swr x i => .ext 0x5F 1 0 (i.setWidth 32) x
  | .eret x => .ext 0x5F 2 0 0 x
  | .eretDispose x => .ext 0x5F 2 0 0 x
  | .ralloc x => .ext 0x5F 3 0 0 x
  | .hgate x => .ext 0x5F 4 0 0 x
  | .intr x => .ext 0x5F 5 0 0 x
  | .frun x m r => .ext 0x60 0 0 (BitVec.ofNat 32 (m.toNat + r.toNat * 2 ^ 8)) x
  | .ftrip x m => .ext 0x60 1 0 (m.setWidth 32) x
  | .fmask x m => .ext 0x60 2 0 (m.setWidth 32) x
  | .fval x m r => .ext 0x60 3 0 (BitVec.ofNat 32 (m.toNat + r.toNat * 2 ^ 8)) x
  | .regang x m => .ext 0x60 4 0 (m.setWidth 32) x
  | .vloop x ft => .ext 0x61 0 0 (BitVec.ofNat 32 ft.toNat) x
  | .coreCycle _ | .ownerFreezeEnd _ | .resultWriteback _ | .windowCommitPoint _ _ | .flumeSendResume _
  | .sliceTakesRun _ _ | .sliceTakesMask _ _ | .sliceTakesRegang _ _ | .sliceTakesEnd _ _ | .vpopTakesVal _ _
  | .vloopTakesTrip _ _ | .returnQueueEntryArrive _ | .vsendPushResume _ _ | .frecvPop _
  | .returnQueueStarvation _ | .flumeDeadlock _ | .strandEnd _ | .rallocGrant _ | .rfreeQuietAct _
  | .strandSwapOut _ _ | .strandSwapOutEnd _ | .strandSwapIn _ | .strandSwapInEnd _ | .rotacWrite _ _
  | .rotacTakesEffect _ | .rotafStage _ | .rotafCommit _ | .rotafTableInForce | .swapBegin _ | .swapQuietEnd _
  | .drainSlotArrival _ | .swapSavePhase _ | .swapRestorePhase _ | .swapRebind _ | .swapComplete _
  | .tileDrainComplete _ _ _ | .tallocPickGrant _ | .copyUnitLands _ | .copyPageGranted _ | .copyComplete _
  | .matCommandStart _ | .matCommandEnd _ | .twanyReturn _ | .twallReturn _ | .swaitComplete _ | .bwaitRelease _
  | .gsyncComplete _ | .memoryAccessAct _ | .feRetryAttempt _ _ | .wokenRetry _ _ | .waitaSpuriousReturn _ _
  | .xlatAct _ | .clauseCommandStart _ _ | .capropRound _ _ | .caloadColumnWrite _ _ | .clauseCommandEnd _ _
  | .launchAct _ | .distributorStep _ | .overflowRecordRead _ | .groupStrandsStart _ | .joinObserveZero _
  | .joinSwapOut _ | .joinSwapIn _ | .cancelStrandStop _ | .cancelQtimeoutKill _ | .wlputAct _ | .wlgetAttempt _
  | .strandedDetect _ _ | .trapInPlaceEntry _ | .trapRecordStore _ | .watchdogTrap _ | .correctedError
  | .storageErrorKill _ | .errorCountPoll _ _ | .preemptQuietEnd _ | .preemptDrainEnd _ | .preemptSaveEnd _
  | .enqueue _ _ _ | .commandTake _ | .hostLaunch _ _ | .hostOpen _ _ | .hostClose _ _ | .hostCancel _ _
  | .ocreate _ | .oreset _ | .odestroy _ | .load _ | .preempt _ | .restore _ | .swap _ | .pause _ | .resume _
  | .rota _ | .resolve _ | .unmap _ | .stats _ | .clearboot _ | .lcmapWrite _ | .lovfWrite _ _ | .parkbaseWrite _ _
  | .qtimeoutWrite _ _ | .jswapWrite _ _ | .intdropWrite | .intrRecordStore _ | .rfmCommand _ _ _ | .refreshSkip _ _
  | .kwayrLinkRetrain _ | .remoteRequestReceive _ | .remoteReplyReceive _ | .nackReceive _ | .remoteTimeout _
  | .powerOn _ | .recoveryImageReceive _ | .coreRailOvercurrent _ | .powerFault | .powerRecover _
  | .transferResend _ | .tailwaterWithholdEnd _ => .none

/-- Is the row an instruction, with an encoding? -/
def Instr.coded (i : Instr) : Bool :=
  match i.enc with
  | .none => false
  | _ => true

/-- The literal among source operands, if any. -/
def litOf : List Src → Option DWord
  | [] => none
  | .lit v :: _ => some v
  | _ :: l => litOf l

/-- A base word (R59). -/
def baseWord (op d a b : Nat) (lit : Bool) : Word :=
  BitVec.ofNat 32 (lit.toNat + op * 2 ^ 2 + d * 2 ^ 9 + a * 2 ^ 16 + b * 2 ^ 23)

/-- The guard's code and GN (R66). -/
def Guard.code : Guard → Nat × Nat
  | .always => (0x7B, 0)
  | .on g neg => (g.code, neg.toNat)

/-- A base word followed by its literal, if it has one. -/
def withLit (w : Bool → Word) : Option DWord → List Word
  | none => [w false]
  | some v => [w true, v.setWidth 32]

/-- The words of an instruction, in ascending address order (R57, R3). [DEDUCED: notes/assumptions/19.md] -/
def encode (i : Instr) : List Word :=
  match i.enc with
  | .none => []
  | .word w => [w]
  | .wordLit w l => [w, l]
  | .base op o => withLit (baseWord op o.d.code o.a.code o.b.code) (litOf [o.a, o.b])
  | .send m a => withLit (baseWord 0x2E m.code a.code 0x7B) (litOf [a])
  | .brc c a off => [baseWord 0x23 c.code a.code 0x78 true, off]
  | .ext op fn ty mod x =>
    let lit := litOf [x.a, x.b, x.c]
    let w0 := BitVec.ofNat 32 (2 + lit.isSome.toNat + op * 2 ^ 2 + x.d.code * 2 ^ 9 + x.a.code * 2 ^ 16
      + x.b.code * 2 ^ 23)
    let w1 := BitVec.ofNat 32 (x.c.code + x.g.code.1 * 2 ^ 7 + x.g.code.2 * 2 ^ 14 + x.la.val * 2 ^ 15 + ty * 2 ^ 19
      + fn * 2 ^ 23)
    match lit with
    | none => [w0, w1, mod]
    | some v => [w0, w1, mod, v.lo, v.hi]

/-- Length in words (R57). -/
def Instr.words (i : Instr) : Nat := (encode i).length

end Sys2Proof
end

