-- ==== Sys2Proof/WellFormed.lean ====
section
/-!
DEFINITION. When an instruction term is well formed: its operands, literal, type and modifiers are ones that
spec/02_encoding.md admits (R62 to R66, R70 to R82). The checks are the decoder's own tables, read on the term.
-/

namespace Sys2Proof

/-- A destination in a position (R62, R65). -/
def Dst.okAt (p : Pos) (d : Dst) : Bool := (dstError p d.code).isNone

/-- A source in a position (R62 to R65). -/
def Src.okAt (p : Pos) (s : Src) : Bool := (srcError p s.code).isNone

/-- A guard (R66). -/
def Guard.ok (allowed : Bool) : Guard → Bool
  | .always => true
  | .on (.lit _) _ => false
  | .on .zero _ => false
  | .on _ _ => allowed

/-- At most one literal, of the width its position reads (R64). -/
def litsOk (ext : Bool) (ps : List (Pos × Src)) : Bool :=
  decide ((ps.filter fun x => x.2.code = 0x78).length ≤ 1) &&
  ps.all fun x => match x.2 with
    | .lit v =>
      if ext then x.1.wide || v >>> 32 == 0
      else if x.1.wide then v == (v.setWidth 32).signExtend 64 else v >>> 32 == 0
    | _ => true

/-- Does the row carry a literal by its own name (R68: the X_LIT rows)? -/
def Instr.litRow : Instr → Option Bool
  | .movLit _ | .addLit _ | .subLit _ | .mulLit _ | .mulhS32Lit _ | .mulhN32Lit _ | .minS32Lit _ | .minN32Lit _
  | .maxS32Lit _ | .maxN32Lit _ | .absLit _ | .andLit _ | .orLit _ | .xorLit _ | .andnLit _ | .shlLit _ | .shrLit _
  | .sraLit _ | .rotLit _ | .popcLit _ | .clzLit _ | .brevLit _ | .prmbLit _ | .faddLit _ | .fsubLit _ | .fmulLit _
  | .fminLit _ | .fmaxLit _ | .addwLit _ | .mulwN32Lit _ | .mulwS32Lit _ | .ixrdLit _ | .ixwrLit _ | .jmpLit _
  | .rfreeLit _ | .vsendLit _ _ => some true
  | .mov _ | .add _ | .sub _ | .mul _ | .mulhS32 _ | .mulhN32 _ | .minS32 _ | .minN32 _ | .maxS32 _ | .maxN32 _ | .abs _
  | .and _ | .or _ | .xor _ | .andn _ | .shl _ | .shr _ | .sra _ | .rot _ | .popc _ | .clz _ | .brev _ | .prmb _
  | .fadd _ | .fsub _ | .fmul _ | .fmin _ | .fmax _ | .addw _ | .mulwN32 _ | .mulwS32 _ | .ixrd _ | .ixwr _ | .jmp _
  | .rfree _ | .vsend _ _ => some false
  | _ => none

/-- Fields wider in the term than in the encoding: precisions of the narrow map (R74), and the modes an instruction
shares a type with but does not admit (RM of R71, MemMod of R77, ERET's C of R302). -/
def Instr.fieldsOk : Instr → Bool
  | .nadd _ m | .nsub _ m | .nmul _ m | .ndot _ m | .nmin _ m | .nmax _ m => decide (m.p < 32)
  | .npack _ m q => decide (m.p < 32 ∧ q < 32)
  | .eret x => x.c == .zero
  | .eretDispose x => x.c != .zero
  | _ => true

/-- A well-formed instruction: one the encoding can express and the decoder accepts (R63 to R66, R70 to R84). Rows
without an encoding are not well-formed instructions. -/
def WellFormed (i : Instr) : Bool :=
  match i.enc with
  | .none => false
  | .word _ => true
  | .wordLit _ _ => true
  | .base op o =>
    let f := baseForm op
    o.d.okAt f.d && o.a.okAt f.a && o.b.okAt f.b && litsOk false [(f.a, o.a), (f.b, o.b)]
      && (i.litRow == none || i.litRow == some (litOf [o.a, o.b]).isSome)
  | .send _ a => litsOk false [(.src, a)] && i.litRow == some (litOf [a]).isSome
  | .brc _ a _ => (litOf [a]).isNone
  | .ext op fn ty mod x =>
    let f := extForm op fn ty mod (x.c == .zero)
    x.d.okAt f.d && x.a.okAt f.a && x.b.okAt f.b && x.c.okAt f.c && x.g.ok (op ≠ 0x61)
      && litsOk true [(f.a, x.a), (f.b, x.b), (f.c, x.c)]
      && tyOk op fn ty mod && modOk op fn mod (x.d == .none) && i.fieldsOk
      && (!(op == 0x5F && fn ≤ 1) || (sysReg (field mod 11 0)).isSome)
      && (!(op == 0x5F && fn == 1) || (sysReg (field mod 11 0)).map (·.write) != some .none)

end Sys2Proof
end

