-- ==== Sys2Proof/Machine/State.lean ====
section
/-!
DEFINITION. The state of a GZ-960 package as plain data, and its reset. INVENTORY.md lists the rule of spec/ that names
each piece and its reset value. Records that there are many of (strands, logical cores, owners, copies) stand in lists, each
with its own identity; tables of fixed size stand as sparse tables (`Tbl`) with the reset value left out.
-/

namespace Sys2Proof.Machine

/-- Why a step stops with a fault. -/
inductive Fault
  /-- Raised by the meaning of a row whose circumstances do not hold in this state: a step of an engine that has nothing to
  do, or an instruction when no stream is issuing. The hardware takes no such step. Safe. -/
  | notEnabled
  deriving DecidableEq, Repr

/-- Why a step has no meaning in the model. -/
inductive Refusal
  /-- Raised by `exec` for a row that has no meaning yet, by its mnemonic. Safe. -/
  | notModelled (mnemonic : String)
  deriving DecidableEq, Repr

/-! ### Streams -/

/-- The horizon of a write (R247): the owner that wrote, its generation, and an owner cycle of it; a device cycle, when it is untimed. -/
structure Hz where
  owner : Nat
  ogen  : Nat
  cyc   : Nat
  deriving DecidableEq, Repr

/-- A horizon as it is recorded (R247): the latest act cycle known of its accesses, and those of them, with their lanes, that have not acted. -/
structure Horizon where
  upTo  : Nat
  ahead : List (Nat × Nat)
  deriving DecidableEq, Repr

/-- No horizon. -/
def Horizon.none : Horizon := ⟨0, []⟩

/-- A trap as R296 names it; `mask` is TMASK. -/
structure Trap where
  cause : Nat
  sub   : Nat
  addr  : DWord
  mask  : Word
  deriving DecidableEq, Repr

/-- A result of an issued instruction that is not written, or whose lookahead window is open (R40 to R42). -/
structure Res where
  id      : Nat
  dsts    : List Nat  -- register numbers
  ext     : Bool      -- extended form
  left    : Nat       -- instructions that may still issue inside the window
  written : Bool
  deriving DecidableEq, Repr

/-- A register result in flight (R115, R315 section 7): writes as (register, lane, value). -/
structure Pend where
  id     : Nat
  set    : Option Nat  -- none: control stream; some: lowest slice of the gang set
  due    : Nat         -- owner cycle of the write; for a stepped form, counted by `steps`
  steps  : Nat         -- tailwater steps still to take (R124)
  writes : List (Nat × Nat × Word)
  deriving DecidableEq, Repr

/-- An instruction that waits at its place in its stream, with the operand values it read and the owner cycle it began. -/
structure Wait where
  instr : Instr
  id    : Nat
  vals  : List DWord
  since : Nat
  deriving DecidableEq, Repr

/-- How far a trapped stream has come (R298 to R301). -/
inductive TrapPhase
  | entry                  -- in-place entry: waits for the pending results (R299)
  | place (issue : Bool)   -- waits for a record place, found by a check at issue or at an act (R300)
  | await                  -- record taken; waits for ERET (R298)
  deriving DecidableEq, Repr

/-- A trapped stream. -/
structure Trapped where
  trap  : Trap
  phase : TrapPhase
  since : Nat
  port  : Nat              -- pipe or port in which it trapped: 0 control, 1 and 2 the ports (R300's order of R213)
  deriving DecidableEq, Repr

/-- The part that a control stream and a gang set have alike. -/
structure Stream where
  pc     : Word
  ready  : Nat             -- first owner cycle in which the stream may issue or take a token
  stood  : Nat             -- first owner cycle in which its next instruction stood as such (R307)
  res    : List Res
  wait   : Option Wait
  trap   : Option Trapped
  replay : Option Word     -- lanes to which the next instruction is confined (R302)
  hz     : Tbl Nat         -- by agent (R233): no memory instruction before this owner cycle (R247)
  far    : List (Nat × Hz) -- nor before the horizons of other owners' writes that an agent observed are past
  behind : List (Nat × Nat × Nat)  -- nor before the owner cycle after these acts: agent, access and lane (R247)
  half   : Bool            -- first half of a cost-2 instruction taken (R124)
  place  : Bool            -- its instruction issues again with a record place kept for it (R300)
  deriving DecidableEq, Repr

/-- Where a gang set stands (R22, R23). -/
inductive SetSt
  | idle
  | block
  | regang (tok : Nat)
  | stopped
  deriving DecidableEq, Repr

/-- An active loop (R27): its counter, the first instruction of the body and its VLEND. -/
structure Loop where
  count : Word
  body  : Word
  last  : Word
  deriving DecidableEq, Repr

/-- A gang set (R23). -/
structure GSet where
  slices   : List Nat      -- ascending
  st       : SetSt
  str      : Stream
  loops    : List Loop     -- innermost first
  lastVend : Word          -- R477
  clock    : Nat           -- R292
  deriving DecidableEq, Repr

/-- Token kinds (R17). -/
inductive TokKind
  | run | trip | mask | val | regang | fin
  deriving DecidableEq, Repr

/-- A flume entry: token (R17), slices still to take it, owner cycle of its send, clock stamp (R292). -/
structure Token where
  id      : Nat
  kind    : TokKind
  payload : Word
  mask    : List Nat
  left    : List Nat
  sent    : Nat
  stamp   : Nat
  hz      : Horizon        -- of a released token (R247)
  deriving DecidableEq, Repr

/-- A return-queue place (R33): its entry and the owner cycle in which it enters. -/
structure RqEntry where
  val    : Word
  enters : Nat
  here   : Bool
  hz     : Horizon
  deriving DecidableEq, Repr

/-- Where a control stream stands apart from waits and traps. -/
inductive CtlSt
  | run
  | exited
  deriving DecidableEq, Repr

/-- Whether a strand is resident (R53, R280, R283). A strand swapped out holds no strand slot: its identity then has a
number of 32 or more in the place of its slot. -/
inductive Resident
  | coming           -- its group is placed, its strands start 64 indices later (R280)
  | here
  | leaving (till : Nat)
  | out
  | back (till : Nat)
  deriving DecidableEq, Repr

/-- A strand (R9, R14). -/
structure Strand where
  id      : StrandId
  grp     : Nat            -- its group's identity
  index   : Nat            -- within the group
  age     : Nat            -- residency order (R47)
  res     : Resident
  joinOut : Bool           -- swapped out by R283
  leftAt  : Nat            -- order in which swapped strands left (R53)
  leftNow : Nat            -- owner cycle in which it began to leave: the watchdog's count stops there (R430)
  n       : Nat            -- register count
  slices  : Nat
  priv    : Nat
  tpriv   : Nat
  depth   : Nat
  tcause  : Word
  tpc     : Word
  tmask   : Word
  taddr   : DWord
  tstrand : Word
  entryPc : Word           -- the TPC written at the last in-place entry (R302)
  batch   : Word
  lclk    : Nat
  cbase   : Word
  vbase   : Word
  ctl     : Stream
  cst     : CtlSt
  acted   : Nat            -- owner cycle of the last act of an access of its control slice (R247)
  cregs   : Tbl Word       -- register × 4 + lane
  vregs   : Tbl Word       -- register × 32 + strand lane
  bmask   : Word
  sets    : List GSet
  flume   : List Token
  rq      : List RqEntry
  pends   : List Pend
  wlset   : List (Nat × Nat)  -- work-list sets it holds items of: list and set code (R289)
  killed  : Bool           -- stopped by R39
  refusals : List (Nat × Nat)  -- batches of its refused CAOPENs, and the owner cycles in which these end (R258, R260)
  disposed : List (StrandId × Nat × Nat)  -- RETRYs and NEXTs of it: the ERET's strand, its result, its owner cycle (R323)
  spilled : Option Nat     -- swapped or backed out: the number of the bytes in its place in the spill area (R12, R53, R324)
  quietBy : Option Nat     -- cancelled: stops at its next quiet point, killed after this owner cycle (R286)
  deriving DecidableEq, Repr

/-! ### Tiles, copies, the matrix array (spec/05) -/

/-- States of a tile entry (R162). -/
inductive TileSt
  | free | allocated | draining
  deriving DecidableEq, Repr

/-- A tile table entry (R162) with its contents: bytes by row × row bytes + byte, and companion bytes likewise (R165). -/
structure Tile where
  st     : TileSt
  gen    : Nat
  grp    : Nat
  level  : Nat
  shape  : Word
  uses   : Nat
  since  : Nat          -- DRAINING traps from the owner cycle after this one (R169)
  data   : Tbl Byte
  comp   : Tbl Byte
  deriving DecidableEq, Repr

/-- A tile write of the current owner cycle, applied when it ends (R176): array writes are marked, for the array itself
reads them. -/
structure TileWrite where
  array : Bool
  tile  : Nat
  comp  : Bool
  off   : Nat
  val   : Byte
  deriving DecidableEq, Repr

/-- A scratchpad descriptor (R173). -/
structure Desc where
  row    : Nat
  num    : Nat
  rot    : Nat
  tpitch : Nat
  rpitch : Nat
  deriving DecidableEq, Repr

/-- A step that the matrix array carries out (R196 to R200). `rows` of `mstr` are register rows (.reg). -/
inductive MatOp
  | mwld (ty : Nat) (t : Bool) (d : Desc) (chunk : Nat)
  | mstr (ty : Nat) (start : Bool) (a : Desc) (chunk from_ : Nat) (acc : Desc) (m : Nat) (rows : Option (List (List Byte)))
  | mcon (ty : Nat) (start : Bool) (kind : ConKind) (seglen : Nat) (perm : List Nat) (acc : Desc) (m : Nat)
  | mclose (acc out : Desc) (m : Nat)
  | cbld (d : Desc)
  deriving DecidableEq, Repr

/-- A macro record (R202). -/
structure Macro where
  w     : Desc
  a     : Desc
  acc   : Desc
  start : Bool
  wty   : Nat
  aty   : Nat
  m     : Nat
  nk    : Nat
  deriving DecidableEq, Repr

/-- Latched weights (R192): element codes and scale codes by column. -/
structure Latch where
  ty     : Nat
  t      : Bool
  mx     : Bool
  w      : List (List Nat)
  scales : List (List Nat)
  grp    : Nat               -- whose MWLD latched it (R305)
  deriving DecidableEq, Repr

/-- What a started array step will do at its END (R195). -/
inductive MatOut
  | writes (l : List TileWrite)
  | latch (l : Latch)
  | codebook (l : List Word)
  deriving DecidableEq, Repr

/-- What a follow-on command keeps of its copy (R183): its tag, its CRC if it had the flag, the bytes it moved. -/
structure FollowTag where
  tag   : Nat
  crc   : Option Word
  moved : Nat
  deriving DecidableEq, Repr

/-- A command in array order (R195): an operation, or an MTILE with its next step. -/
structure MatCmd where
  id      : Nat
  strand  : StrandId
  grp     : Nat
  op      : MatOp           -- of an MTILE, its step now entered
  macro_  : Option (Macro × Nat)  -- an MTILE's record and the number of its step
  entered : Nat
  batch   : Option Nat
  tag     : Option FollowTag
  out     : Option MatOut   -- some: started
  ends    : Nat             -- END, once started
  deriving DecidableEq, Repr

/-- What a page is, as a leaf entry names it (R203, R204). `frame` is the owner frame, host frame or peer entry of the
page's first 64 KiB. -/
structure Page where
  kind  : Nat      -- 1 device, 2 host, 3 peer
  frame : Nat
  base  : Nat      -- virtual address of the page
  size  : Nat
  w     : Bool
  sup   : Bool
  table : Bool     -- the table region (R206)
  deriving DecidableEq, Repr

/-- One side of a copy (R178). -/
inductive CopySide
  | mem (va : Nat) (page : Page) (pitch : Nat)   -- base address + offset, with the translation captured at issue (R209)
  | tile (d : Desc)
  deriving DecidableEq, Repr

/-- Base address of a companion or sink array in memory, with the window's translation. -/
structure CopyBase where
  va   : Nat
  page : Page
  deriving DecidableEq, Repr

/-- What a unit of a copy moves: bytes of the elements, whether each of their words is full, and companion bytes; `sure` is false of a word that a
WRITE not answered yet carries to a peer (R347, R349). -/
structure UnitData where
  bytes : List Byte
  full  : List Bool
  comp  : List Byte
  sure  : Bool
  deriving DecidableEq, Repr

/-- A copy in flight (R178 to R187). -/
structure Copy where
  id      : Nat
  strand  : StrandId
  grp     : Nat
  kind    : Nat
  tag     : Nat
  batch   : Option Nat
  bar     : Option (Nat × Nat)      -- barrier and the GEN recorded at issue (R190)
  crcOn   : Bool
  fem     : Nat
  follow  : Option MatOp
  src     : CopySide
  dst     : CopySide
  scale   : Option CopyBase         -- companion array in memory (R182)
  comp    : Nat                     -- companion bytes per row that move
  compPitch : Nat                   -- companion bytes per row of the tile (R165)
  block   : Nat                     -- bytes of an element block that moves with its scale byte (R235); 0: none
  sink    : Option CopyBase         -- sink (R184)
  pc      : Word                    -- of the CPY
  sup     : Bool                    -- issued at SUPER
  rowBytes : Nat
  rows    : Nat
  issued  : Nat
  base    : Option (Nat × Nat)      -- B with the bytes already moved, once the data phase began or was timed again (R181)
  unit    : Nat                     -- units moved (R180, R235)
  moved   : Nat                     -- bytes moved
  cbuf    : List Byte               -- companion bytes of the row in progress, for the CRC's copy order and the tile's words (R180)
  ebuf    : List Byte               -- element bytes read from the tile whose blocks have not landed yet (R180, R235)
  ahead   : List UnitData           -- units that a drain moved, whose landing cycles have not come (R131)
  seq0    : Nat                     -- SEQ of its first transfer (R346)
  sent    : Nat                     -- transfers opened (R346)
  segs    : Nat                     -- bytes landed of the segment in progress
  inWrite : Nat                     -- bytes moved that a WRITE not answered yet carries (R349)
  held    : List Nat                -- bytes of the segments that end in it
  crc     : Word
  waits   : Bool                    -- a page is not resident (R181)
  code    : Nat                     -- status (R185)
  stopAt  : Option Nat              -- killed: stops once this many bytes moved (R185)
  landed  : Nat                     -- owner cycle of the last landing
  need    : Nat                     -- released windows an untimed copy still waits for (R123)
  ended   : Bool                    -- completes in this owner cycle
  deriving DecidableEq, Repr

/-- A byte-counting barrier (R190). -/
structure Barrier where
  expected : Word
  arrived  : Word
  gen      : BitVec 16
  stale    : Word
  deriving DecidableEq, Repr

/-- A copy tag (R187). -/
structure Tag where
  bit    : Bool
  count  : Nat
  code   : Nat
  second : Word
  deriving DecidableEq, Repr

/-! ### Groups, logical cores -/

/-- Launch flags a group keeps (R274, R301). -/
structure LaunchFlags where
  idem    : Bool
  det     : Bool
  sup     : Bool           -- handler strands: host launch with the supervisor flag
  deriving DecidableEq, Repr

/-- A translation window slot (R207, R208). -/
structure WinSlot where
  gen   : Nat
  used  : Bool
  dropped : Option Nat   -- owner cycle of its XDROP: empty from the next one on (R209, R473)
  base  : Nat
  limit : Nat
  page  : Page
  deriving DecidableEq, Repr

/-- A group (R10, R279, R281). -/
structure Group where
  id      : Nat
  owner   : Nat
  lcore   : Nat
  launch  : Nat            -- identity of its launch
  number  : Nat            -- within its launch
  comp    : Nat
  quota   : Nat            -- tile quota in bytes
  flags   : LaunchFlags
  fault   : Bool           -- ends with STATUS FAULTED (R281)
  again   : Bool           -- killed by a tile-store error with IDEM: placed again (R281)
  killed  : Bool           -- killed by R305: copies stopped, one record
  gsDue   : Option Nat     -- owner cycle in which waiting GSYNCs proceed (R191)
  start   : Nat            -- index at which its strands become resident (R280)
  windows : Tbl WinSlot    -- translation slots 0 to 15 (R207)
  deriving DecidableEq, Repr

/-- A trap record that holds a place (R300): its eight words, its act cycle, and whether PUT is the store still due. -/
structure TrapRec where
  id     : Nat
  strand : StrandId
  grp    : Nat
  words  : List Word
  due    : Nat
  put    : Bool
  deriving DecidableEq, Repr

/-- The pipe or a vector port: the stream issued last (R45, R46), the first owner cycle in which it is free (R44), and
the first in which its divider is (R387). -/
structure Pipe where
  cur  : Option (StrandId × Nat)
  free : Nat
  div  : Nat
  deriving DecidableEq, Repr, Inhabited

/-- A logical core (R10 to R12, R111, R326). -/
structure LCore where
  owner    : Nat
  num      : Nat
  core     : Nat
  placed   : Bool
  resident : Bool
  trecs    : List TrapRec
  tiles    : Tbl Tile
  tbuf     : List TileWrite    -- tile writes of the current owner cycle, in order (R176)
  copies   : List Copy         -- in issue order
  endA     : Nat               -- END of the last ended copy of kinds 0, 1, 2, 4, 5 (R180)
  endB     : Nat               -- END of the last ended copy of kind 3
  tags     : Tbl Tag
  bars     : Tbl Barrier
  arrivals : List (Nat × Nat × Nat)  -- segments landed in this owner cycle: barrier, recorded GEN, bytes (R364)
  barHz    : Tbl Horizon       -- greatest horizon of the arrivals of a barrier's current generation (R247)
  bound    : List (Nat × Nat)  -- bound windows not yet past, as ranges from the first to before the second (R119)
  mats     : List MatCmd       -- in array order
  held     : List MatCmd       -- follow-on commands held by R418
  matEnd   : Nat               -- END of the last ended command
  latch    : Option Latch
  codebook : Option (List Word)
  ocyc     : Nat
  doneAt   : Option Nat        -- device cycle in which its last owner cycle ended (R110)
  asked    : Option Nat        -- owner cycle whose overruns are decided: the model's own (R116)
  dueIn    : Option Nat        -- last owner cycle with effects due in it: the model's own (R116)
  backed   : Option (Nat × Nat × Nat)  -- a level-0 tile in the spill area: entry, place, number of its bytes (R12)
  bankOut  : Option Nat        -- its latched state lies in the spill area: number of the bytes (R192)
  ostolen  : Nat
  igen     : Nat
  ctl      : Pipe
  yielded  : Option (StrandId × Nat)  -- the strand whose YIELD issued last, with OCYC then (R475)
  port0    : Pipe
  port1    : Pipe              -- the two ports share `port0.div`
  nextAge  : Nat
  deriving DecidableEq, Repr, Inhabited

/-! ### Clause arrays (spec/08) -/

/-- An entered command with its operands as read at issue (R257, R270). -/
inductive ClauseOp
  | open_ (clear : Bool)
  | close
  | load (d : Desc) (first n : Nat)
  | learn (d : Desc)
  | dec (w : Word)
  | prop (budget : Nat)
  | back (level : Nat)
  | val (v : Nat)
  | trail (i : Nat)
  | del (col : Nat)
  deriving DecidableEq, Repr

/-- A clause command that has entered and not ended (R258): `start` is S once started, `step` the rounds completed or the
next column, `ends` its E once known, `out` what it has to report so far, `dsts` the register and lanes it writes. -/
structure ClauseCmd where
  id     : Nat
  strand : StrandId
  grp    : Nat
  op     : ClauseOp
  dst    : Dst
  lanes  : List Nat
  batch  : Nat
  issued : Nat
  start  : Option Nat
  step   : Nat
  ends   : Option Nat
  out    : List Word
  row    : Nat             -- CALEARN: the row read at S
  done   : Bool            -- a drain brought it to its end; it reports at E (R270)
  deriving DecidableEq, Repr

/-- A clause array (R250 to R252). A column is the little-endian value of its 256 bytes; a row is its record word (R251). -/
structure ClauseArray where
  cells   : Tbl Nat
  enabled : List Nat                -- ascending
  rows    : Tbl Word
  trail   : List (Nat × Word)       -- variable and record, entry 0 first
  level   : Nat
  holder  : Option Nat              -- the group that holds it (R255)
  lastLc  : Option Nat              -- logical core of the last hold (R269)
  lastEnd : Nat                     -- E of the last ended command
  cmds    : List ClauseCmd          -- in array order
  deriving DecidableEq, Repr

/-! ### Owners -/

/-- What freezes an owner (R116, R117). -/
inductive Freeze
  | overdue (id : Nat)           -- an effect that is not ready (R116)
  | late (till : Nat)            -- an effect or state that is not ready until a device cycle (R116, R12)
  | escalate (frame addr : Nat)  -- HYPER must answer for an owner frame (R215)
  | paused                       -- the PAUSE command (R117)
  | swap (core : Nat)            -- a headgate swap (R130)
  | preempt                      -- a pre-emption (R309), until every logical core is resident again
  | power                        -- a power fault (R356)
  | record (id : Nat)            -- a record store that met a fault (R300)
  deriving DecidableEq, Repr

/-- An owner record (R324). -/
structure OwnerRec where
  owner   : Nat
  shape   : Nat
  asid    : Nat
  msien   : Bool
  qpint   : Bool
  untimed : Bool
  root    : Nat
  grants  : Nat
  ngrant  : Nat
  ncommon : Nat
  peers   : Nat
  npeer   : Nat
  ctrq    : Nat
  logbase : Nat
  logn    : Nat
  nq      : Nat
  caq     : Nat
  isq     : Nat
  msiaddr : Nat
  msidata : Word
  poolq   : Nat
  dieq    : Nat
  wlcap   : Nat
  wlbase  : Nat
  spill   : Nat
  qimg    : Nat
  npmask  : Nat
  cabind  : Nat
  deriving DecidableEq, Repr

/-- A completion counter (R271, R272). -/
structure Counter where
  level  : Nat
  status : Nat            -- 0 OK, 1 CANCELLED, 2 STRANDED, 3 FAULTED
  count  : Nat
  parent : Option Nat     -- PARENT, with HASPARENT
  hold   : Bool
  deriving DecidableEq, Repr

/-- A launch record (R274) as read. -/
structure LaunchRec where
  centry  : Word
  ventry  : Word
  argn    : Nat
  groups  : Nat
  tq      : Nat
  regs    : Nat
  slices  : Nat
  strands : Nat
  argbase : Nat
  comp    : Nat
  graph   : Option Nat
  waits   : List Nat
  idem    : Bool
  det     : Bool
  deriving DecidableEq, Repr

/-- A launch that was accepted and has not ended (R275 to R281): `queue` is the logical core in whose pending queue it has a
place, `placed` the groups placed so far. -/
structure Launch where
  id        : Nat
  lrec      : LaunchRec
  sup       : Bool
  queue     : Option Nat
  queued    : Nat          -- index of the act that queued it
  placed    : Nat
  cancelled : Option Nat   -- index of its CANCEL (R286)
  parked    : Option Nat   -- since when every live strand is parked (R291)
  deriving DecidableEq, Repr

/-- The distributor (R278): the logical core whose queue it served last, the current launch, the overflow record on its way
(address and the index of its read), the groups to place again (R281: launch and number), and its next step. -/
structure Dist where
  served : Nat
  cur    : Option Nat
  read   : Option (Nat × Nat)
  again  : List (Nat × Nat)
  stuck  : Bool            -- a read met a fault: the list is held until LOVF is written (R277)
  next   : Nat
  deriving DecidableEq, Repr

/-- A CAOPEN whose status waits for the end of its owner-cycle index (R110, R260): the array, the command it would enter, its stream and
LCLK before it issued. -/
structure OpenReq where
  array : Nat
  cmd   : ClauseCmd
  was   : Stream
  lclk  : Nat
  deriving DecidableEq, Repr

/-- Phases of a pre-emption (R309, R310): the drain with the turns it still takes, the save with those that it takes on each core. -/
inductive PreemptPhase
  | quiet (till : Nat)     -- device-independent: ends at this owner-cycle index (R309)
  | drain (left : Nat)
  | save (left : List (Nat × Nat))
  deriving DecidableEq, Repr

/-- A pre-emption in progress (R308): logical cores with their image addresses, and the queue of its command. -/
structure Preempt where
  entries : List (Nat × Nat)
  forced  : Bool
  phase   : PreemptPhase
  queue   : Nat
  deriving DecidableEq, Repr

/-- An owner (R324, R88). -/
structure Owner where
  id       : Nat
  orec     : OwnerRec
  ogen     : Nat
  freezes  : List Freeze
  refused  : List Nat            -- owner frames HYPER refused (R215)
  tvec     : Word
  jswap    : Word
  qtimeout : Word
  rtmo     : Word
  swrAt    : Tbl Nat             -- index and logical core of the last SWR of an owner-wide register, plus 1 (R87)
  jswapAt  : Option Nat          -- index in which JSWAP was last written: JOINs compare with it from the next one on (R449)
  parkbase : DWord
  lovf     : DWord
  lovfTail : Nat                 -- record at the tail of the overflow list (R277)
  lovfAt   : Option Nat          -- index in which the list was last empty and took a record (R278)
  clusters : List Nat            -- cluster of each clause array (R254, R324 CABIND)
  staged   : List (Nat × Bool)   -- staging places of host launches that LOVF has not passed, with SUPER (R330)
  stageNext : Nat                -- host launches staged since owner creation
  counters : Tbl Counter
  snap     : Tbl Counter         -- the counters at the end of the previous index (R273)
  launches : List Launch         -- in order of acceptance
  dist     : Dist
  lists    : Tbl (List Word)     -- work lists, head first (R287)
  opens    : List OpenReq
  preempt  : Option Preempt
  reset    : Bool                -- an ORESET is in progress (R337)
  resetBy  : Option Nat          -- the queue of its command
  tput     : Nat                 -- trap records stored since owner creation (R300)
  lput     : Nat                 -- log records written (R334)
  llost    : Nat                 -- log records lost
  held     : Bool                -- an interrupt message is held (R336)
  qcur     : Nat                 -- queue a command was last taken from (R331)
  qdone    : Option Nat          -- index at which a command was last taken (R331)
  code     : Tbl Word            -- instruction store by word (R89), default 0
  asks     : Nat                 -- questions of readiness and exchanges with the spill area so far: the model's own (R12, R116)
  deriving DecidableEq, Repr

/-- The open turn (R109, R123): its core, the owner and logical core it is dealt to, the issue slots already offered,
whether the turn was used, and whether it is a tailwater turn. -/
structure Turn where
  core  : Nat
  owner : Nat
  lc    : Nat
  slot  : Nat
  used  : Bool
  tail  : Bool
  deriving DecidableEq, Repr

/-- The stream whose instruction issues: a strand's control stream, or its gang set by lowest slice. -/
structure Cur where
  strand : StrandId
  set    : Option Nat
  deriving DecidableEq, Repr

/-- How far a lane of a memory instruction has come (R217 to R225, R476). -/
inductive LaneSt
  | todo                                        -- its first attempt acts at the instruction's act cycle
  | retry (due k : Nat)                         -- attempt k (R217)
  | over (due : Nat)                            -- attempts every 64 oc until it succeeds (R221, R231)
  | parked (va kind : Nat)                      -- in a record (R219)
  | woken (due seq : Nat) (byWake : Bool)       -- its retry (R223)
  | marked                                      -- a parked WAITA lane that a save removed (R224)
  | spurious (due : Nat)                        -- returns SPURIOUS after a restore (R224)
  | done
  | failed (cause : Nat) (addr : DWord)         -- failed a check of R476
  | absent                                      -- neither done nor failing: another lane stops the instruction (R246)
  deriving DecidableEq, Repr

/-- A lane of a memory instruction: its address, what it brings, how far it came, what it read, and its status (WAITA). -/
structure LaneAcc where
  lane   : Nat
  va     : Nat
  data   : List Word
  st     : LaneSt
  val    : List Word
  status : Nat
  due    : Nat              -- its act cycle (R213, R247)
  hz     : Nat              -- horizon of the writes of its own owner that it observed full (R247)
  far    : List Hz          -- horizons of other owners' writes that it observed full
  deriving DecidableEq, Repr

/-- A memory instruction in flight (R312), or an XLAT, LAUNCH, WLPUT, WLGET, INTR on its way to its act. -/
structure Acc where
  id     : Nat
  strand : StrandId
  set    : Option Nat
  grp    : Nat
  pc     : Word
  port   : Nat              -- 0 control pipe, 1 port 0, 2 port 1
  instr  : Instr
  lanes  : List LaneAcc
  win    : Option WinSlot   -- the translation captured at issue (R209)
  sup    : Bool             -- issued at SUPER or HYPER
  due    : Nat              -- act cycle
  need   : Nat              -- released windows an untimed request still waits for (R123)
  hold   : Bool             -- the stream waits at the instruction (R218)
  slot   : Bool             -- saved as an empty slot (R131): it acts once its slot is full
  killed : Bool             -- its strand was killed (R39)
  born   : Nat              -- owner cycle of issue
  deriving DecidableEq, Repr

/-! ### Images, queues, cores -/

/-- A context image saved in owner-0 memory (R313 to R315): its header's fields and its contents. `body` numbers the bytes
of its sections (Config.imageBody). -/
structure Image where
  body    : Nat
  owner   : Nat
  lcore   : Nat
  shape   : Nat
  ogen    : Nat
  forced  : Bool
  stopped : Bool
  empty   : Bool
  lc      : LCore
  strands : List Strand
  groups  : List Group
  accs    : List Acc
  arrays  : List (Nat × ClauseArray)
  opens   : List OpenReq
  savedAt : Nat            -- device cycle of the save: time in an image does not count (R307)
  deriving DecidableEq, Repr, Inhabited

/-- A hardware queue of an owner (R328 to R332): its slot when it is mapped, the commands not yet taken, the device cycle of
its last enqueue, the command taken and not ended. -/
structure Queue where
  owner : Nat
  num   : Nat
  slot  : Option Nat
  cmds  : List Command
  last  : Nat
  taken : Option Command
  img   : Option Nat       -- unmapped: the image saved at QIMG, by the number of its bytes (R332)
  deriving DecidableEq, Repr

/-- A headgate swap on a core (R127 to R133): `turns` is j once it has begun; `queue` the queue of a SWAP command or the
owner whose reset it carries out. -/
structure Swap where
  mask   : Nat
  inown  : Nat
  out    : Nat
  nosave : Bool
  force  : Bool
  save   : Nat
  image  : Nat
  start  : Nat            -- first device cycle in which it may begin
  turns  : Option Nat
  quiet  : Bool           -- the quiet phase is over
  saved  : Bool
  loaded : Option Image   -- the incoming image once read and accepted
  read   : Bool           -- the restore phase is over
  bound  : Bool           -- the rota entries are rewritten
  result : Nat            -- R133
  queue  : Option Nat
  reset  : Bool           -- a reset of the owner (R132, R337)
  deriving DecidableEq, Repr

/-- A physical core (R100 to R102, R12, R326): ROTAC in force, an accepted table with the device cycle at which it takes
effect, the shares of the owners placed, the logical core last dealt by owner, the swap in progress. -/
structure Core where
  rotac  : DWord
  pend   : Option (DWord × Nat)
  absent : Bool
  shares : Tbl Nat
  dealt  : Tbl Nat          -- one more than the logical core last dealt; 0: none yet
  bank   : Tbl Nat          -- by owner, one more than the logical core whose latched state its weight bank holds; 0: none (R192)
  swap   : Option Swap
  deriving DecidableEq, Repr

/-- A core as it stands after reset, core 0 apart: L = 1 and every position is tailwater. [DESIGN CHOICE: notes/assumptions/2.md] -/
def core0 : Core := ⟨0x0000FFFFFFFFFFFF, none, false, [], [], [], none⟩

/-- The fabric rota (R103 to R105): tables of 16 entries with their length code. -/
structure Fabric where
  table   : List Nat
  flen    : Nat
  pend    : Option (List Nat × Nat × Nat)   -- accepted table, its length code, the device cycle at which it is in force
  stage   : List Nat
  pos     : Nat
  refused : Bool
  deriving DecidableEq, Repr

/-- An INTR record on its way (R404); with `put` its record is stored and its PUT, due one owner cycle later, is not. -/
structure IntrRec where
  id    : Nat
  strand : StrandId
  due   : Nat
  ogen  : Nat
  code  : Nat
  stamp : Nat
  value : Word
  put   : Bool
  deriving DecidableEq, Repr

/-- A log record to be stored, because its log's page was not there (R334): its type and AUX, the owner generation of the
event, its stamp, and P0 to P3. -/
structure LogRec where
  owner : Nat
  type  : Nat
  aux   : Nat
  ogen  : Nat
  stamp : Nat
  par   : List Nat
  deriving DecidableEq, Repr

/-- The package around the cores: what the spec keeps once per device. -/
structure Device where
  on       : Bool             -- the package is up (R352)
  loader   : Bool             -- the recovery loader waits for an image (R352)
  boot     : List Nat         -- boot record, one outcome for each of the steps 1 to 11 (R353)
  noQuarters : List Nat       -- quarters mapped out (R352 step 3)
  noStacks : List Nat         -- memory stacks mapped out (step 4)
  noChannels : List Nat       -- channels mapped out (step 5)
  noBanks  : List Nat         -- banks mapped out (step 6)
  noArrays : List Nat         -- clause arrays mapped out, by cluster (step 8)
  noPorts  : List Nat         -- Ethernet ports mapped out (step 10)
  lanes8   : Bool             -- Kwayr Link runs on 8 lanes (step 9)
  fabric   : Fabric
  portWas  : Option (Nat × Fabric)  -- the fabric rota before the ROTAF writes of an owner-cycle index of owner 0 (R87, R104)
  fmax     : Nat              -- greatest FLEN code (R354)
  lcmap    : DWord            -- entry named by the last accepted LCMAP write (R326)
  intdrop  : Word
  link     : Bool             -- Kwayr Link carries accesses; false while it retrains (R344)
  withheld : Option Nat       -- tailwater turns are withheld since this device cycle (R356)
  powerOff : Bool             -- a power fault freezes every timed owner (R356)
  amps     : Nat              -- core-rail current last reported
  errs     : Tbl Nat          -- error counts by ((stack × 32 + channel) × 16 + bank) × 4 + counter (R342)
  acts     : Tbl Nat          -- rolling activation counts by bank × 64 + owner, 63 for the tailwater (R339)
  rowMask  : Tbl DWord        -- activation masks by row group (R343)
  queues   : List Queue
  pending  : List (Nat × Nat) -- device-wide pending set, first entered first (R332)
  status   : List Nat         -- statuses the queue port returned (R328)
  msis     : List (Nat × Word) -- interrupt messages sent (R336)
  deriving DecidableEq, Repr

/-- A pending deterministic add (R246): its launch, its place in the order, its address with the page that held it and the physical address
there, its addend. -/
structure DetRec where
  launch : Nat
  owner  : Nat
  lcore  : Nat
  group  : Nat
  index  : Nat
  lane   : Nat
  seq    : Nat
  va     : Nat
  page   : Page
  pa     : Nat
  addend : Word
  deriving DecidableEq, Repr

/-- A fabric transfer of a copy (R345 to R348): what it reads or writes at the peer, when it was first sent, and its reply:
0 for DATA or ACK, 1 to 6 for a NACK's cause. `sentAt` is none while a WRITE still gathers its payload. -/
structure Transfer where
  id     : Nat
  copy   : Nat
  owner  : Nat
  lcore  : Nat
  write  : Bool
  paddr  : Nat
  powner : Nat
  port   : Nat
  seq    : Nat
  raddr  : Nat
  len    : Nat
  data   : List Byte
  sentAt : Option Nat
  reply  : Option Nat
  deriving DecidableEq, Repr

/-- What of a logical core stays outside its image (R313): the contents of a tile of level 1 or 2, or the registers of a strand that is
swapped out to the spill area. -/
structure Kept where
  owner  : Nat
  lcore  : Nat
  tile   : Option Nat        -- none: the registers of the strand numbered `slot`
  slot   : Nat
  data   : Tbl Byte
  comp   : Tbl Byte
  cregs  : Tbl Word
  vregs  : Tbl Word
  deriving DecidableEq, Repr

/-- A request of a peer that waits for released windows (R347): its target, the windows it still needs, the packet. -/
structure Remote where
  id    : Nat
  owner : Nat
  need  : Nat
  pkt   : Packet
  deriving DecidableEq, Repr

/-- The whole package. -/
structure State where
  dcyc    : Nat
  dev     : Device
  turn    : Option Turn
  atCore  : Option Nat        -- with no turn open: the core whose cycle is dealt next; none: the first of the device cycle
  cur     : Option Cur
  cores   : Tbl Core
  owners  : List Owner
  lcores  : List LCore
  strands : List Strand
  groups  : List Group
  accs    : List Acc
  dets    : List DetRec
  mem     : List Host.Cell    -- device memory by physical address; an unlisted byte is 0
  empties : List Nat          -- words (physical address / 4) whose full/empty bit is empty, ascending
  poison  : List Nat          -- poisoned words, ascending
  hostMem : List Host.Cell    -- host memory over Kwayr Link, by host frame × 64 KiB + offset
  transfers : List Transfer
  seqs    : Tbl Nat           -- next SEQ by owner (R346)
  outbox  : List (Nat × Packet)  -- packets sent, by port
  clauses : Tbl ClauseArray     -- by owner × 64 + number (R254)
  feHz    : Tbl (Option Hz)   -- horizon of the write that filled a word (R247)
  released : Nat              -- released windows of this device cycle (R120)
  begun   : List Nat          -- owners whose turns may be dealt in this device cycle: not frozen when it began (R231)
  log     : List LogRec     -- log records that met a fault (R334)
  intrs   : List IntrRec    -- INTR records on their way (R404)
  images  : List Image
  kept    : List Kept        -- tiles of levels 1 and 2 and the spill area of logical cores that are not resident (R313)
  remotes : List Remote      -- requests of peers that wait for released windows (R347)
  inputs  : List (Nat × Instr)  -- external events still to come, by device cycle: the model's own
  actClock : Option (StrandId × Nat)  -- strand and clock of the stream that acts, while a DET launch's access acts (R293): the model's own
  nextId  : Nat
  freeN   : Nat
  deriving DecidableEq, Repr

/-! ### Reset (R352, R353) -/

/-- A logical core of a new image: no strand, no tile, OCYC 0 (R111). -/
def lcoreNew (owner num core : Nat) : LCore :=
  { owner := owner, num := num, core := core, placed := false, resident := false, trecs := [], tiles := [], tbuf := [], copies := []
    endA := 0, endB := 0, tags := [], bars := [], arrivals := [], barHz := [], bound := [], mats := [], held := [], matEnd := 0
    latch := none, codebook := none, ocyc := 0, doneAt := none, asked := none, dueIn := none, backed := none, bankOut := none, ostolen := 0, igen := 0, ctl := ⟨none, 0, 0⟩, yielded := none
    port0 := ⟨none, 0, 0⟩, port1 := ⟨none, 0, 0⟩, nextAge := 0 }

/-- An owner as it is created (R88). [DESIGN CHOICE: notes/assumptions/9.md; DESIGN CHOICE: notes/assumptions/10.md] -/
def ownerNew (r : OwnerRec) : Owner :=
  { id := r.owner, orec := r, ogen := 0, freezes := [], refused := [], tvec := 0, jswap := 0, qtimeout := 4096, rtmo := 85000
    swrAt := [], jswapAt := none, parkbase := 0, lovf := 0, lovfTail := 0, lovfAt := none, clusters := [], staged := [], stageNext := 0, counters := [], snap := [], launches := []
    dist := ⟨511, none, none, [], false, 0⟩, lists := [], opens := [], preempt := none, reset := false, resetBy := none
    tput := 0, lput := 0, llost := 0, held := false, qcur := r.nq, qdone := none, code := [], asks := 0 }

/-- Owner 0's record, which start-up step 11 makes. The spec gives owner 0 its queues 0 to 3; the other fields are the model's
(notes/assumptions/8.md). [DESIGN CHOICE: notes/assumptions/8.md] -/
def ownerZeroRec : OwnerRec :=
  { owner := 0, shape := 9, asid := 0, msien := false, qpint := false, untimed := false, root := 0, grants := 0, ngrant := 0
    ncommon := 0, peers := 0, npeer := 0, ctrq := 4096, logbase := 0, logn := 6, nq := 4, caq := 0, isq := 0x40000, msiaddr := 0
    msidata := 0, poolq := 0, dieq := 0, wlcap := 16, wlbase := 0x10000, spill := 0, qimg := 0, npmask := 15, cabind := 0 }

/-- Outcomes of the steps from step `k` on, given those of the start before (R353): a step that failed is taken in its fallback form, if it
has one; one that has none, or whose fallback fails, ends the start-up. A start that finds the firmware image bad runs the recovery loader
itself (step 2), and ends there. [DESIGN CHOICE: notes/assumptions/5.md] -/
def bootFrom : Nat → List Nat → List (Bool × Bool) → List Nat
  | _, _, [] => []
  | k, before, t :: ts =>
    let has : Bool := k != 1 && k != 11
    let fb : Bool := has && (before.headD 0 == 2 || before.headD 0 == 3 || (k == 2 && !t.1))
    let out := if fb then (if t.2 then 3 else 2) else if t.1 then 1 else 2
    if (out = 2 ∧ (fb ∨ ¬ has)) ∨ (k = 2 ∧ out = 3) then [out] else out :: bootFrom (k + 1) before.tail ts

/-- The boot record of a start (R353): one outcome for each of the 11 steps. -/
def bootRecord (before : List Nat) (r : BootReport) : List Nat :=
  (bootFrom 1 before (r.tests.take 11) ++ List.replicate 11 0).take 11

/-- Outcome of a step. -/
def bootStep (o : List Nat) (k : Nat) : Nat := (o[k - 1]?).getD 0

/-- Did a start bring the package up: did it reach step 11, and did that pass (R352, R353)? [DESIGN CHOICE: notes/assumptions/5.md] -/
def bootUp (o : List Nat) : Bool := bootStep o 11 == 1

/-- Parts that a step maps out: those that fail, when it passes in its fallback form (R352). -/
def mappedOut (o : List Nat) (k : Nat) (l : List Nat) : List Nat := if bootStep o k = 3 then l else []

/-- Channels lost to a start, those of the stacks mapped out among them (R354, R340). -/
def lostChannels (o : List Nat) (r : BootReport) : List Nat :=
  let lost := mappedOut o 3 (r.quarters.flatMap fun q => [2 * q, 2 * q + 1]) ++ mappedOut o 4 r.hstacks
  (List.range 256).filter fun c => lost.contains (c / 32) || (mappedOut o 5 r.channels).contains c

/-- F_max as a length code (R354): 4 with every channel there; with fewer the device reports it, and the model leaves it free.
[DESIGN CHOICE: notes/assumptions/5.md] -/
def fmaxOf (lost : List Nat) : Nat := if lost.isEmpty then 4 else min 4 (Config.fmaxWith lost)

/-- The clusters of a quarter: 16 of 8 cores each. -/
def quarterClusters (q : Nat) : List Nat := (List.range 16).map (16 * q + ·)

/-- Is a core mapped out by a start: did it fail its test, or does it lie in a quarter mapped out? -/
def coreLost (o : List Nat) (r : BootReport) (p : Nat) : Bool :=
  (mappedOut o 7 r.cores).contains p || (mappedOut o 3 r.quarters).contains (p / 128)

/-- The core that carries owner 0's logical core after a start: the lowest that is there. [DESIGN CHOICE: notes/assumptions/2.md] -/
def homeCore (o : List Nat) (r : BootReport) : Nat := ((List.range 512).find? fun p => !coreLost o r p).getD 0

/-- The device around the cores after a start with the outcomes `o`.
[DESIGN CHOICE: notes/assumptions/1.md; DESIGN CHOICE: notes/assumptions/2.md] -/
def deviceBooted (o : List Nat) (r : BootReport) : Device :=
  { on := bootUp o, loader := bootStep o 2 == 3, boot := o, noQuarters := mappedOut o 3 r.quarters
    noStacks := mappedOut o 3 (r.quarters.flatMap fun q => [2 * q, 2 * q + 1]) ++ mappedOut o 4 r.hstacks
    noChannels := mappedOut o 5 r.channels, noBanks := mappedOut o 6 r.banks, noArrays := mappedOut o 3 (r.quarters.flatMap quarterClusters) ++ mappedOut o 8 r.arrays
    noPorts := mappedOut o 10 r.ports, lanes8 := bootStep o 9 == 3
    fabric := ⟨0 :: List.replicate 15 63, 0, none, 0 :: List.replicate 15 63, 0, false⟩, portWas := none, fmax := fmaxOf (lostChannels o r)
    lcmap := 0, intdrop := 0
    link := true, withheld := none, powerOff := false, amps := 0, errs := [], acts := [], rowMask := []
    queues := (List.range 4).map fun q => ⟨0, q, some q, [], 0, none, none⟩, pending := [], status := [], msis := [] }

/-- The cores after a start: the lowest that is there is owner 0's, others are tailwater, cores that failed their test or lie in a quarter
mapped out are absent. [DESIGN CHOICE: notes/assumptions/2.md] -/
def coresBooted (o : List Nat) (r : BootReport) : Tbl Core :=
  (List.range 512).filterMap fun p =>
    let absent := coreLost o r p
    if p = homeCore o r then some (p, ⟨0x0000FFFFFFFFFFC0, none, absent, [(0, 8)], [], [], none⟩)
    else if absent then some (p, { core0 with absent := true }) else none

/-- The package after the start-up steps: memory zero and full, owner 0 created with its logical core 0 on core 0, its queues
mapped.
[DESIGN CHOICE: notes/assumptions/1.md; DESIGN CHOICE: notes/assumptions/2.md; DESIGN CHOICE: notes/assumptions/5.md; DESIGN CHOICE: notes/assumptions/7.md] -/
def State.booted (o : List Nat) (r : BootReport) : State :=
  { dcyc := 0, dev := deviceBooted o r, turn := none, atCore := none, cur := none, cores := coresBooted o r
    owners := if bootUp o then [ownerNew ownerZeroRec] else []
    lcores := if bootUp o then [{ lcoreNew 0 0 (homeCore o r) with placed := true, resident := true }] else []
    strands := [], groups := [], accs := [], dets := [], mem := [], empties := [], poison := [], hostMem := [], transfers := []
    seqs := [], outbox := [], clauses := [], feHz := [], released := 0, begun := [], log := [], intrs := [], images := [], kept := [], remotes := [], inputs := []
    actClock := none, nextId := 1, freeN := 0 }

/-- A start in which every step passes. [DESIGN CHOICE: notes/assumptions/5.md] -/
def bootAll : BootReport := ⟨List.replicate 11 (true, true), [], [], [], [], [], [], []⟩

/-- The machine right after reset: the start-up steps have passed. -/
def State.reset : State := State.booted (bootRecord [] bootAll) bootAll

end Sys2Proof.Machine
end

