-- ==== Sys2Proof/Machine/Lookup.lean ====
section
/-!
DEFINITION. What every operation over the state rests on: tables, lookups and updates of the records, the clocks (R109 to R111), and the
core rota as it is read (R100, R101).
-/

namespace Sys2Proof.Machine

/-! ### Tables -/

/-- The value at a number, `d` where the table lists nothing. -/
def tblGet {α : Type} (d : α) : Tbl α → Nat → α
  | [], _ => d
  | (j, v) :: t, k => if j = k then v else if k < j then d else tblGet d t k

/-- Write a number; writing the default removes the entry. -/
def tblSet {α : Type} [DecidableEq α] (d : α) : Tbl α → Nat → α → Tbl α
  | [], k, v => if v = d then [] else [(k, v)]
  | (j, w) :: t, k, v =>
    if j = k then (if v = d then t else (k, v) :: t)
    else if k < j then (if v = d then (j, w) :: t else (k, v) :: (j, w) :: t)
    else (j, w) :: tblSet d t k v

/-- Write several numbers in order. -/
def tblSets {α : Type} [DecidableEq α] (d : α) (t : Tbl α) (l : List (Nat × α)) : Tbl α :=
  l.foldl (fun t x => tblSet d t x.1 x.2) t

/-- Is the table in its form: numbers strictly rising, no default listed? -/
def tblWf {α : Type} [DecidableEq α] (d : α) : Tbl α → Bool
  | [] => true
  | [(_, v)] => v != d
  | (j, v) :: (k, w) :: t => decide (j < k) && v != d && tblWf d ((k, w) :: t)

/-- Replace the records that a test picks. -/
def modWhere {α : Type} (l : List α) (p : α → Bool) (f : α → α) : List α := l.map fun x => if p x then f x else x

/-- Is a list of numbers before or at another in order? -/
def lexLe : List Nat → List Nat → Bool
  | a :: as, b :: bs => decide (a < b) || (a == b && lexLe as bs)
  | [], _ => true
  | _, [] => false

/-- Put a record after those with lesser or equal keys. -/
def keyInsert {α : Type} (x : List Nat × α) : List (List Nat × α) → List (List Nat × α)
  | [] => [x]
  | y :: l => if lexLe y.1 x.1 then y :: keyInsert x l else x :: y :: l

/-- The records of a list in the order of their keys. -/
def byKey {α : Type} (l : List (List Nat × α)) : List α := (l.foldl (fun r x => keyInsert x r) []).map (·.2)

/-! ### Lookups and updates -/

def State.strand? (s : State) (i : StrandId) : Option Strand := s.strands.find? fun t => t.id == i
def State.owner? (s : State) (o : Nat) : Option Owner := s.owners.find? fun t => t.id == o
def State.lcore? (s : State) (o n : Nat) : Option LCore := s.lcores.find? fun t => t.owner == o && t.num == n
def State.group? (s : State) (g : Nat) : Option Group := s.groups.find? fun t => t.id == g

def State.modStrand (s : State) (i : StrandId) (f : Strand → Strand) : State :=
  { s with strands := modWhere s.strands (fun t => t.id == i) f }
def State.modOwner (s : State) (o : Nat) (f : Owner → Owner) : State :=
  { s with owners := modWhere s.owners (fun t => t.id == o) f }
def State.modLcore (s : State) (o n : Nat) (f : LCore → LCore) : State :=
  { s with lcores := modWhere s.lcores (fun t => t.owner == o && t.num == n) f }
def State.modGroup (s : State) (g : Nat) (f : Group → Group) : State :=
  { s with groups := modWhere s.groups (fun t => t.id == g) f }

/-- The lowest slice of a gang set names it. -/
def GSet.key (g : GSet) : Nat := g.slices.headD 0

def Strand.set? (t : Strand) (k : Nat) : Option GSet := t.sets.find? fun g => g.key == k
def Strand.modSet (t : Strand) (k : Nat) (f : GSet → GSet) : Strand :=
  { t with sets := modWhere t.sets (fun g => g.key == k) f }

/-- The stream a `Cur` names. -/
def Strand.stream? (t : Strand) : Option Nat → Option Stream
  | none => some t.ctl
  | some k => (t.set? k).map (·.str)

/-- Change the stream a `Cur` names. -/
def Strand.modStream (t : Strand) (c : Option Nat) (f : Stream → Stream) : Strand :=
  match c with
  | none => { t with ctl := f t.ctl }
  | some k => t.modSet k fun g => { g with str := f g.str }

def State.modStream (s : State) (c : Cur) (f : Stream → Stream) : State :=
  s.modStrand c.strand (·.modStream c.set f)

/-- Bit masks as numbers. -/
def maskOf (l : List Nat) : Nat := l.foldl (fun m i => m ||| 1 <<< i) 0
/-- The numbers below `n` whose bit is set. -/
def bitsOf (n m : Nat) : List Nat := (List.range n).filter fun i => m.testBit i

/-! ### Clocks (R109 to R111, R126) -/

/-- Is the owner untimed (R324 UNTIMED)? -/
def State.untimed (s : State) (o : Nat) : Bool :=
  match s.owner? o with
  | some w => w.orec.untimed
  | none => true

/-- The clock in which a logical core's effects fall due (R115, R126): the owner cycle it is in, or the last it completed while it is
held for other logical cores of its owner (R110); device cycles for an untimed owner. -/
def State.lcNow (s : State) (o n : Nat) : Nat :=
  if s.untimed o then s.dcyc else
  match s.lcore? o n with
  | some l => if s.lcores.any fun q => q.owner == o && q.resident && decide (q.ocyc < l.ocyc) then l.ocyc - 1 else l.ocyc
  | none => 0

/-- The least of a list. -/
def leastOf : List Nat → Option Nat
  | [] => none
  | a :: l => match leastOf l with
    | none => some a
    | some b => some (min a b)

/-- The owner-cycle index an owner is in: the fewest owner cycles completed by its resident logical cores (R110); device
cycles for an untimed owner. None while a timed owner has no resident logical core. -/
def State.ownerNow (s : State) (o : Nat) : Option Nat :=
  if s.untimed o then some s.dcyc
  else leastOf ((s.lcores.filter fun l => l.owner == o && l.resident).map (·.ocyc))

/-- Owner cycles that a logical core had completed when the current device cycle began. -/
def State.doneBefore (s : State) (l : LCore) : Nat := if l.doneAt = some s.dcyc then l.ocyc - 1 else l.ocyc

/-- Owner cycles that every resident logical core of an owner had completed when the current device cycle began; device cycles for an
untimed owner. None while none is resident. -/
def State.indexBefore (s : State) (o : Nat) : Option Nat :=
  if s.untimed o then some s.dcyc
  else leastOf ((s.lcores.filter fun l => l.owner == o && l.resident).map s.doneBefore)

/-- Is a horizon of another owner's write still to come: had its owner cycle not ended when this device cycle began (R247)? The horizon of an
owner, or of a generation of it, that is gone holds nobody. [DEDUCED: notes/assumptions/67.md] -/
def State.hzAhead (s : State) (h : Hz) : Bool :=
  match s.owner? h.owner with
  | some w => w.ogen == h.ogen && (match s.indexBefore h.owner with
    | some n => decide (n ≤ h.cyc)
    | none => true)
  | none => false

/-- Time of a strand's owner that does not count for its waits (R307, R430), nor for a cancel's limit (R286). -/
def Strand.standStill (k : Nat) (t : Strand) : Strand := { t with
  leftNow := t.leftNow + k, quietBy := t.quietBy.map (· + k)
  ctl := { t.ctl with stood := t.ctl.stood + k, wait := t.ctl.wait.map fun w => { w with since := w.since + k } } }

/-- An access likewise. -/
def Acc.standStill (k : Nat) (a : Acc) : Acc := { a with born := a.born + k }

/-- An identity for a new record. [DESIGN CHOICE: notes/assumptions/7.md] -/
def State.fresh (s : State) : State := { s with nextId := s.nextId + 1 }

/-- Logical cores of an owner placed on a core. -/
def State.onCore (s : State) (o p : Nat) : List LCore := s.lcores.filter fun l => l.owner == o && l.placed && l.core == p

/-! ### The core rota (R100, R101) -/

/-- Length of a rota table. -/
def rotaLen (v : DWord) : Nat := 2 ^ ((v >>> 56).toNat % 4)
/-- Owner of a position; 63 for a permanent tailwater position. -/
def rotaPos (v : DWord) (p : Nat) : Nat := (v >>> (6 * p)).toNat % 64
/-- Positions of an owner. -/
def rotaHeld (v : DWord) (o : Nat) : List Nat := (List.range (rotaLen v)).filter fun p => rotaPos v p == o
/-- Has the owner an ARR position (R101, R125)? -/
def rotaArr (v : DWord) (o : Nat) : Bool := (rotaHeld v o).any fun p => v.getLsbD (48 + p)

/-- A core whose rota holds one permanent tailwater position. -/
def State.core (s : State) (p : Nat) : Core := tblGet core0 s.cores p
def State.setCore (s : State) (p : Nat) (c : Core) : State := { s with cores := tblSet core0 s.cores p c }

/-- Does the owner of a logical core hold an ARR position on the core that carries it (R125)? -/
def State.hasArr (s : State) (o lc : Nat) : Bool :=
  match s.lcore? o lc with
  | some l => l.placed && !s.untimed o && rotaArr (s.core l.core).rotac o
  | none => false

end Sys2Proof.Machine
end

