-- ==== Sys2Proof/Machine/Memory.lean ====
section
/-!
DEFINITION. Device memory and translation (spec/06_memory_full_empty.md R203 to R210, R215, R216; spec/11 R325): bytes,
full/empty bits and poison by physical address, page tables, grants, the table region, and a store with all it brings about.
Parking and wakes are R219 to R226.
-/

namespace Sys2Proof.Machine

/-! ### Bytes, bits, poison -/

/-- The canonical form of memory: addresses strictly rising, no byte equal to what an unlisted address reads as.
[DESIGN CHOICE: notes/assumptions/4.md] -/
abbrev memWf (m : List Host.Cell) : Prop := tblWf (0 : Byte) m = true

/-- A byte of device memory. [DESIGN CHOICE: notes/assumptions/4.md] -/
def State.byte (s : State) (pa : Nat) : Byte := tblGet 0 s.mem pa
def State.bytes (s : State) (pa n : Nat) : List Byte := (List.range n).map fun i => s.byte (pa + i)
def State.num (s : State) (pa n : Nat) : Nat :=
  (List.range n).foldr (fun i v => (s.byte (pa + i)).toNat + 256 * v) 0

/-- Write bytes from an address on. [DESIGN CHOICE: notes/assumptions/4.md] -/
def putCells (m : List Host.Cell) (pa : Nat) : List Byte → List Host.Cell
  | [] => m
  | b :: bs => putCells (tblSet 0 m pa b) (pa + 1) bs

def State.putBytes (s : State) (pa : Nat) (bs : List Byte) : State := { s with mem := putCells s.mem pa bs }

/-- Bytes of a number, least significant first (R3). -/
def numBytes (n v : Nat) : List Byte := (List.range n).map fun i => BitVec.ofNat 8 (v >>> (8 * i))

/-- Insert into, or remove from, an ascending list. -/
def natInsert : List Nat → Nat → List Nat
  | [], k => [k]
  | j :: t, k => if j = k then j :: t else if k < j then k :: j :: t else j :: natInsert t k
def natErase (l : List Nat) (k : Nat) : List Nat := l.filter (· != k)

/-- Is the word full (R216)? `w` is a physical address / 4. -/
def State.isFull (s : State) (w : Nat) : Bool := !s.empties.contains w
def State.setFull (s : State) (w : Nat) (full : Bool) : State :=
  { s with empties := if full then natErase s.empties w else natInsert s.empties w }
def State.poisoned (s : State) (w : Nat) : Bool := s.poison.contains w

/-! ### Page tables (R203, R204) and grants (R205, R325) -/

/-- Why a translation fails. -/
inductive XErr
  | malformed
  | notRes
  | escalate (frame : Nat)
  deriving DecidableEq, Repr

/-- Owner 0 sees device memory under its physical addresses. [DESIGN CHOICE: notes/assumptions/8.md] -/
def deviceBytes : Nat := 2 ^ 39

/-- Is there device memory at a physical address: does it lie below its end, and in no stack mapped out (R338, R354)? The stacks follow one
another, 64 GiB each. [DESIGN CHOICE: notes/assumptions/8.md] -/
def State.hasMemory (s : State) (pa : Nat) : Bool := decide (pa < deviceBytes) && !s.dev.noStacks.contains (pa / 2 ^ 36)

/-- The physical frame behind an owner frame number; none when its grant is unusable (R215, R325). The grant entry's reserved bits are
ignored. [DESIGN CHOICE: notes/assumptions/62.md] -/
def State.grant (s : State) (o frame : Nat) : Option Nat :=
  if o = 0 then (if frame < 2 ^ 23 then some frame else none) else
  match s.owner? o with
  | none => none
  | some w =>
    let idx := if frame ≥ 0x8000000
      then (if frame - 0x8000000 < w.orec.ncommon then some (w.orec.ngrant + (frame - 0x8000000)) else none)
      else (if frame < w.orec.ngrant then some frame else none)
    match idx with
    | none => none
    | some i =>
      let e := s.num (w.orec.grants + 8 * i) 8
      if e.testBit 63 ∧ ¬ e.testBit 62 then some (e % 2 ^ 23) else none

/-- Fields of a page-table entry (R204). -/
structure Pte where
  res   : Bool
  kind  : Nat
  w     : Bool
  sup   : Bool
  leaf  : Bool
  grp   : Bool
  frame : Nat
  rsv   : Bool
  deriving DecidableEq, Repr

def pteOf (e : Nat) : Pte :=
  ⟨e.testBit 0, e / 4 % 4, e.testBit 4, e.testBit 5, e.testBit 6, e.testBit 7, e / 2 ^ 32 % 2 ^ 28,
   decide (e / 2 ^ 60 ≠ 0 ∨ e / 2 ^ 8 % 2 ^ 24 ≠ 0 ∨ e / 2 % 2 ≠ 0)⟩

/-- Is a resident entry malformed at its level (R204)? [DEDUCED: notes/assumptions/44.md] -/
def Pte.bad (p : Pte) (level : Nat) : Bool :=
  p.rsv || (level == 4 && p.kind == 0) || (level ≤ 2 && p.kind != 0) || (p.leaf && (level != 3 || p.kind == 0)) ||
  (p.grp && level != 4) || (level == 3 && p.kind != 0 && !p.leaf) || (p.leaf && p.frame % 1024 != 0) ||
  (p.grp && p.frame % 32 != 0)

/-- Index of a virtual address at a level. -/
def vaIndex (va level : Nat) : Nat := va / 2 ^ (56 - 10 * level) % 1024

/-- The entry of a level that governs a virtual address (R204). Of a 2 MiB group the entry at a multiple of 32 alone is read; an entry with
GRP that stands elsewhere, without a group at that multiple, forms no leaf. [DEDUCED: notes/assumptions/44.md] -/
def levelEntry (at_ : Nat → Pte) (level idx : Nat) : Except XErr Pte :=
  let g := at_ (idx / 32 * 32)
  let p := if level = 4 ∧ g.res ∧ g.grp then g else at_ idx
  if !p.res then .error .notRes
  else if p.bad level then .error .malformed
  else if p.grp ∧ ¬ (g.res ∧ g.grp) then .error (if g.res then .malformed else .notRes)
  else .ok p

/-- Walk from a table at a physical frame: the levels still to go, each with its number. Answers the leaf. [DEDUCED: notes/assumptions/44.md] -/
def walkFrom (s : State) (o va : Nat) : List Nat → Nat → Except XErr Page
  | [], _ => .error .malformed
  | level :: ls, table =>
    match levelEntry (fun i => pteOf (s.num (table * 65536 + 8 * i) 8)) level (vaIndex va level) with
    | .error e => .error e
    | .ok p =>
      if p.kind = 0 then
        match s.grant o p.frame with
        | some t => walkFrom s o va ls t
        | none => .error (.escalate p.frame)
      else
        let size := if p.leaf then 2 ^ 26 else if p.grp then 2 ^ 21 else 2 ^ 16
        .ok ⟨p.kind, p.frame, va / size * size, size, p.w, p.sup, false⟩

/-- The lowest address of the table region (R206). -/
def tableRegion : Nat := 0x00FF000000000000

/-- The page of a virtual address (R203 to R206). Owner 0's addresses are physical ones.
[DESIGN CHOICE: notes/assumptions/8.md; DEDUCED: notes/assumptions/36.md] -/
def State.pageOf (s : State) (o va : Nat) : Except XErr Page :=
  if o = 0 then
    if s.hasMemory va then .ok ⟨1, va / 65536, va / 65536 * 65536, 65536, true, false, false⟩ else .error .malformed
  else if va ≥ tableRegion then
    if va < 0x00FF080200802000 then .ok ⟨1, 0, va / 65536 * 65536, 65536, true, true, true⟩ else .error .malformed
  else match s.owner? o with
    | some w => walkFrom s o va [1, 2, 3, 4] w.orec.root
    | none => .error .malformed

/-- The entry that an address of the table region names: its level and the address it governs. [DEDUCED: notes/assumptions/44.md] -/
def regionEntry (va : Nat) : Nat × Nat :=
  if va < 0x00FF080000000000 then (4, (va - 0x00FF000000000000) / 8 * 2 ^ 16)
  else if va < 0x00FF080200000000 then (3, (va - 0x00FF080000000000) / 8 * 2 ^ 26)
  else if va < 0x00FF080200800000 then (2, (va - 0x00FF080200000000) / 8 * 2 ^ 36)
  else (1, (va - 0x00FF080200800000) / 8 * 2 ^ 46)

/-- Address of the entry of a level that governs a virtual address (R206). -/
def entryVa (level v : Nat) : Nat :=
  match level with
  | 4 => 0x00FF000000000000 + 8 * (v / 2 ^ 16)
  | 3 => 0x00FF080000000000 + 8 * (v / 2 ^ 26)
  | 2 => 0x00FF080200000000 + 8 * (v / 2 ^ 36)
  | _ => 0x00FF080200800000 + 8 * (v / 2 ^ 46)

/-- Why an entry of the table region cannot be reached: the higher level whose entry is not resident, or names a page and no table; a
malformed entry; a table whose owner frame is unusable. -/
inductive TblErr
  | absent (level : Nat)
  | malformed
  | escalate (frame : Nat)
  deriving DecidableEq, Repr

/-- Physical address of the entry of `level` for `v` (R206). Level-1 entries 0x3FC to 0x3FF are ignored. [DEDUCED: notes/assumptions/44.md] -/
def entryPa (s : State) (o v level : Nat) : List Nat → Nat → Except TblErr Nat
  | [], _ => .error (.absent 1)
  | l :: ls, table =>
    let pa := table * 65536 + 8 * vaIndex v l
    if l = level then .ok pa
    else
      let p := pteOf (s.num pa 8)
      if ¬ p.res ∨ (l = 1 ∧ 0x3FC ≤ vaIndex v 1) then .error (.absent l)
      else if p.bad l then .error .malformed
      else if p.kind ≠ 0 then .error (.absent l)
      else match s.grant o p.frame with
        | some t => entryPa s o v level ls t
        | none => .error (.escalate p.frame)

def State.entryPa (s : State) (o v level : Nat) : Except TblErr Nat :=
  match s.owner? o with
  | some w => Machine.entryPa s o v level [1, 2, 3, 4] w.orec.root
  | none => .error (.absent 1)

/-- Where the bytes of an access lie. -/
inductive Place
  | dev (pa : Nat) (commons : Bool)
  | host (a : Nat)
  | absentEntry (higher : Nat)   -- an entry of the table region whose table is absent, with the higher entry's address
  | malformed                    -- an entry of the table region behind a malformed one
  deriving DecidableEq, Repr

/-- The place of an address in its page, once checked; none when the owner frame is unusable (R215). -/
def State.placeIn (s : State) (o : Nat) (p : Page) (va : Nat) : Except Nat Place :=
  if p.table then
    let (level, v) := regionEntry va
    match s.entryPa o v level with
    | .ok pa => .ok (.dev pa false)
    | .error (.absent l) => .ok (.absentEntry (entryVa l v))
    | .error .malformed => .ok .malformed
    | .error (.escalate f) => .error f
  else
    let frame := p.frame + (va - p.base) / 65536
    if p.kind = 2 then .ok (.host (frame * 65536 + va % 65536))
    else match s.grant o frame with
      | some f => .ok (.dev (f * 65536 + va % 65536) (decide (frame ≥ 0x8000000)))
      | none => .error frame

/-- Owner-0 or owner memory as hardware engines read it: the physical address of a resident device page, if any. Owner 0's memory has no
page table, and its strands all run at HYPER, so it serves where SUP is asked for (notes/assumptions/8.md).
[DESIGN CHOICE: notes/assumptions/8.md] -/
def State.devPa (s : State) (o va : Nat) (write sup : Bool) : Option Nat :=
  match s.pageOf o va with
  | .ok p =>
    if p.kind = 1 ∧ ¬ p.table ∧ (¬ write ∨ p.w) ∧ (¬ sup ∨ p.sup ∨ o = 0) then
      match s.placeIn o p va with
      | .ok (.dev pa _) => some pa
      | _ => none
    else none
  | .error _ => none

/-! ### Park buckets (R219 to R223) -/

/-- A park record (R220). `lanes` is its LANES word, `slices` its SLICES field. -/
structure ParkRec where
  kind   : Nat
  va     : Nat
  lcore  : Nat
  slot   : Nat
  slices : Nat
  lanes  : Nat
  deriving DecidableEq, Repr

/-- The bucket of a word address (R219). -/
def bucketOf (v : Nat) : Nat :=
  (v / 2 ^ 2 % 2 ^ 12) ^^^ (v / 2 ^ 14 % 2 ^ 12) ^^^ (v / 2 ^ 26 % 2 ^ 12) ^^^ (v / 2 ^ 38 % 2 ^ 12) ^^^ (v / 2 ^ 50 % 2 ^ 6)

/-- A word's bucket: there is no park area; it lies at a physical address; or what stands in its way: a trap with the bucket's address
(R219), or an owner frame that is unusable (R215). -/
inductive Bucket
  | none
  | at_ (pa : Nat)
  | trap (cause va : Nat)
  | esc (frame va : Nat)
  deriving DecidableEq, Repr

/-- The bucket of a word (R88, R219, R215). [DEDUCED: notes/assumptions/42.md] -/
def State.bucketAt (s : State) (o va : Nat) : Bucket :=
  match s.owner? o with
  | none => .none
  | some w =>
    let b := w.parkbase.toNat + 64 * bucketOf va
    if w.parkbase = 0 then .none
    else match s.pageOf o b with
      | .error .notRes => .trap 0x0A b
      | .error .malformed => .trap 0x08 b
      | .error (.escalate f) => .esc f b
      | .ok p =>
        if p.kind = 1 ∧ ¬ p.table ∧ p.w ∧ (p.sup ∨ o = 0) then
          match s.placeIn o p b with
          | .ok (.dev pa _) => .at_ pa
          | .ok _ => .trap 0x09 b
          | .error f => .esc f b
        else .trap 0x09 b

/-- Did HYPER refuse an owner frame in the owner cycle that the owner is in (R215)? -/
def State.refuses (s : State) (o frame : Nat) : Bool := ((s.owner? o).map (·.refused) |>.getD []).contains frame

/-- The records of a bucket as it lies (R220). -/
def State.bucket (s : State) (pa : Nat) : List ParkRec :=
  (List.range ((s.byte pa).toNat % 4)).map fun i =>
    let q := pa + 16 + 16 * i
    let a := s.num q 8; let b := s.num (q + 8) 4
    ⟨a / 2 ^ 56 % 8, a % 2 ^ 56, b / 2 ^ 23 % 2 ^ 9, b / 2 ^ 18 % 2 ^ 5, b / 2 ^ 9 % 2 ^ 9, s.num (q + 12) 4⟩

def ParkRec.bytes (r : ParkRec) : List Byte :=
  numBytes 8 (r.va % 2 ^ 56 + r.kind * 2 ^ 56) ++ numBytes 4 (r.lcore * 2 ^ 23 + r.slot * 2 ^ 18 + r.slices * 2 ^ 9)
    ++ numBytes 4 r.lanes

/-- Hardware writes a bucket: COUNT and its records, in order. The full/empty bits of its words stay as they are.
[DEDUCED: notes/assumptions/42.md] -/
def State.putBucket (s : State) (pa : Nat) (rs : List ParkRec) : State :=
  s.putBytes pa (numBytes 16 rs.length ++ rs.flatMap ParkRec.bytes)

/-- SLICES of a stream's records: bit 8 for the control slice. -/
def Strand.slicesOf (t : Strand) (set : Option Nat) : Nat :=
  match set with
  | none => 2 ^ 8
  | some k => maskOf ((t.set? k).map (·.slices) |>.getD [])

/-- Does a record name a lane of an access in flight, parked on its address with its kind? -/
def ParkRec.names (r : ParkRec) (ts : List Strand) (a : Acc) (l : LaneAcc) : Bool :=
  a.strand.lcore == r.lcore && a.strand.slot == r.slot && l.st == .parked r.va r.kind && r.lanes.testBit l.lane &&
  (match ts.find? fun t => t.id == a.strand with
   | some t => t.slicesOf a.set == r.slices
   | none => false)

/-- The clock of a woken lane's stream in a DET launch goes on from that of a waker of another strand (R293).
[DEDUCED: notes/assumptions/34.md] -/
def State.wakeClock (s : State) (i : StrandId) (set : Option Nat) : State :=
  match s.actClock with
  | none => s
  | some (w, k) => s.modStrand i fun t =>
    if w != i && ((s.group? t.grp).map (·.flags.det)).getD false then
      match set with
      | none => { t with lclk := max t.lclk (k + 1) }
      | some q => t.modSet q fun g => { g with clock := max g.clock (k + 1) }
    else t

/-- Wake a lane of some accesses: its retry acts at `due`. -/
def wakeIn (ts : List Strand) (o : Nat) (r : ParkRec) (lane due seq : Nat) (byWake : Bool) (l : List Acc) : List Acc :=
  l.map fun a => { a with
    lanes := a.lanes.map fun q =>
      if a.strand.owner == o && q.lane == lane && r.names ts a q then { q with st := .woken due seq byWake } else q }

/-- Wake one lane that a record names: its retry acts 64 owner cycles later (R223). A record that names no parked lane wakes
none. A lane whose logical core is not resident retries at the 64th owner cycle after its restore (R224).
[DEDUCED: notes/assumptions/43.md; DESIGN CHOICE: notes/assumptions/70.md] -/
def State.wakeLane (s : State) (o : Nat) (r : ParkRec) (lane : Nat) (byWake : Bool) : State :=
  let due (ocyc : Nat) : Nat := (if s.untimed o then s.dcyc else ocyc) + 64
  let s' : State := { s with
    accs := wakeIn s.strands o r lane (s.lcNow o r.lcore + 64) s.nextId byWake s.accs
    images := s.images.map fun m =>
      if m.owner = o ∧ m.lcore = r.lcore then { m with accs := wakeIn m.strands o r lane (due m.lc.ocyc) s.nextId byWake m.accs }
      else m }
  match s.accs.find? fun a => a.lanes.any fun l => a.strand.owner == o && l.lane == lane && r.names s.strands a l with
  | some a => (s'.wakeClock a.strand a.set).fresh
  | none => s'.fresh

def State.wakeLanes (s : State) (o : Nat) (r : ParkRec) (lanes : List Nat) (byWake : Bool) : State :=
  lanes.foldl (fun s l => s.wakeLane o r l byWake) s

/-- Take a record's lanes, or its lowest lane only, out of a bucket's list. -/
def dropLane (rs : List ParkRec) (i : Nat) (all : Bool) : List ParkRec :=
  match rs, i with
  | [], _ => []
  | r :: t, 0 =>
    let low := (bitsOf 32 r.lanes).headD 0
    let left := if all then 0 else r.lanes - 2 ^ low
    if left = 0 then t else { r with lanes := left } :: t
  | r :: t, i + 1 => r :: dropLane t i all

/-- The waiting loads of an address, all of them (R222). -/
def wakeAllOf (s : State) (o va kind : Nat) : List ParkRec → State × List ParkRec
  | [] => (s, [])
  | r :: t =>
    if r.va = va ∧ r.kind = kind then wakeAllOf (s.wakeLanes o r (bitsOf 32 r.lanes) false) o va kind t
    else
      let (s', t') := wakeAllOf s o va kind t
      (s', r :: t')

/-- The lowest lane of the first record of a kind for an address (R222). -/
def wakeFirstOf (s : State) (o va kind : Nat) (rs : List ParkRec) : State × List ParkRec :=
  match rs.findIdx? fun r => r.va == va && r.kind == kind with
  | none => (s, rs)
  | some i => match rs[i]? with
    | none => (s, rs)
    | some r => (s.wakeLanes o r ((bitsOf 32 r.lanes).take 1) false, dropLane rs i false)

/-- What a change of a word wakes out of a list of records (R222, R225): `was` and `now` are its full/empty state before and after; `wrote`
says that a byte of it was written. -/
def wakeOf (s : State) (o va : Nat) (was now wrote : Bool) (rs : List ParkRec) : State × List ParkRec :=
  let (s1, r1) := if !was && now then
      let (a, b) := wakeAllOf s o va 0 rs
      wakeFirstOf a o va 1 b
    else if was && !now then wakeFirstOf s o va 2 rs
    else (s, rs)
  if wrote then wakeAllOf s1 o va 3 r1 else (s1, r1)

/-- Accesses of an owner, those in its images among them, with the strands that they belong to. -/
def State.accsOf (s : State) (o : Nat) : List (List Strand × Acc) :=
  ((s.accs.filter fun a => a.strand.owner == o).map fun a => (s.strands, a)) ++
  (s.images.filter fun m => m.owner == o).flatMap fun m => m.accs.map fun a => (m.strands, a)

/-- Is a lane parked that a record names, resident or in an image (R220, R224)? -/
def State.isParkedAt (s : State) (o : Nat) (r : ParkRec) (lane : Nat) : Bool :=
  (s.accsOf o).any fun x => x.2.lanes.any fun l => l.lane == lane && r.names x.1 x.2 l

/-- The records that the parked lanes of a word stand for: those of an owner whose park area cannot be read. [DEDUCED: notes/assumptions/42.md] -/
def State.parkedOn (s : State) (o va : Nat) : List ParkRec :=
  (s.accsOf o).flatMap fun x =>
    let lanes (kind : Nat) : List Nat := (x.2.lanes.filter fun l => l.st == .parked va kind).map (·.lane)
    [0, 1, 2, 3].filterMap fun kind =>
      if (lanes kind).isEmpty then none
      else some ⟨kind, va, x.2.strand.lcore, x.2.strand.slot,
        ((x.1.find? fun t => t.id == x.2.strand).map (·.slicesOf x.2.set)).getD 0, maskOf (lanes kind)⟩

/-- What a change of a word wakes. Hardware whose bucket cannot be reached wakes the lanes themselves. -/
def State.wakeWord (s : State) (o va : Nat) (was now wrote : Bool) : State :=
  match s.bucketAt o va with
  | .none => s
  | .at_ pa =>
    let rs := s.bucket pa
    let r := wakeOf s o va was now wrote rs
    if r.2 = rs then r.1 else r.1.putBucket pa r.2
  | _ => (wakeOf s o va was now wrote (s.parkedOn o va)).1

/-- Is a lane parked that a change of a word would wake (R222, R225)? -/
def State.wouldWake (s : State) (o va : Nat) (was now wrote : Bool) : Bool :=
  (s.accsOf o).any fun x => x.2.lanes.any fun l => match l.st with
    | .parked v k => v == va && ((!was && now && decide (k ≤ 1)) || (was && !now && k == 2) || (wrote && k == 3))
    | _ => false

/-- What stands in the way of the wakes that a change of a word makes: its bucket (R215, R219). [DEDUCED: notes/assumptions/42.md] -/
def State.wakeBlock (s : State) (o va : Nat) (was now wrote : Bool) : Option Bucket :=
  if s.wouldWake o va was now wrote then
    match s.bucketAt o va with
    | .none => none
    | .at_ _ => none
    | b => some b
  else none

/-- Take an access's lanes out of the park records (R224 for a killed strand; a trapped instruction is replayed anew).
[DEDUCED: notes/assumptions/42.md; DESIGN CHOICE: notes/assumptions/70.md] -/
def unpark (s : State) (a : Acc) : State :=
  a.lanes.foldl (fun s l =>
    match l.st with
    | .parked va kind =>
      match s.bucketAt a.strand.owner va, s.strand? a.strand with
      | .at_ b, some t =>
        let rs := s.bucket b
        let rs' := (rs.map fun r =>
          if r.va == va && r.kind == kind && r.lcore == a.strand.lcore && r.slot == a.strand.slot &&
              r.slices == t.slicesOf a.set && r.lanes.testBit l.lane
          then { r with lanes := r.lanes - 2 ^ l.lane } else r).filter (·.lanes != 0)
        if rs' = rs then s else s.putBucket b rs'
      | _, _ => s
    | _ => s) s

/-! ### A store with all it brings about -/

/-- Does a stored range hold the level-4 or level-3 entry that maps a window's base page (R204, R210)? No entry maps a page of owner 0. -/
def State.storesEntry (s : State) (o pa n : Nat) (w : WinSlot) : Bool :=
  let hit (base level : Nat) : Bool :=
    match s.entryPa o base level with
    | .ok e => decide (pa < e + 8 ∧ e < pa + n)
    | .error _ => false
  o != 0 && (hit (if w.page.size = 2 ^ 21 then w.base / 2 ^ 21 * 2 ^ 21 else w.base) 4 || hit w.base 3)

/-- Windows whose base page's entry lies in a stored range become stale, whoever stored (R210); a slot that an XDROP emptied has none.
[DEDUCED: notes/assumptions/44.md] -/
def State.staleWindows (s : State) (pa n : Nat) : State :=
  { s with groups := s.groups.map fun g => { g with
    windows := g.windows.map fun (k, w) =>
      if w.used && w.dropped.isNone && s.storesEntry g.owner pa n w
      then (k, { w with used := false, gen := (w.gen + 1) % 4096 }) else (k, w) } }

/-- Set the full/empty bit of a word and wake what the change serves. -/
def State.setBit (s : State) (o va pa : Nat) (full wrote commons : Bool) : State :=
  let was := s.isFull (pa / 4)
  let s1 := if was = full then s else s.setFull (pa / 4) full
  if commons then s1 else s1.wakeWord o (va / 4 * 4) was full wrote

/-- Words that a run of bytes covers, as offsets of their first bytes from the run's word. -/
def wordsIn (va n : Nat) : List Nat := (List.range ((va % 4 + n + 3) / 4)).map (4 * ·)

/-- Do bytes touch a poisoned word? -/
def anyPoison (s : State) (pa size : Nat) : Bool := (wordsIn pa size).any fun i => s.poisoned (pa / 4 + i / 4)

/-- Store bytes into device memory: the words covered keep their bit, or take `full`; records are woken (R222, R225) and
windows over a changed entry go stale (R210). `hz` is the horizon of the write, kept for words it leaves full (R247). -/
def State.store (s : State) (o va pa : Nat) (bs : List Byte) (full : Option Bool) (commons : Bool) (hz : Option Hz) : State :=
  let s1 := s.putBytes pa bs
  let s2 := (wordsIn va bs.length).foldl (fun s i =>
    let w := pa / 4 * 4 + i
    let f := full.getD (s.isFull (w / 4))
    let s := if f then { s with feHz := tblSet none s.feHz (w / 4) hz } else s
    s.setBit o (va / 4 * 4 + i) w f true commons) s1
  s2.staleWindows pa bs.length

/-- What stands in the way of the wakes that a store makes (R215, R219, R222, R225). -/
def State.storeBlock (s : State) (o va pa n : Nat) (full : Option Bool) (commons : Bool) : Option Bucket :=
  if commons then none
  else (wordsIn va n).findSome? fun i =>
    let was := s.isFull (pa / 4 + i / 4)
    s.wakeBlock o (va / 4 * 4 + i) was (full.getD was) true

/-- The parts of `n` bytes from `va` on that lie in one frame each: addresses and lengths. -/
def frameRuns (va n : Nat) : List (Nat × Nat) :=
  (List.range ((va % 65536 + n + 65535) / 65536)).map fun i =>
    let a := max va ((va / 65536 + i) * 65536)
    (a, min (va + n) ((va / 65536 + i + 1) * 65536) - a)

/-- Where hardware finds such parts in an owner's memory: address, physical address and length of each. None when one of them is not in a
resident device page, for a write a writable one. -/
def State.hwPlaces (s : State) (o : Nat) (write : Bool) : List (Nat × Nat) → Option (List (Nat × Nat × Nat))
  | [] => some []
  | (va, n) :: l =>
    match s.devPa o va write false, s.hwPlaces o write l with
    | some pa, some r => some ((va, pa, n) :: r)
    | _, _ => none

/-- A store by hardware into an owner's memory (records of the log, launch links, the spill area): plain words, set full. None when a page
does not serve. -/
def State.hwStore (s : State) (o va : Nat) (bs : List Byte) : Option State :=
  (s.hwPlaces o true (frameRuns va bs.length)).map fun r =>
    r.foldl (fun s x => s.store o x.1 x.2.1 ((bs.drop (x.1 - va)).take x.2.2) (some true) false none) s

/-- A read by hardware. -/
def State.hwRead (s : State) (o va n : Nat) : Option (List Byte) :=
  (s.hwPlaces o false (frameRuns va n)).map fun r => r.flatMap fun x => s.bytes x.2.1 x.2.2

/-- Does a range of an owner's memory hold a poisoned word? -/
def State.hwPoison (s : State) (o va n : Nat) : Bool :=
  ((s.hwPlaces o false (frameRuns va n)).getD []).any fun x => anyPoison s x.2.1 x.2.2

end Sys2Proof.Machine
end

