-- ==== Sys2Proof/Machine/Ops.lean ====
section
/-!
DEFINITION. The named operations over the state: barriers as bytes arrive on them (R190), horizons (R247), registers (R49), words of results
(R115), killing a strand (R39) and taking a trap (R298, R299), with the return from it (R302).
-/

namespace Sys2Proof.Machine

/-! ### Barriers (R190, R191, R364) -/

/-- Saturating addition of n32 values. -/
def satAdd (a : Word) (n : Nat) : Word := BitVec.ofNat 32 (min 0xFFFFFFFF (a.toNat + n))

def bar0 : Barrier := ⟨0, 0, 0, 0⟩

/-- Bytes that arrive on a barrier with the GEN recorded (R190). -/
def LCore.arrive (l : LCore) (b gen n : Nat) : LCore :=
  let x := tblGet bar0 l.bars b
  let x := if x.gen.toNat = gen ∧ x.expected ≠ 0 then { x with arrived := satAdd x.arrived n } else { x with stale := satAdd x.stale n }
  { l with bars := tblSet bar0 l.bars b x }

/-- Segments landed in this owner cycle count once its control instruction has acted (R364). [DEDUCED: notes/assumptions/37.md] -/
def LCore.settleBars (l : LCore) : LCore :=
  { l.arrivals.foldl (fun l x => l.arrive x.1 x.2.1 x.2.2) l with arrivals := [] }

/-- GSYNC: once every live strand of the group waits in it, all proceed 4 owner cycles later (R191, R402). -/
def State.gsyncCheck (s : State) (g : Nat) : State :=
  let live := s.strands.filter fun t => t.grp == g && !t.killed
  let waits (t : Strand) : Bool := match t.ctl.wait.map Wait.instr with
    | some (.gsync _) => true
    | _ => false
  match s.group? g with
  | some x =>
    if x.gsDue.isNone && !live.isEmpty && live.all waits then
      s.modGroup g fun x => { x with gsDue := some (s.lcNow x.owner x.lcore + 4) }
    else s
  | none => s

/-- Has a lane acted, or failed a check? -/
def LaneAcc.acted (l : LaneAcc) : Bool :=
  match l.st with
  | .done => true
  | .failed .. => true
  | .absent => true
  | _ => false

/-- Has every lane of an access acted, or failed a check? -/
def Acc.acted (a : Acc) : Bool := a.lanes.all (·.acted)

/-! ### Horizons of streams (R247) -/

/-- No memory instruction of some agents before an owner cycle. -/
def Stream.holdAt (x : Stream) (agents : List Nat) (n : Nat) : Stream :=
  { x with hz := agents.foldl (fun t a => tblSet 0 t a (max (tblGet 0 t a) n)) x.hz }

/-- Some agents observe a horizon: they wait past the acts known of it, and past those still to come. -/
def Stream.takeHz (x : Stream) (agents : List Nat) (h : Horizon) : Stream :=
  if h = .none then x
  else { x.holdAt agents (h.upTo + 1) with behind := (x.behind ++ agents.flatMap fun a => h.ahead.map fun e => (a, e.1, e.2)).eraseDups }

/-- Two horizons at once. -/
def Horizon.join (h k : Horizon) : Horizon := ⟨max h.upTo k.upTo, (h.ahead ++ k.ahead).eraseDups⟩

/-- A lane of an access has acted. -/
def Horizon.acted (id lane now : Nat) (h : Horizon) : Horizon :=
  if h.ahead.contains (id, lane) then ⟨max h.upTo now, h.ahead.filter (· != (id, lane))⟩ else h

/-- What a stream waits for of it is over in this owner cycle. -/
def Stream.acted (id lane now : Nat) (x : Stream) : Stream :=
  let mine := x.behind.filter fun e => e.2 == (id, lane)
  if mine.isEmpty then x
  else { x.holdAt (mine.map (·.1)) (now + 1) with behind := x.behind.filter fun e => e.2 != (id, lane) }

/-- Every horizon that has a lane of an access ahead takes its act (R247). -/
def State.hzActed (s : State) (id lane now : Nat) : State := { s with
  strands := s.strands.map fun t => { t with
    ctl := t.ctl.acted id lane now
    sets := t.sets.map fun g => { g with str := g.str.acted id lane now }
    flume := t.flume.map fun k => { k with hz := k.hz.acted id lane now }
    rq := t.rq.map fun e => { e with hz := e.hz.acted id lane now } }
  lcores := s.lcores.map fun l => { l with barHz := l.barHz.map fun e => (e.1, e.2.acted id lane now) } }

/-- What is left of a stream's horizons to some slices that part from their set. -/
def Stream.onlyOf (x : Stream) (slices : List Nat) : Stream :=
  { x with
    hz := x.hz.filter fun e => slices.contains e.1
    far := x.far.filter fun e => slices.contains e.1
    behind := x.behind.filter fun e => slices.contains e.1 }

/-- The horizons of another stream, whose slices join this one's. -/
def Stream.joinHz (x y : Stream) : Stream :=
  y.hz.foldl (fun x e => x.holdAt [e.1] e.2) { x with far := (x.far ++ y.far).eraseDups, behind := (x.behind ++ y.behind).eraseDups }

/-- Does a horizon hold a stream's memory instructions back? -/
def State.heldByHz (s : State) (x : Stream) (now : Nat) : Bool :=
  (x.hz.any fun e => decide (now < e.2)) || (x.far.any fun e => s.hzAhead e.2) ||
  x.behind.any fun e => s.accs.any fun a => a.id == e.2.1 && a.lanes.any fun l => l.lane == e.2.2 && !l.acted

/-! ### Strands that leave a slot -/

/-- A pipe or port whose current stream is of a strand that has left its slot has none (R45, R46). [DEDUCED: notes/assumptions/22.md] -/
def Pipe.forget (p : Pipe) (i : StrandId) : Pipe := if (p.cur.map (·.1)) = some i then { p with cur := none } else p

/-- A strand leaves its slot: no other that takes it counts as the current one of the pipe or of a port. [DEDUCED: notes/assumptions/22.md] -/
def LCore.forget (l : LCore) (i : StrandId) : LCore :=
  { l with ctl := l.ctl.forget i, port0 := l.port0.forget i, port1 := l.port1.forget i }

/-! ### Killing a strand (R39) -/

/-- A stream that stops for good. -/
def Stream.stopped (x : Stream) : Stream :=
  { x with res := [], wait := none, trap := none, replay := none, half := false, place := false }

/-- Is the copy in the second sequence of a logical core (kind 3), rather than the first (R180)? -/
def Copy.second (c : Copy) : Bool := c.kind == 3
/-- Bytes that a copy moves, companion bytes included. -/
def Copy.total (c : Copy) : Nat := c.rows * (c.rowBytes + c.comp)

/-- B of a copy (R180), with the bytes already moved when it was timed: known once every earlier copy of its sequence has
ended. -/
def LCore.copyBase (l : LCore) (c : Copy) : Option (Nat × Nat) :=
  match c.base with
  | some b => some b
  | none =>
    match l.copies.find? fun d => d.second == c.second with
    | some d =>
      if d.id = c.id then some (max (c.issued + (if c.second then 16 else 400)) (if c.second then l.endB else l.endA), 0) else none
    | none => none

/-- Has its data phase begun? -/
def LCore.copyBegun (l : LCore) (c : Copy) (now : Nat) : Bool :=
  match l.copyBase c with
  | some (b, _) => decide (b ≤ now)
  | none => false

/-- A copy that stops with a status: what a WRITE that was not answered carries has not moved (R185, R349). -/
def stopCopy (code : Nat) (c : Copy) : Copy := { c with code := code, ended := true, moved := c.moved - c.inWrite, inWrite := 0, held := [] }

/-- A copy whose strand was killed: it stops after its current 4 KiB chunk, or at once when its data phase has not begun
or it waits on a page (R185). -/
def Copy.killed (l : LCore) (now : Nat) (c : Copy) : Copy :=
  if c.code ≠ 0 ∨ c.ended then c
  else if c.waits ∨ ¬ l.copyBegun c now then stopCopy 4 c
  else { c with stopAt := some ((c.moved / 4096 + 1) * 4096) }

/-- One dispose of a strand that is killed: in the same owner cycle the kill stands, and the ERET writes NOMATCH (R323). -/
def State.undoOne (now : Nat) (s : State) (d : StrandId × Nat × Nat) : State :=
  if d.2.2 = now then
    s.modStrand d.1 fun t => { t with pends := modWhere t.pends (fun p => p.id == d.2.1) fun p => { p with
      writes := p.writes.map fun w => (w.1, w.2.1, 1) } }
  else s

/-- A strand is killed in the owner cycle in which ERETs disposed of streams of it (R323). -/
def State.undoDispose (s : State) (i : StrandId) : State :=
  ((((s.strand? i).map (·.disposed)).getD []).filter fun d => d.1.owner == i.owner).foldl (State.undoOne (s.lcNow i.owner i.lcore)) s

/-- Is it a WLGET that has made an attempt and waits for its next one (R470)? [DEDUCED: notes/assumptions/33.md] -/
def Acc.betweenGets (a : Acc) : Bool :=
  match a.instr with
  | .wlget _ => a.lanes.any fun l => match l.st with
    | .retry .. => true
    | _ => false
  | _ => false

/-- Has a lane an attempt still to make in this owner cycle, or its first one at all (R217, R476)? -/
def LaneAcc.acting (l : LaneAcc) (now : Nat) : Bool :=
  match l.st with
  | .todo => true
  | .retry d _ => decide (d ≤ now)
  | .over d => decide (d ≤ now)
  | .woken d _ _ => decide (d ≤ now)
  | .spurious d => decide (d ≤ now)
  | _ => false

/-- Is a lane in a park record? -/
def LaneAcc.parkedNow (l : LaneAcc) : Bool :=
  match l.st with
  | .parked .. => true
  | _ => false

/-- An access of a killed strand keeps its first attempts, and those that the owner cycle of the kill has still to make; its other lanes make
none (R39), and those that are parked leave their records in the next step (`State.purge`, R224). -/
def Acc.kill (now : Nat) (a : Acc) : Acc := { a with
  killed := true, lanes := a.lanes.map fun l => if l.acting now || l.parkedNow then l else { l with st := .done } }

/-- Kill a strand (R39): both streams stop at once; its flume, return queue and pending results are discarded; issued
work outside its registers goes on, its copies stopping by R185, and a WLGET that waits between attempts is over (R470). -/
def State.killStrand (s : State) (i : StrandId) : State :=
  let s := (s.undoDispose i).modStrand i fun t => { t with
    killed := true
    cst := .exited
    ctl := t.ctl.stopped
    sets := t.sets.map fun g => { g with st := .stopped, str := g.str.stopped, loops := [] }
    flume := [], rq := [], pends := [] }
  let s := s.modLcore i.owner i.lcore fun l => { l with
    copies := modWhere l.copies (fun c => c.strand == i) (Copy.killed l (s.lcNow i.owner i.lcore)) }
  let s : State := { s with
    accs := modWhere (s.accs.filter fun a => !(a.strand == i && a.betweenGets)) (fun a => a.strand == i) (Acc.kill (s.lcNow i.owner i.lcore)) }
  match s.strand? i with
  | some t => s.gsyncCheck t.grp
  | none => s

/-! ### Taking a trap (R298 to R301) -/

/-- TSTRAND of a strand's stream (R297). -/
def tstrandWord (i : StrandId) (slices : Nat) (ctl : Bool) : Word :=
  BitVec.ofNat 32 (i.lcore * 2 ^ 23 + i.slot * 2 ^ 18 + slices * 2 ^ 9 + (if ctl then 2 ^ 17 else 0))

/-- The slice mask a stream's records name (R297). -/
def Strand.tstrandOf (t : Strand) (set : Option Nat) : Word :=
  match set with
  | none => tstrandWord t.id 0 true
  | some k => tstrandWord t.id (maskOf ((t.set? k).map (·.slices) |>.getD [])) false

/-- The eight words of a trap record (R300). -/
def trapWords (tr : Trap) (flags : Nat) (tpc tstrand : Word) (number comp : Nat) : List Word :=
  [BitVec.ofNat 32 (flags * 2 ^ 16 + tr.sub * 2 ^ 8 + tr.cause), tpc, tstrand, tr.mask, tr.addr.lo, tr.addr.hi,
   BitVec.ofNat 32 (number % 2 ^ 24), BitVec.ofNat 32 (comp % 2 ^ 12)]

/-- Flags of a record's first word (R300), from bit 16: CTL, AWAIT, KILLED, NESTED, NOVEC. -/
def flagCtl : Nat := 1
def flagAwait : Nat := 2
def flagKilled : Nat := 4
def flagNested : Nat := 8
def flagNovec : Nat := 16

/-- Has the owner a live handler strand (R301)? One that has issued EXIT is live until it ends (R389). -/
def State.hasHandler (s : State) (o : Nat) : Bool :=
  s.strands.any fun t => t.id.owner == o && !t.killed &&
    ((s.group? t.grp).map (·.flags.sup) |>.getD false)

/-- Mark a group as ending with STATUS FAULTED (R281). -/
def State.faultGroup (s : State) (g : Nat) : State := s.modGroup g fun x => { x with fault := true }

/-- Free record places of a logical core (R300): a place is held until the record is stored. -/
def LCore.freePlaces (l : LCore) : Nat := 32 - (l.trecs.filter fun r => !r.put).length

/-- Streams of a strand. -/
def Strand.streams (t : Strand) : List Stream := t.ctl :: t.sets.map (·.str)

/-- Does a stream's trap wait for a record place (R300)? -/
def Stream.wantsPlace (x : Stream) : Bool :=
  match x.trap with
  | some t => (match t.phase with
    | .place _ => true
    | _ => false)
  | none => false

/-- May a trap of a logical core take a record place now (R300)? One whose instruction issues again with a place kept may, where any is
free; others may where a place is left besides those kept and no trap waits for one. -/
def State.mayPlace (s : State) (l : LCore) (kept : Bool) : Bool :=
  let xs := (s.strands.filter fun t => t.id.owner == l.owner && t.id.lcore == l.num).flatMap (·.streams)
  if kept then decide (0 < l.freePlaces)
  else decide ((xs.filter (·.place)).length < l.freePlaces) && !(xs.any (·.wantsPlace))

/-- The pipe or port in which a stream traps: the one whose slot is open at issue, or the one that its gang set issued from last. -/
def State.trapPort (s : State) (c : Cur) (l : LCore) (issue : Bool) : Nat :=
  match c.set with
  | none => 0
  | some k => if issue then (s.turn.map (·.slot)).getD 1 else if l.port1.cur = some (c.strand, k) then 2 else 1

/-- Give a record a place, its store acting 400 owner cycles later (R300). -/
def State.addRecord (s : State) (i : StrandId) (grp : Nat) (words : List Word) : State :=
  let r : TrapRec := ⟨s.nextId, i, grp, words, s.lcNow i.owner i.lcore + 400, false⟩
  (s.modLcore i.owner i.lcore fun l => { l with trecs := l.trecs ++ [r] }).fresh

/-- The address a trapped stream's record names: its PC; for an idle gang set the VEND of its last block (R477). -/
def Strand.tpcOf (t : Strand) (set : Option Nat) : Word :=
  match set with
  | none => t.ctl.pc
  | some k => match t.set? k with
    | some g => if g.st == .block then g.str.pc else g.lastVend
    | none => 0

/-- Deliver a trap to the queue (R298, R300, R301, R88): the stream waits for ERET and its record holds a place; without
a park area, or without a handler strand, the strand is killed; without a place for it the trap is not taken yet. -/
def State.queueTrap (s : State) (c : Cur) (tr : Trap) (issue : Bool) : State :=
  match s.strand? c.strand, s.owner? c.strand.owner, s.lcore? c.strand.owner c.strand.lcore with
  | some t, some w, some l =>
    let now := s.lcNow c.strand.owner c.strand.lcore
    let number := (s.group? t.grp).map (·.number) |>.getD 0
    let comp := (s.group? t.grp).map (·.comp) |>.getD 0
    let ctlF := if c.set.isNone then flagCtl else 0
    let port := s.trapPort c l issue
    if w.parkbase = 0 then (s.faultGroup t.grp).killStrand c.strand
    else if s.mayPlace l (((t.stream? c.set).map (·.place)).getD false) = false then
      s.modStream c fun x => { x with trap := some ⟨tr, .place issue, now, port⟩ }
    else if s.hasHandler w.id then
      let s := s.modStream c fun x => { x with trap := some ⟨tr, .await, now, port⟩, place := false }
      s.addRecord c.strand t.grp (trapWords tr (ctlF + flagAwait) (t.tpcOf c.set) (t.tstrandOf c.set) number comp)
    else
      let s := (s.faultGroup t.grp).killStrand c.strand
      s.addRecord c.strand t.grp (trapWords tr (ctlF + flagKilled) (t.tpcOf c.set) (t.tstrandOf c.set) number comp)
  | _, _, _ => s

/-- Take a trap in a stream (R298): in place for the control stream, but for cause 0x0A; else to the queue. In-place entry
itself follows once every pending control result is written (R299): `State.trapEntry`. A control stream whose access traps after
its EXIT has issued goes on from the trap. [DEDUCED: notes/assumptions/40.md] -/
def State.takeTrap (s : State) (c : Cur) (tr : Trap) (issue : Bool) : State :=
  match c.set with
  | some _ => s.queueTrap c tr issue
  | none =>
    let s := s.modStrand c.strand fun t => { t with cst := .run }
    if tr.cause ≠ 0x0A then
      s.modStream c fun x => { x with trap := some ⟨tr, .entry, s.lcNow c.strand.owner c.strand.lcore, 0⟩, wait := none, place := false }
    else s.queueTrap c tr issue

/-- In-place entry of R299, once every pending result of the control stream is written: the trap registers are written,
the level rises to SUPER and the PC goes to TVEC; a bad TVEC or a nested trap kills the strand and queues a record.
[DEDUCED: notes/assumptions/40.md] -/
def State.trapEntry (s : State) (i : StrandId) (tr : Trap) : State :=
  match s.strand? i, s.owner? i.owner with
  | some t, some w =>
    let badVec := w.tvec = 0 ∨ w.tvec.toNat % 4 ≠ 0 ∨ w.tvec.toNat ≥ 0x40000
    if badVec ∨ t.depth = 1 then
      let fl := flagKilled + flagCtl + (if t.depth = 1 then flagNested else 0) + (if badVec then flagNovec else 0)
      let s1 := (s.faultGroup t.grp).killStrand i
      if w.parkbase = 0 then s1
      else s1.addRecord i t.grp (trapWords tr fl t.ctl.pc (t.tstrandOf none)
        ((s.group? t.grp).map (·.number) |>.getD 0) ((s.group? t.grp).map (·.comp) |>.getD 0))
    else
      s.modStrand i fun t => { t with
        tcause := BitVec.ofNat 32 (tr.sub * 2 ^ 8 + tr.cause), tpc := t.ctl.pc, entryPc := t.ctl.pc, tmask := tr.mask,
        taddr := tr.addr, tstrand := t.tstrandOf none, tpriv := t.priv, priv := 1, depth := 1,
        ctl := { t.ctl with pc := w.tvec, ready := s.lcNow i.owner i.lcore + 2, stood := s.lcNow i.owner i.lcore + 2,
                            res := [], trap := none, wait := none, replay := none } }
  | _, _ => s

/-- The return from an in-place handler (R302): nothing while DEPTH is 0; else the level and the PC come back, and when TPC
still names the trapping instruction it executes in the lanes of TMASK only. A TPC that is no multiple of 4 is gone to as it is.
[DEDUCED: notes/assumptions/40.md; DESIGN CHOICE: notes/assumptions/63.md] -/
def Strand.eretInPlace (t : Strand) (now : Nat) : Strand :=
  if t.depth = 0 then t
  else { t with
    priv := t.tpriv, depth := 0
    ctl := { t.ctl with
      pc := t.tpc, ready := now + 2, stood := now + 2
      replay := if t.tpc = t.entryPc then some (t.tmask &&& 0xF) else none } }

end Sys2Proof.Machine
end

