-- ==== Sys2Proof/Machine/Operands.lean ====
section
/-!
DEFINITION. Operand forms: reading sources (R13, R62 to R66, R357), the lanes an instruction acts in (R16, R30), and the
registers an instruction names (R40, R50).
-/

namespace Sys2Proof.Machine

/-- What an instruction sees in its owner cycle of issue (R43). -/
structure Ctx where
  cur    : Cur
  t      : Strand       -- its strand
  str    : Stream       -- its stream
  clock  : Nat          -- the stream's clock (R292)
  now    : Nat          -- the owner cycle
  ocyc   : Nat
  gnum   : Nat          -- group number within its launch
  all    : List Nat     -- the lanes of the gang or of the control slice
  lanes  : List Nat     -- its active lanes
  deriving DecidableEq, Repr

/-- A register's lane. -/
def Strand.reg (t : Strand) (ctl : Bool) (r lane : Nat) : Word :=
  if ctl then tblGet 0 t.cregs (r * 4 + lane) else tblGet 0 t.vregs (r * 32 + lane)

/-- Write a register's lane. -/
def Strand.setReg (t : Strand) (ctl : Bool) (r lane : Nat) (v : Word) : Strand :=
  if ctl then { t with cregs := tblSet 0 t.cregs (r * 4 + lane) v }
  else { t with vregs := tblSet 0 t.vregs (r * 32 + lane) v }

def Ctx.isCtl (c : Ctx) : Bool := c.cur.set.isNone
def Ctx.reg (c : Ctx) (r lane : Nat) : Word := c.t.reg c.isCtl r lane

/-- A 32-bit source in a lane (R13, R62). -/
def Ctx.src (c : Ctx) (x : Src) (lane : Nat) : Word :=
  match x with
  | .reg n => c.reg n lane
  | .lit v => v.lo
  | .lane => BitVec.ofNat 32 lane
  | .slice => BitVec.ofNat 32 (if c.isCtl then 8 else lane / 4)
  | .zero => 0
  | .strand => BitVec.ofNat 32 c.t.index
  | .group => BitVec.ofNat 32 c.gnum
  | .ocyc => BitVec.ofNat 32 c.ocyc

/-- A pair source in a lane (R64, R65). -/
def Ctx.pair (c : Ctx) (x : Src) (lane : Nat) : DWord :=
  match x with
  | .reg n => DWord.make (c.reg n lane) (c.reg (n + 1) lane)
  | .lit v => v
  | _ => 0

/-- `k` registers of a source in a lane, from its first; zero for `z`. -/
def Ctx.regs (c : Ctx) (x : Src) (k lane : Nat) : List Word :=
  match x with
  | .reg n => (List.range k).map fun i => c.reg (n + i) lane
  | .lit v => [v.lo, v.hi].take k
  | _ => if k = 1 then [c.src x lane] else List.replicate k 0

/-- The lane that lane0 reads: lane 0 of the control slice, whatever lanes a replay leaves, or the lowest active lane of a gang (R357). -/
def Ctx.first (c : Ctx) : Nat := if c.isCtl then 0 else c.lanes.headD 0

/-- x in the lowest active lane: the window handle, the list and the set code (R211, R288). -/
def Ctx.low (c : Ctx) (x : Src) : Word := c.src x (c.lanes.headD 0)

/-- lane0(x) (R357). -/
def Ctx.lane0 (c : Ctx) (x : Src) : Word := c.src x c.first
def Ctx.pair0 (c : Ctx) (x : Src) : DWord := c.pair x c.first
def Ctx.n0 (c : Ctx) (x : Src) : Nat := (c.lane0 x).toNat

/-- Does a guard hold in a lane (R16, R66)? -/
def Ctx.guard (c : Ctx) (g : Guard) (lane : Nat) : Bool :=
  match g with
  | .always => true
  | .on x neg => (c.src x lane != 0) != neg

/-! ### The registers an instruction names -/

/-- Operand fields of an instruction, with their positions. -/
structure Fields where
  f   : Form
  d   : Dst
  a   : Src
  b   : Src
  c   : Src
  g   : Guard
  la  : Nat
  ext : Bool
  op  : Nat
  fn  : Nat
  deriving DecidableEq, Repr

def noForm : Form := ⟨.zero, .zero, .zero, .zero⟩

/-- The operand fields of an instruction (R59, R60, R69). -/
def fieldsOf (i : Instr) : Fields :=
  match i.enc with
  | .none => ⟨noForm, .none, .zero, .zero, .zero, .always, 0, false, 0, 0⟩
  | .word w => ⟨noForm, .none, .zero, .zero, .zero, .always, 0, false, field w 8 2, 0⟩
  | .wordLit _ _ =>
    let d := match i with | .call d _ => d | _ => .none
    ⟨baseForm 0x24, d, .zero, .zero, .zero, .always, 0, false, 0x24, 0⟩
  | .base op o => ⟨baseForm op, o.d, o.a, o.b, .zero, .always, 0, false, op, 0⟩
  | .send _ a => ⟨baseForm 0x2E, .none, a, .zero, .zero, .always, 0, false, 0x2E, 0⟩
  | .brc _ a _ => ⟨baseForm 0x23, .none, a, .zero, .zero, .always, 0, false, 0x23, 0⟩
  | .ext op fn ty mod x => ⟨extForm op fn ty mod (x.c = .zero), x.d, x.a, x.b, x.c, x.g, x.la, true, op, fn⟩

/-- Registers a source names in a position (R65). -/
def srcRegs (x : Src) (p : Pos) : List Nat :=
  match x with
  | .reg n => (List.range p.regs).map (n.val + ·)
  | _ => []

/-- Registers a destination names in a position. -/
def dstRegs (x : Dst) (p : Pos) : List Nat :=
  match x with
  | .reg n => (List.range p.regs).map (n.val + ·)
  | .none => []

/-- Registers an instruction writes (R40). -/
def Fields.writes (x : Fields) : List Nat := dstRegs x.d x.f.d

/-- Registers an instruction reads, records apart. -/
def Fields.reads (x : Fields) : List Nat :=
  srcRegs x.a x.f.a ++ srcRegs x.b x.f.b ++ srcRegs x.c x.f.c ++
    (match x.g with | .on g _ => srcRegs g .src | .always => [])

/-- A destination's registers with a lane's values: the writes of a result. -/
def dstOuts (d : Dst) (lane : Nat) (vs : List Word) : List (Nat × Nat × Word) :=
  match d with
  | .reg n => (List.range vs.length).zip vs |>.map fun (i, v) => (n.val + i, lane, v)
  | .none => []

/-- A value as the words of `k` registers, low word first. -/
def wordsOf (k : Nat) (v : Nat) : List Word := (List.range k).map fun i => BitVec.ofNat 32 (v >>> (32 * i))

end Sys2Proof.Machine
end

