-- ==== Sys2Proof/Machine/Flags.lean ====
section
/-!
DEFINITION. Conditions and comparisons. The GZ-960 has no flags register (R138: no operation sets a status flag); what other
hardware keeps in flags it decides from a register: branch conditions (R69, R368), CMP relations (R378, R379), the
reductions of votes and sends over active lanes (R31, R463), the functions of ATOM (R361).
-/

namespace Sys2Proof.Machine

/-- A branch condition on lane 0 of A (R69, R368). -/
def condHolds (c : Cond) (a : Word) : Bool :=
  match c with
  | .z => a == 0
  | .nz => a != 0
  | .neg => a.getLsbD 31
  | .nneg => !a.getLsbD 31
  | .odd => a.getLsbD 0
  | .even => !a.getLsbD 0

/-- A relation of two values given their order; `un` and `or` hold of NaNs and of numbers (R379). -/
def relHolds (r : Rel) (lt eq nan : Bool) : Bool :=
  match r with
  | .eq => !nan && eq
  | .ne => nan || !eq
  | .lt => !nan && lt
  | .le => !nan && (lt || eq)
  | .gt => !nan && !lt && !eq
  | .ge => !nan && !lt
  | .un => nan
  | .or => !nan

/-- CMP of one lane's operands: 32-bit in the low words, 64-bit by TY 12 and 13 (R378). -/
def cmpHolds (ty : Ty) (r : Rel) (a b : DWord) : Bool :=
  match ty with
  | .f32 =>
    let x := f32 a.lo; let y := f32 b.lo
    relHolds r (x.lt y) (x.eq y) (x.isNan || y.isNan)
  | .s32 => relHolds r (a.lo.slt b.lo) (a.lo == b.lo) false
  | .s64 => relHolds r (a.slt b) (a == b) false
  | .n64 => relHolds r (a.ult b) (a == b) false
  | _ => relHolds r (a.lo.ult b.lo) (a.lo == b.lo) false

/-- The new value of a unit of `size` bytes from the old one and the operand (R361); CAS apart. -/
def atomNew (fn : AtomFn) (size old arg : Nat) : Nat :=
  let w := 8 * size
  let sl := decide (intOf w true old < intOf w true arg)
  match fn with
  | .add => (old + arg) % 2 ^ w
  | .mins => if sl then old else arg
  | .maxs => if sl then arg else old
  | .minn => min old arg
  | .maxn => max old arg
  | .and => old &&& arg
  | .or => old ||| arg
  | .xor => old ^^^ arg
  | .xchg | .cas => arg
  | .fadd => (f32Add .rne (BitVec.ofNat 32 old) (BitVec.ofNat 32 arg)).toNat

/-- What VSEND pushes, from the active lanes and their values in ascending order (R31). -/
def sendValue (m : SendMode) (l : List (Nat × Word)) : Word :=
  let nz := l.filter fun x => x.2 != 0
  match m with
  | .value => (l.head?.map (·.2)).getD 0
  | .ballot => BitVec.ofNat 32 (maskOf (nz.map (·.1)))
  | .any => if nz.isEmpty then 0 else 1
  | .all => if nz.length = l.length then 1 else 0
  | .count => BitVec.ofNat 32 nz.length

end Sys2Proof.Machine
end

