-- ==== Sys2Proof/Machine/Issue.lean ====
section
/-!
DEFINITION. Issuing an instruction: the checks of R83 from stream legality on, guards (R16, R66), the lookahead count and
the results in flight (R40 to R42, R115), the pipe and ports (R44), and what an issued instruction leaves behind. Every
instruction's meaning is `issueWith` around its own effect.
-/

namespace Sys2Proof.Machine

/-- What an instruction does once it passes the checks. -/
inductive Eff
  /-- It traps and has no effect (R298). -/
  | trap (cause sub : Nat) (addr : DWord) (mask : Option Word)
  /-- It issues; `out` says when its result is written, with what, and where the stream goes. -/
  | done (s : State) (lat : Option Nat) (writes : List (Nat × Nat × Word)) (pc : Option Word)
  /-- It issues and waits at its place, keeping the operand values it read. -/
  | wait (s : State) (vals : List DWord)
  /-- It waits at issue and takes no pipe or port; a later step issues it. -/
  | stall
  /-- It goes on at an address without taking a pipe or port (the jump back of VLEND, R28). -/
  | free (s : State) (pc : Word)

/-- An effect with a result `lat` owner cycles after issue (R357). -/
def Eff.result (s : State) (lat : Nat) (writes : List (Nat × Nat × Word)) : Eff := .done s (some lat) writes none
/-- An effect that writes no register. -/
def Eff.plain (s : State) : Eff := .done s none [] none
/-- An effect whose result another step writes later. -/
def Eff.later (s : State) : Eff := .done s none [] none
/-- A trap that names every active lane (R297). -/
def Eff.trapAll (cause sub : Nat) (addr : DWord) : Eff := .trap cause sub addr none

/-! ### The context of the issuing stream -/

/-- The lanes of a stream: the control slice's four, or the gang's. -/
def lanesOf (t : Strand) (set : Option Nat) : List Nat :=
  match set with
  | none => [0, 1, 2, 3]
  | some k => ((t.set? k).map (·.slices) |>.getD []).flatMap fun s => [4 * s, 4 * s + 1, 4 * s + 2, 4 * s + 3]

/-- Lanes left by the block mask (R30); the control slice has none (R16). -/
def maskedLanes (t : Strand) (set : Option Nat) (all : List Nat) : List Nat :=
  match set with
  | none => all
  | some _ => all.filter fun l => t.bmask.toNat.testBit l

/-- Lanes left by a replay (R302). -/
def replayLanes (r : Option Word) (l : List Nat) : List Nat :=
  match r with
  | none => l
  | some m => l.filter fun i => m.toNat.testBit i

/-- What a stream's next instruction would see now; none when the stream does not stand at an instruction. -/
def ctxAt (s : State) (cur : Cur) : Option Ctx :=
  match s.strand? cur.strand, s.lcore? cur.strand.owner cur.strand.lcore with
  | some t, some l =>
    match t.stream? cur.set with
    | some x =>
      let all := lanesOf t cur.set
      let clock := match cur.set with
        | none => t.lclk
        | some k => (t.set? k).map (·.clock) |>.getD 0
      some ⟨cur, t, x, clock, s.lcNow cur.strand.owner cur.strand.lcore, l.ocyc,
        (s.group? t.grp).map (·.number) |>.getD 0, all, replayLanes x.replay (maskedLanes t cur.set all)⟩
    | none => none
  | _, _ => none

/-- Narrow the lanes by a guard: lane by lane in a gang, whole in the control stream (R16). -/
def Ctx.guarded (c : Ctx) (g : Guard) : Ctx :=
  match c.cur.set with
  | some _ => { c with lanes := c.lanes.filter (c.guard g) }
  | none => if c.guard g 0 then c else { c with lanes := [] }

/-! ### The checks of R83 -/

/-- Does an instruction belong to the stream (R15)? -/
def streamOk (f : Fields) (ctl : Bool) : Bool :=
  match streamCls f.op f.fn with
  | .both => true
  | .ctl => ctl
  | .vec => !ctl

def accessOk (a : Access) (priv : Nat) : Bool :=
  match a with
  | .user => true
  | .super => decide (1 ≤ priv)
  | .hyper => decide (2 ≤ priv)
  | .none => false

/-- May an instruction be issued at a level (R85)? -/
def privOk (i : Instr) (priv : Nat) : Bool :=
  match i with
  | .eret _ | .eretDispose _ => decide (1 ≤ priv)
  | .hgate .. => decide (2 ≤ priv)
  | .srd _ n => match sysReg n.toNat with
    | some r => accessOk r.read priv
    | none => true
  | .swr _ n => match sysReg n.toNat with
    | some r => accessOk r.write priv
    | none => true
  | _ => true

/-- Is a register not there to be read: is a result of the base form still to be written to it, so that an instruction which reads it waits
(R42), or does the instruction stand in the lookahead window of an extended form that writes it, whether or not that result has come (R41)? -/
def Ctx.awaits (c : Ctx) (x : Src) : Bool :=
  match x with
  | .reg n => c.str.res.any fun r => (if r.ext then decide (0 < r.left) else !r.written) && r.dsts.contains n.val
  | _ => false

/-- The registers of a record or of index registers that an instruction reads beside its operands: CPY (R177, R382),
MTILE (R202), MCON with PERM (R198). As long as the word that says how many is not there to be read, those that are read in any case. -/
def recordRegs (c : Ctx) (i : Instr) : List Nat :=
  let from_ (x : Src) (k : Nat) : List Nat := match x with
    | .reg n => (List.range k).map (n.val + ·)
    | _ => []
  match i with
  | .cpy x =>
    let w := if c.awaits x.a then 0 else (c.src x.a 0).toNat
    from_ x.a (8 + (if w.testBit 12 then 4 else 0) + (if w.testBit 23 then 2 else 0) + (if w / 2 ^ 10 % 4 = 3 then 2 else 0))
  | .mtile x => from_ x.a 8
  | .mcon x _ _ .perm _ => if c.awaits x.c then [] else from_ x.a (((c.src x.c 0).toNat + 3) / 4)
  | _ => []

/-- Is the range of an instruction's record left to its own checks (R417 tests it after others)? -/
def ownRange (i : Instr) : Bool :=
  match i with
  | .mcon .. => true
  | _ => false

/-- Every register an instruction touches. -/
def touched (c : Ctx) (i : Instr) : List Nat :=
  let f := fieldsOf i
  f.writes ++ f.reads ++ recordRegs c i

/-- The first register at or above the strand's count, in the order D, A, B, C, G, record (R50, R83). [DEDUCED: notes/assumptions/53.md] -/
def rangeError (c : Ctx) (i : Instr) : Option Nat :=
  let f := fieldsOf i
  (f.writes ++ f.reads ++ (if ownRange i then [] else recordRegs c i)).find? fun r => decide (c.t.n ≤ r)

/-- Is the form indexed, so that it touches any register (R407)? -/
def indexed (i : Instr) : Bool :=
  match i with
  | .ixrd _ | .ixrdLit _ | .ixwr _ | .ixwrLit _ => true
  | _ => false

/-- Does the instruction stand inside the lookahead window of one whose destination it touches (R41, R407)? [DEDUCED: notes/assumptions/53.md] -/
def lookaheadError (c : Ctx) (i : Instr) : Bool :=
  let ts := touched c i
  c.str.res.any fun r => r.ext && decide (0 < r.left) && !r.dsts.isEmpty && (indexed i || r.dsts.any fun d => ts.contains d)

/-- The first failing check of R83 from step 3 on, those of the decoder apart. -/
def issueError (c : Ctx) (i : Instr) : Option Trap :=
  let m := BitVec.ofNat 32 (maskOf c.lanes)
  if !streamOk (fieldsOf i) c.isCtl then some ⟨0x01, 0x04, 0, m⟩
  else if !privOk i c.t.priv then some ⟨0x11, 0, 0, m⟩
  else match rangeError c i with
    | some r => some ⟨0x02, 0, BitVec.ofNat 64 r, m⟩
    | none => if lookaheadError c i then some ⟨0x03, 0, 0, m⟩ else none

/-! ### After issue -/

/-- The registers an issued instruction holds until its result is written; IXWR counts as a write of all (R407). -/
def resultRegs (c : Ctx) (i : Instr) : List Nat :=
  match i with
  | .ixwr _ | .ixwrLit _ => List.range c.t.n
  | _ => (fieldsOf i).writes

/-- One more instruction has issued: open windows count it, and windows that are over and written go (R40). -/
def ageWindows (l : List Res) : List Res :=
  (l.map fun r => { r with left := r.left - 1 }).filter fun r => !(r.written && (!r.ext || r.left == 0))

/-- A stream after one of its instructions: the PC goes on, the lookahead count moves, a register writer opens its window
(R40, R43), the next instruction may issue `cost` owner cycles later. [DEDUCED: notes/assumptions/53.md] -/
def streamAfter (c : Ctx) (i : Instr) (id : Nat) (written : Bool) (pc : Option Word) (ready : Nat) (x : Stream) : Stream :=
  let f := fieldsOf i
  let dsts := resultRegs c i
  { x with
    pc := pc.getD (x.pc + BitVec.ofNat 32 (4 * i.words))
    ready := ready, stood := ready
    res := ageWindows x.res ++ (if dsts.isEmpty then [] else [Res.mk id dsts f.ext f.la written])
    wait := none, replay := (match i with | .eret _ => x.replay | _ => none), half := false, place := false }

/-- Count a retired instruction in its stream's clock (R292). -/
def Strand.tick (t : Strand) (set : Option Nat) : Strand :=
  match set with
  | none => { t with lclk := t.lclk + 1 }
  | some k => t.modSet k fun g => { g with clock := g.clock + 1 }

/-- The pipe or port of the open turn serves a stream for `cost` owner cycles (R44). -/
def State.usePipe (s : State) (c : Cur) (cost : Nat) : State :=
  match s.turn with
  | none => { s with cur := none }
  | some tn =>
    let now := s.lcNow tn.owner tn.lc
    let cost := if tn.tail then 1 else cost
    let f (p : Pipe) : Pipe := { p with cur := some (c.strand, c.set.getD 0), free := now + cost }
    let s := s.modLcore tn.owner tn.lc fun l =>
      if tn.slot = 0 then { l with ctl := f l.ctl } else if tn.slot = 1 then { l with port0 := f l.port0 }
      else { l with port1 := f l.port1 }
    { s with turn := some { tn with used := true }, cur := none }

/-- Tailwater turns of a stepped form from its issue to its write (R124): DIV takes 36 steps, an accurate special
function 22, and the result is written one turn later. -/
def stepsOf (i : Instr) : Nat :=
  match i with
  | .div .. => 36
  | .ex2 _ .acc | .lg2 _ .acc | .rcp _ .acc | .rsq _ .acc | .sqt _ .acc | .sin _ .acc | .cos _ .acc | .tanh _ .acc
  | .sigm _ .acc | .erf _ .acc => 22
  | _ => 0

/-- Sync operations that go on before they act: in a DET launch they retire at their act (R293). [DEDUCED: notes/assumptions/34.md] -/
def atActInDet (i : Instr) : Bool :=
  match i with
  | .atom .. | .wake .. | .wlput .. | .wlget .. => true
  | _ => false

/-- An instruction's own stream and strand after it issued, with its result in flight. -/
def State.retire (s : State) (c : Ctx) (i : Instr) (id : Nat) (lat : Option Nat) (writes : List (Nat × Nat × Word))
    (dead : Bool) (pc : Option Word) (ready : Nat) : State :=
  s.modStrand c.cur.strand fun t =>
    if t.killed then t else
    let t := match lat with
      | some n => if (resultRegs c i).isEmpty && writes.isEmpty then t
        else { t with pends := t.pends ++ [Pend.mk id c.cur.set (s.lcNow c.cur.strand.owner c.cur.strand.lcore + n)
            (if s.untimed c.cur.strand.owner then stepsOf i else 0) writes] }
      | none => t
    let t := t.modStream c.cur.set (streamAfter c i id dead pc ready)
    let later := atActInDet i && ((s.group? t.grp).map (·.flags.det)).getD false && s.accs.any fun a => a.id == id
    if later then t else t.tick c.cur.set

/-- The whole of an issue that goes on at once. -/
def State.issued (s : State) (c : Ctx) (i : Instr) (cost : Nat) (lat : Option Nat) (writes : List (Nat × Nat × Word))
    (dead : Bool) (pc : Option Word) : State :=
  let cost := if s.untimed c.cur.strand.owner then 1 else cost
  let gap := if c.isCtl && pc.isSome then 2 else cost  -- the target of a jump issues at issue + 2 (R368, R372, R408)
  ((s.retire c i s.nextId lat writes dead pc (c.now + gap)).usePipe c.cur cost).fresh

/-- A trap found at issue: the pipe or port is spent, nothing else happens but the trap. -/
def State.trapped (s : State) (c : Ctx) (tr : Trap) : State := (s.takeTrap c.cur tr true).usePipe c.cur 1

/-- An instruction that waits at its place. -/
def State.waits (s : State) (c : Ctx) (i : Instr) (vals : List DWord) : State :=
  ((s.modStream c.cur fun x => { x with wait := some ⟨i, s.nextId, vals, c.now⟩, place := false }).usePipe c.cur 1).fresh

/-- An instruction that waits at issue: it stands in its stream and holds no pipe or port. [DEDUCED: notes/assumptions/53.md] -/
def State.stalls (s : State) (c : Ctx) (i : Instr) : State :=
  { (s.modStream c.cur fun x => { x with wait := some ⟨i, s.nextId, [], x.stood⟩, place := false }).fresh with cur := none }

/-- The first half of a cost-2 instruction of an untimed owner: one tailwater turn of its pipe or port (R44, R124). -/
def State.firstHalf (s : State) (c : Cur) : State := (s.modStream c fun x => { x with half := true }).usePipe c 1

/-- Issue an instruction of the stream that `cur` names: the checks of R83 from step 3 on, then its guard, then its own
effect `k`. An untimed owner's instruction of cost 2 first takes its first half, whether or not its guard holds (R124).
[DEDUCED: notes/assumptions/53.md; DEDUCED: notes/assumptions/58.md] -/
def issueWith (i : Instr) (cost : Nat) (k : Ctx → State → Eff) (s : State) : Host.Outcome State Fault Refusal :=
  match s.cur with
  | none => .fault .notEnabled
  | some cur =>
    match ctxAt s cur with
    | none => .fault .notEnabled
    | some c =>
      match issueError c i with
      | some tr => .next (s.trapped c tr)
      | none =>
        let c := c.guarded (fieldsOf i).g
        if cost = 2 ∧ s.untimed cur.strand.owner = true ∧ c.str.half = false then .next (s.firstHalf cur)
        else if c.isCtl && c.lanes.isEmpty then .next (s.issued c i cost none [] true none)
        else match k c s with
          | .trap cause sub addr mask =>
            .next (s.trapped c ⟨cause, sub, addr, mask.getD (BitVec.ofNat 32 (maskOf c.lanes))⟩)
          | .done s' lat writes pc => .next (s'.issued c i cost lat writes false pc)
          | .wait s' vals => .next (s'.waits c i vals)
          | .stall => .next (s.stalls c i)
          | .free s' pc => .next { (s'.retire c i s.nextId none [] false (some pc) c.now).fresh with cur := none }

/-- An instruction that only computes: per active lane, the words of its destination from the lane's sources. -/
def issueLanes (i : Instr) (cost lat : Nat) (d : Dst) (f : Ctx → Nat → List Word) (s : State) :
    Host.Outcome State Fault Refusal :=
  issueWith i cost (fun c s => .result s lat (c.lanes.flatMap fun l => dstOuts d l (f c l))) s

/-- The writes that give every lane of the control slice or every active lane of a gang one value. -/
def Ctx.fill (c : Ctx) (d : Dst) (ws : List Word) : List (Nat × Nat × Word) := c.lanes.flatMap fun l => dstOuts d l ws

/-- A waiting instruction of the control stream completes: its result, if any, is written `lat` owner cycles from now, and the stream
goes on in the next owner cycle. Its guard held when it issued (R16) and is not read again. [DESIGN CHOICE: notes/assumptions/70.md] -/
def State.complete (s : State) (cur : Cur) (lat : Option Nat) (f : Ctx → List (Nat × Nat × Word)) : State :=
  match ctxAt s cur with
  | none => s
  | some c =>
    match c.str.wait with
    | none => s
    | some w => s.retire c w.instr w.id lat (f c) false none (c.now + 1)

/-- The waiting instruction of a stream. -/
def waitOf (s : State) (c : Cur) : Option Wait :=
  match s.strand? c.strand with
  | some t => (t.stream? c.set).bind (·.wait)
  | none => none

/-- Is the issue slot on offer one that may serve a stream: slot 0 the control pipe, 1 and 2 the vector ports? -/
def State.offered (s : State) (cur : Cur) : Bool :=
  match s.turn with
  | some tn => tn.owner == cur.strand.owner && tn.lc == cur.strand.lcore &&
      (match cur.set with
       | none => tn.slot == 0
       | some _ => tn.slot == 1 || tn.slot == 2)
  | none => false

/-- Issue an instruction that waited at issue after all, in the issue slot on offer: `f` is its meaning; it must not wait
again. [DEDUCED: notes/assumptions/53.md] -/
def resumeWith (cur : Cur) (f : State → Host.Outcome State Fault Refusal) (s : State) : Host.Outcome State Fault Refusal :=
  if s.offered cur then
    match f { s.modStream cur fun x => { x with wait := none } with cur := some cur } with
    | .next t => if (waitOf t cur).isSome then .fault .notEnabled else .next t
    | r => r
  else .fault .notEnabled

end Sys2Proof.Machine
end

