-- ==== Sys2Proof/Machine/Alu.lean ====
section
/-!
DEFINITION. The base-form arithmetic of the two streams (R68; the entries of spec/12 to spec/15 that each definition names)
and the indexed moves IXRD and IXWR. A row X_LIT is X with a literal operand (R64): the same function of its operands.
-/

namespace Sys2Proof.Machine

/-- The 64-bit product of two words read as n32. -/
def mulUnsigned (a b : Word) : DWord := a.setWidth 64 * b.setWidth 64
/-- The 64-bit product of two words read as s32. -/
def mulSigned (a b : Word) : DWord := a.signExtend 64 * b.signExtend 64
def popCount (a : Word) : Word := BitVec.ofNat 32 (bitsOf 32 a.toNat).length
def leadingZeros (a : Word) : Word := if a = 0 then 32 else BitVec.ofNat 32 (31 - Nat.log2 a.toNat)
def bitReverse (a : Word) : Word := BitVec.ofNat 32 (maskOf ((bitsOf 32 a.toNat).map (31 - ·)))

/-- Byte i of PRMB by the selector nibble k (R429). -/
def permuteByte (a : Word) (k : Nat) : Nat :=
  if k < 4 then a.toNat / 2 ^ (8 * k) % 256
  else if k < 8 then (if a.getLsbD (8 * (k - 4) + 7) then 255 else 0)
  else 0

def permuteBytes (a b : Word) : Word :=
  BitVec.ofNat 32 (permuteByte a (field b 3 0) + 2 ^ 8 * permuteByte a (field b 7 4) + 2 ^ 16 * permuteByte a (field b 11 8)
    + 2 ^ 24 * permuteByte a (field b 15 12))

/-- The common shape of a base-form computation: per active lane, the words of D. -/
def execBase (i : Instr) (lat : Nat) (o : BOps) (f : Ctx → Nat → List Word) (s : State) :
    Host.Outcome State Fault Refusal := issueLanes i 1 lat o.d f s

/-- Copies a (R419). -/
def valMov (o : BOps) (c : Ctx) (l : Nat) : List Word := [c.src o.a l]
def execMov (o : BOps) (s : State) : Host.Outcome State Fault Refusal :=
  execBase (.mov o) 4 o (valMov o) s
def execMovLit (o : BOps) (s : State) : Host.Outcome State Fault Refusal :=
  execBase (.movLit o) 4 o (valMov o) s

/-- Adds, wrapping (R359). -/
def valAdd (o : BOps) (c : Ctx) (l : Nat) : List Word := [c.src o.a l + c.src o.b l]
def execAdd (o : BOps) (s : State) : Host.Outcome State Fault Refusal :=
  execBase (.add o) 4 o (valAdd o) s
def execAddLit (o : BOps) (s : State) : Host.Outcome State Fault Refusal :=
  execBase (.addLit o) 4 o (valAdd o) s

/-- Subtracts, wrapping (R447). -/
def valSub (o : BOps) (c : Ctx) (l : Nat) : List Word := [c.src o.a l - c.src o.b l]
def execSub (o : BOps) (s : State) : Host.Outcome State Fault Refusal :=
  execBase (.sub o) 4 o (valSub o) s
def execSubLit (o : BOps) (s : State) : Host.Outcome State Fault Refusal :=
  execBase (.subLit o) 4 o (valSub o) s

/-- Low half of the product (R421). -/
def valMul (o : BOps) (c : Ctx) (l : Nat) : List Word := [c.src o.a l * c.src o.b l]
def execMul (o : BOps) (s : State) : Host.Outcome State Fault Refusal :=
  execBase (.mul o) 4 o (valMul o) s
def execMulLit (o : BOps) (s : State) : Host.Outcome State Fault Refusal :=
  execBase (.mulLit o) 4 o (valMul o) s

/-- High half of the signed product (R421). -/
def valMulhS32 (o : BOps) (c : Ctx) (l : Nat) : List Word := [(mulSigned (c.src o.a l) (c.src o.b l)).hi]
def execMulhS32 (o : BOps) (s : State) : Host.Outcome State Fault Refusal :=
  execBase (.mulhS32 o) 4 o (valMulhS32 o) s
def execMulhS32Lit (o : BOps) (s : State) : Host.Outcome State Fault Refusal :=
  execBase (.mulhS32Lit o) 4 o (valMulhS32 o) s

/-- High half of the unsigned product (R421). -/
def valMulhN32 (o : BOps) (c : Ctx) (l : Nat) : List Word := [(mulUnsigned (c.src o.a l) (c.src o.b l)).hi]
def execMulhN32 (o : BOps) (s : State) : Host.Outcome State Fault Refusal :=
  execBase (.mulhN32 o) 4 o (valMulhN32 o) s
def execMulhN32Lit (o : BOps) (s : State) : Host.Outcome State Fault Refusal :=
  execBase (.mulhN32Lit o) 4 o (valMulhN32 o) s

/-- Lesser, signed (R416). -/
def valMinS32 (o : BOps) (c : Ctx) (l : Nat) : List Word := [if (c.src o.a l).slt (c.src o.b l) then c.src o.a l else c.src o.b l]
def execMinS32 (o : BOps) (s : State) : Host.Outcome State Fault Refusal :=
  execBase (.minS32 o) 4 o (valMinS32 o) s
def execMinS32Lit (o : BOps) (s : State) : Host.Outcome State Fault Refusal :=
  execBase (.minS32Lit o) 4 o (valMinS32 o) s

/-- Lesser, unsigned (R416). -/
def valMinN32 (o : BOps) (c : Ctx) (l : Nat) : List Word := [if (c.src o.a l).ult (c.src o.b l) then c.src o.a l else c.src o.b l]
def execMinN32 (o : BOps) (s : State) : Host.Outcome State Fault Refusal :=
  execBase (.minN32 o) 4 o (valMinN32 o) s
def execMinN32Lit (o : BOps) (s : State) : Host.Outcome State Fault Refusal :=
  execBase (.minN32Lit o) 4 o (valMinN32 o) s

/-- Greater, signed (R416). -/
def valMaxS32 (o : BOps) (c : Ctx) (l : Nat) : List Word := [if (c.src o.a l).slt (c.src o.b l) then c.src o.b l else c.src o.a l]
def execMaxS32 (o : BOps) (s : State) : Host.Outcome State Fault Refusal :=
  execBase (.maxS32 o) 4 o (valMaxS32 o) s
def execMaxS32Lit (o : BOps) (s : State) : Host.Outcome State Fault Refusal :=
  execBase (.maxS32Lit o) 4 o (valMaxS32 o) s

/-- Greater, unsigned (R416). -/
def valMaxN32 (o : BOps) (c : Ctx) (l : Nat) : List Word := [if (c.src o.a l).ult (c.src o.b l) then c.src o.b l else c.src o.a l]
def execMaxN32 (o : BOps) (s : State) : Host.Outcome State Fault Refusal :=
  execBase (.maxN32 o) 4 o (valMaxN32 o) s
def execMaxN32Lit (o : BOps) (s : State) : Host.Outcome State Fault Refusal :=
  execBase (.maxN32Lit o) 4 o (valMaxN32 o) s

/-- Magnitude; 0x80000000 stays (R358). -/
def valAbs (o : BOps) (c : Ctx) (l : Nat) : List Word := [if (c.src o.a l).getLsbD 31 then 0 - c.src o.a l else c.src o.a l]
def execAbs (o : BOps) (s : State) : Host.Outcome State Fault Refusal :=
  execBase (.abs o) 4 o (valAbs o) s
def execAbsLit (o : BOps) (s : State) : Host.Outcome State Fault Refusal :=
  execBase (.absLit o) 4 o (valAbs o) s

/-- A and b (R360). -/
def valAnd (o : BOps) (c : Ctx) (l : Nat) : List Word := [c.src o.a l &&& c.src o.b l]
def execAnd (o : BOps) (s : State) : Host.Outcome State Fault Refusal :=
  execBase (.and o) 4 o (valAnd o) s
def execAndLit (o : BOps) (s : State) : Host.Outcome State Fault Refusal :=
  execBase (.andLit o) 4 o (valAnd o) s

/-- A or b (R426). -/
def valOr (o : BOps) (c : Ctx) (l : Nat) : List Word := [c.src o.a l ||| c.src o.b l]
def execOr (o : BOps) (s : State) : Host.Outcome State Fault Refusal :=
  execBase (.or o) 4 o (valOr o) s
def execOrLit (o : BOps) (s : State) : Host.Outcome State Fault Refusal :=
  execBase (.orLit o) 4 o (valOr o) s

/-- A xor b (R474). -/
def valXor (o : BOps) (c : Ctx) (l : Nat) : List Word := [c.src o.a l ^^^ c.src o.b l]
def execXor (o : BOps) (s : State) : Host.Outcome State Fault Refusal :=
  execBase (.xor o) 4 o (valXor o) s
def execXorLit (o : BOps) (s : State) : Host.Outcome State Fault Refusal :=
  execBase (.xorLit o) 4 o (valXor o) s

/-- A and not b (R360). -/
def valAndn (o : BOps) (c : Ctx) (l : Nat) : List Word := [c.src o.a l &&& ~~~(c.src o.b l)]
def execAndn (o : BOps) (s : State) : Host.Outcome State Fault Refusal :=
  execBase (.andn o) 4 o (valAndn o) s
def execAndnLit (o : BOps) (s : State) : Host.Outcome State Fault Refusal :=
  execBase (.andnLit o) 4 o (valAndn o) s

/-- Shifts left; a count of 32 or more gives 0 (R439). -/
def valShl (o : BOps) (c : Ctx) (l : Nat) : List Word := [if 32 ≤ (c.src o.b l).toNat then 0 else c.src o.a l <<< (c.src o.b l).toNat]
def execShl (o : BOps) (s : State) : Host.Outcome State Fault Refusal :=
  execBase (.shl o) 4 o (valShl o) s
def execShlLit (o : BOps) (s : State) : Host.Outcome State Fault Refusal :=
  execBase (.shlLit o) 4 o (valShl o) s

/-- Shifts right logically; a count of 32 or more gives 0 (R439). -/
def valShr (o : BOps) (c : Ctx) (l : Nat) : List Word := [if 32 ≤ (c.src o.b l).toNat then 0 else c.src o.a l >>> (c.src o.b l).toNat]
def execShr (o : BOps) (s : State) : Host.Outcome State Fault Refusal :=
  execBase (.shr o) 4 o (valShr o) s
def execShrLit (o : BOps) (s : State) : Host.Outcome State Fault Refusal :=
  execBase (.shrLit o) 4 o (valShr o) s

/-- Shifts right by min(b, 31) with the sign (R441). -/
def valSra (o : BOps) (c : Ctx) (l : Nat) : List Word := [(c.src o.a l).sshiftRight (min (c.src o.b l).toNat 31)]
def execSra (o : BOps) (s : State) : Host.Outcome State Fault Refusal :=
  execBase (.sra o) 4 o (valSra o) s
def execSraLit (o : BOps) (s : State) : Host.Outcome State Fault Refusal :=
  execBase (.sraLit o) 4 o (valSra o) s

/-- Rotates left by b mod 32 (R434). -/
def valRot (o : BOps) (c : Ctx) (l : Nat) : List Word := [(c.src o.a l).rotateLeft ((c.src o.b l).toNat % 32)]
def execRot (o : BOps) (s : State) : Host.Outcome State Fault Refusal :=
  execBase (.rot o) 4 o (valRot o) s
def execRotLit (o : BOps) (s : State) : Host.Outcome State Fault Refusal :=
  execBase (.rotLit o) 4 o (valRot o) s

/-- Number of set bits (R428). -/
def valPopc (o : BOps) (c : Ctx) (l : Nat) : List Word := [popCount (c.src o.a l)]
def execPopc (o : BOps) (s : State) : Host.Outcome State Fault Refusal :=
  execBase (.popc o) 4 o (valPopc o) s
def execPopcLit (o : BOps) (s : State) : Host.Outcome State Fault Refusal :=
  execBase (.popcLit o) 4 o (valPopc o) s

/-- Leading zeros; 32 for 0 (R377). -/
def valClz (o : BOps) (c : Ctx) (l : Nat) : List Word := [leadingZeros (c.src o.a l)]
def execClz (o : BOps) (s : State) : Host.Outcome State Fault Refusal :=
  execBase (.clz o) 4 o (valClz o) s
def execClzLit (o : BOps) (s : State) : Host.Outcome State Fault Refusal :=
  execBase (.clzLit o) 4 o (valClz o) s

/-- Bits reversed (R369). -/
def valBrev (o : BOps) (c : Ctx) (l : Nat) : List Word := [bitReverse (c.src o.a l)]
def execBrev (o : BOps) (s : State) : Host.Outcome State Fault Refusal :=
  execBase (.brev o) 4 o (valBrev o) s
def execBrevLit (o : BOps) (s : State) : Host.Outcome State Fault Refusal :=
  execBase (.brevLit o) 4 o (valBrev o) s

/-- Bytes chosen by nibbles of b (R429). -/
def valPrmb (o : BOps) (c : Ctx) (l : Nat) : List Word := [permuteBytes (c.src o.a l) (c.src o.b l)]
def execPrmb (o : BOps) (s : State) : Host.Outcome State Fault Refusal :=
  execBase (.prmb o) 4 o (valPrmb o) s
def execPrmbLit (o : BOps) (s : State) : Host.Outcome State Fault Refusal :=
  execBase (.prmbLit o) 4 o (valPrmb o) s

/-- F32 sum (R390). -/
def valFadd (o : BOps) (c : Ctx) (l : Nat) : List Word := [f32Add .rne (c.src o.a l) (c.src o.b l)]
def execFadd (o : BOps) (s : State) : Host.Outcome State Fault Refusal :=
  execBase (.fadd o) 6 o (valFadd o) s
def execFaddLit (o : BOps) (s : State) : Host.Outcome State Fault Refusal :=
  execBase (.faddLit o) 6 o (valFadd o) s

/-- F32 difference (R400). -/
def valFsub (o : BOps) (c : Ctx) (l : Nat) : List Word := [f32Sub .rne (c.src o.a l) (c.src o.b l)]
def execFsub (o : BOps) (s : State) : Host.Outcome State Fault Refusal :=
  execBase (.fsub o) 6 o (valFsub o) s
def execFsubLit (o : BOps) (s : State) : Host.Outcome State Fault Refusal :=
  execBase (.fsubLit o) 6 o (valFsub o) s

/-- F32 product (R397). -/
def valFmul (o : BOps) (c : Ctx) (l : Nat) : List Word := [f32Mul .rne (c.src o.a l) (c.src o.b l)]
def execFmul (o : BOps) (s : State) : Host.Outcome State Fault Refusal :=
  execBase (.fmul o) 6 o (valFmul o) s
def execFmulLit (o : BOps) (s : State) : Host.Outcome State Fault Refusal :=
  execBase (.fmulLit o) 6 o (valFmul o) s

/-- MinimumNumber (R397). -/
def valFmin (o : BOps) (c : Ctx) (l : Nat) : List Word := [f32MinMax false (c.src o.a l) (c.src o.b l)]
def execFmin (o : BOps) (s : State) : Host.Outcome State Fault Refusal :=
  execBase (.fmin o) 6 o (valFmin o) s
def execFminLit (o : BOps) (s : State) : Host.Outcome State Fault Refusal :=
  execBase (.fminLit o) 6 o (valFmin o) s

/-- MaximumNumber (R397). -/
def valFmax (o : BOps) (c : Ctx) (l : Nat) : List Word := [f32MinMax true (c.src o.a l) (c.src o.b l)]
def execFmax (o : BOps) (s : State) : Host.Outcome State Fault Refusal :=
  execBase (.fmax o) 6 o (valFmax o) s
def execFmaxLit (o : BOps) (s : State) : Host.Outcome State Fault Refusal :=
  execBase (.fmaxLit o) 6 o (valFmax o) s

/-- 64-bit sum of pairs (R359). -/
def valAddw (o : BOps) (c : Ctx) (l : Nat) : List Word := [(c.pair o.a l + c.pair o.b l).lo, (c.pair o.a l + c.pair o.b l).hi]
def execAddw (o : BOps) (s : State) : Host.Outcome State Fault Refusal :=
  execBase (.addw o) 6 o (valAddw o) s
def execAddwLit (o : BOps) (s : State) : Host.Outcome State Fault Refusal :=
  execBase (.addwLit o) 6 o (valAddw o) s

/-- Unsigned product as a pair (R421). -/
def valMulwN32 (o : BOps) (c : Ctx) (l : Nat) : List Word := [(mulUnsigned (c.src o.a l) (c.src o.b l)).lo, (mulUnsigned (c.src o.a l) (c.src o.b l)).hi]
def execMulwN32 (o : BOps) (s : State) : Host.Outcome State Fault Refusal :=
  execBase (.mulwN32 o) 6 o (valMulwN32 o) s
def execMulwN32Lit (o : BOps) (s : State) : Host.Outcome State Fault Refusal :=
  execBase (.mulwN32Lit o) 6 o (valMulwN32 o) s

/-- Signed product as a pair (R421). -/
def valMulwS32 (o : BOps) (c : Ctx) (l : Nat) : List Word := [(mulSigned (c.src o.a l) (c.src o.b l)).lo, (mulSigned (c.src o.a l) (c.src o.b l)).hi]
def execMulwS32 (o : BOps) (s : State) : Host.Outcome State Fault Refusal :=
  execBase (.mulwS32 o) 6 o (valMulwS32 o) s
def execMulwS32Lit (o : BOps) (s : State) : Host.Outcome State Fault Refusal :=
  execBase (.mulwS32Lit o) 6 o (valMulwS32 o) s

/-- The first active lane whose index lies at or above the strand's register count (R406). -/
def badIndex (c : Ctx) (a : Src) : Option Nat := c.lanes.find? fun l => decide (c.t.n ≤ (c.src a l).toNat)

/-- IXRD: d(l) := register a(l), lane l (R406). -/
def issueIxrd (i : Instr) (o : BOps) (s : State) : Host.Outcome State Fault Refusal :=
  issueWith i 1 (fun c s =>
    match badIndex c o.a with
    | some l => .trapAll 0x02 0 ((c.src o.a l).setWidth 64)
    | none => .result s 4 (c.lanes.flatMap fun l => dstOuts o.d l [c.reg (c.src o.a l).toNat l])) s

/-- IXWR: register a(l), lane l := b(l), at issue + 4 (R406). -/
def issueIxwr (i : Instr) (o : BOps) (s : State) : Host.Outcome State Fault Refusal :=
  issueWith i 1 (fun c s =>
    match badIndex c o.a with
    | some l => .trapAll 0x02 0 ((c.src o.a l).setWidth 64)
    | none => .result s 4 (c.lanes.map fun l => ((c.src o.a l).toNat, l, c.src o.b l))) s

def execIxrd (o : BOps) (s : State) : Host.Outcome State Fault Refusal := issueIxrd (.ixrd o) o s
def execIxrdLit (o : BOps) (s : State) : Host.Outcome State Fault Refusal := issueIxrd (.ixrdLit o) o s
def execIxwr (o : BOps) (s : State) : Host.Outcome State Fault Refusal := issueIxwr (.ixwr o) o s
def execIxwrLit (o : BOps) (s : State) : Host.Outcome State Fault Refusal := issueIxwr (.ixwrLit o) o s

end Sys2Proof.Machine
end

