-- ==== Sys2Proof/Machine/Log.lean ====
section
/-!
DEFINITION. The interrupt logs (spec/11 R334 to R337): storing a record, the interrupt message, and escalation to HYPER (R215).
-/

namespace Sys2Proof.Machine

/-- Is an owner descheduled, or paused, so that its interrupt message is held (R336)? -/
def State.messageHeld (s : State) (w : Owner) : Bool :=
  w.freezes.contains .paused || !(s.lcores.any fun l => l.owner == w.id && l.resident)

/-- The interrupt message that follows a record (R336). -/
def State.message (s : State) (o : Nat) : State :=
  match s.owner? o with
  | none => s
  | some w =>
    if s.messageHeld w then s.modOwner o fun w => { w with held := true }
    else if w.orec.msien then { s with dev := { s.dev with msis := s.dev.msis ++ [(w.orec.msiaddr, w.orec.msidata)] } }
    else s

/-- The message held back is sent at a resume, or when a logical core becomes resident (R336). -/
def State.sendHeld (s : State) (o : Nat) : State :=
  match s.owner? o with
  | none => s
  | some w =>
    if w.held && !s.messageHeld w then
      let s := s.modOwner o fun w => { w with held := false }
      if w.orec.msien then { s with dev := { s.dev with msis := s.dev.msis ++ [(w.orec.msiaddr, w.orec.msidata)] } } else s
    else s

/-- The 32 bytes of a log record (R335). -/
def LogRec.bytes (r : LogRec) : List Byte :=
  numBytes 2 r.type ++ numBytes 2 r.aux ++ numBytes 4 r.ogen ++ numBytes 8 r.stamp ++
    ((r.par ++ [0, 0, 0, 0]).take 4).flatMap (numBytes 4)

/-- Records of an earlier generation of their owner are discarded, and INTDROP counts them (R337). -/
def State.intDrops (s : State) (n : Nat) : State :=
  { s with dev := { s.dev with intdrop := BitVec.ofNat 32 (min 0xFFFFFFFF (s.dev.intdrop.toNat + n)) } }

/-- A store of the hardware, or the address at which it meets a fault. -/
def State.tryStore (s : State) (o va : Nat) (bs : List Byte) : Except Nat State :=
  match s.hwStore o va bs with
  | some s => .ok s
  | none => .error va

/-- Write a record into its owner's log, or count it as lost, or discard it when the owner was reset since; or the address at which the
log meets a fault (R334, R337). Says whether the record was written, so that PUT counts it. A record for an owner that is gone is
discarded. -/
def State.logPlace (s : State) (r : LogRec) : Except Nat (State × Bool) :=
  match s.owner? r.owner with
  | none => .ok (s, false)
  | some w =>
    if r.ogen < w.ogen then .ok (s.intDrops 1, false)
    else
      let b := w.orec.logbase
      match s.hwRead w.id (b + 64) 4 with
      | none => .error (b + 64)
      | some t =>
        let take := t.foldr (fun x v => x.toNat + 256 * v) 0
        if (w.lput + 2 ^ 32 - take) % 2 ^ 32 ≥ 2 ^ w.orec.logn then
          let lost := min 0xFFFFFFFF (w.llost + 1)
          (s.tryStore w.id (b + 4) (numBytes 4 lost)).map fun s => (s.modOwner w.id fun w => { w with llost := lost }, false)
        else
          (s.tryStore w.id (b + 128 + 32 * (w.lput % 2 ^ w.orec.logn)) r.bytes).map fun s =>
            (s.modOwner w.id fun w => { w with lput := (w.lput + 1) % 2 ^ 32 }, true)

/-- Store PUT, which counts the records but those whose own PUT is still due (R404), and send the message (R334, R336).
[DEDUCED: notes/assumptions/46.md] -/
def State.logPublish (s : State) (o : Nat) : Except Nat State :=
  match s.owner? o with
  | none => .ok s
  | some w =>
    let put := (w.lput + 2 ^ 32 - (s.intrs.filter fun r => r.strand.owner == o && r.put).length) % 2 ^ 32
    (s.tryStore o w.orec.logbase (numBytes 4 put)).map (·.message o)

/-- Store a record and then PUT. -/
def State.logStore (s : State) (r : LogRec) : Except Nat State :=
  match s.logPlace r with
  | .ok (t, true) => t.logPublish r.owner
  | .ok (t, false) => .ok t
  | .error a => .error a

/-- Add a freeze to an owner. -/
def State.freeze (s : State) (o : Nat) (f : Freeze) : State :=
  s.modOwner o fun w => if w.freezes.contains f then w else { w with freezes := w.freezes ++ [f] }
def State.thaw (s : State) (o : Nat) (f : Freeze) : State :=
  s.modOwner o fun w => { w with freezes := w.freezes.filter (· != f) }

/-- Store a record; one that meets a fault is kept, with those after it, its owner frozen until it can be stored (R334). Answers the
address of the fault too. [DEDUCED: notes/assumptions/46.md] -/
def State.logKeep (s : State) (r : LogRec) : State × Option Nat :=
  let kept : State := { s.freeze r.owner (.record 0) with log := s.log ++ [r] }
  if s.log.any fun q => q.owner == r.owner then (kept, none)
  else match s.logStore r with
    | .ok s => (s, none)
    | .error a => (kept, some a)

/-- Is the frame behind an owner frame number being moved (R215)? -/
def State.moving (s : State) (w : Owner) (frame : Nat) : Bool :=
  let i := if frame ≥ 0x8000000 then w.orec.ngrant + (frame - 0x8000000) else frame
  (s.num (w.orec.grants + 8 * i) 8).testBit 62

/-- AUX and P1 of the ESCALATE record of a hardware store that met a fault (R300, R334, R335): the owner frame that holds the address. An
address that is in no owner frame has none to name, and P1 is a free value. [DESIGN CHOICE: notes/assumptions/16.md] -/
def State.faultFrame (s : State) (w : Owner) (va : Nat) : Nat × Nat :=
  let named (f : Nat) : Nat × Nat := (if s.moving w f then 1 else 0, f)
  match s.pageOf w.id va with
  | .ok p => match s.placeIn w.id p va with
    | .error f => named f
    | .ok _ => if p.kind = 1 ∧ ¬ p.table then named (p.frame + (va - p.base) / 65536) else (0, (Config.freeWord s.freeN).toNat)
  | .error (.escalate f) => named f
  | .error _ => (0, (Config.freeWord s.freeN).toNat)

/-- Freeze an owner for a hardware store of its own that met a fault, and record it in owner 0's log. -/
def State.storeFault (s : State) (o id va : Nat) : State :=
  match s.owner? o with
  | none => s
  | some w =>
    let (aux, frame) := s.faultFrame w va
    let t : State := { s with freeN := s.freeN + 1 }
    let r : LogRec := ⟨0, 7, aux, ((s.owner? 0).map (·.ogen)).getD 0, 0, [o, frame, va % 2 ^ 32, va / 2 ^ 32]⟩
    ((t.freeze o (.record id)).logKeep r).1

/-- A store to an owner's log meets a fault at an address: it escalates to HYPER, once. [DEDUCED: notes/assumptions/46.md] -/
def State.logFault (s : State) (o va : Nat) : State :=
  match s.owner? o with
  | none => s
  | some w => if o = 0 ∨ w.freezes.contains (.record 0) then s.freeze o (.record 0) else s.storeFault o 0 va

/-- Store a record; a fault of the store escalates to HYPER. -/
def State.logEvent (s : State) (r : LogRec) : State :=
  match s.owner? r.owner with
  | none => s
  | some w =>
    match s.logKeep r with
    | (s', some a) => if r.owner = 0 ∨ w.freezes.contains (.record 0) then s' else s'.storeFault r.owner 0 a
    | (s', none) => s'

/-- A record of an event of now: its owner's generation is the current one. -/
def State.logRecord (s : State) (o type aux stamp : Nat) (par : List Nat) : State :=
  match s.owner? o with
  | none => s
  | some w => s.logEvent ⟨o, type, aux, w.ogen, stamp, par⟩

/-- Freeze an owner for a frame that HYPER must answer for, and record it in owner 0's log (R215, R335): once per frame. -/
def State.escalate (s : State) (o frame va : Nat) : State :=
  let f := Freeze.escalate frame va
  match s.owner? o with
  | none => s
  | some w =>
    if w.freezes.any fun g => match g with | .escalate a _ => a == frame | _ => false then s
    else
      (s.freeze o f).logRecord 0 7 (if s.moving w frame then 1 else 0) 0 [o, frame, va % 2 ^ 32, va / 2 ^ 32]

/-- A store of a record of the owner that met a fault escalates to HYPER too (R300, R334): the owner is frozen until the
store can be made. -/
def State.recordFault (s : State) (o id va : Nat) : State :=
  match s.owner? o with
  | none => s
  | some w =>
    if w.freezes.contains (.record id) then s
    else s.storeFault o id va

end Sys2Proof.Machine
end

