-- ==== Sys2Proof/Machine/Mem.lean ====
section
/-!
DEFINITION. The memory instructions (spec/06 R207 to R229, R476; spec/07 R246, R247, R249; the entries of LD, ST, ATOM,
FESET, FEGET, WAITA, WAKE, XLAT, XDROP, FENCE) and the steps of the memory side: acts, retries, woken retries.
-/

namespace Sys2Proof.Machine

/-- An untouched window slot. [DESIGN CHOICE: notes/assumptions/11.md] -/
def win0 : WinSlot := ⟨0, false, none, 0, 0, ⟨0, 0, 0, 0, false, false, false⟩⟩

/-- A window slot of a group. [DESIGN CHOICE: notes/assumptions/11.md] -/
def Group.win (g : Group) (k : Nat) : WinSlot := tblGet win0 g.windows k

/-- Is a slot in use in an owner cycle (R473: an XDROP is seen from the next)? -/
def WinSlot.live (w : WinSlot) (now : Nat) : Bool :=
  w.used && (match w.dropped with | none => true | some d => decide (now ≤ d))

/-- The window a handle names, unless the handle is stale (R207). -/
def windowOf (s : State) (grp now : Nat) (h : Word) : Option WinSlot :=
  match s.group? grp with
  | none => none
  | some g =>
    let w := g.win (field h 3 0)
    if field h 31 16 ≠ 0 ∨ ¬ w.live now ∨ w.gen ≠ field h 15 4 then none else some w

/-! ### Windows bound (R119), horizons (R247) -/

/-- Bind the `k` earliest unbound windows with index `i` or higher. -/
def bindWindows (k i : Nat) : List (Nat × Nat) → List (Nat × Nat)
  | [] => if k = 0 then [] else [(i, i + k)]
  | (a, b) :: t =>
    if k = 0 then (a, b) :: t
    else if b ≤ i then (a, b) :: bindWindows k i t
    else if a ≤ i then (a, b) :: bindWindows k b t
    else (i, i + min k (a - i)) :: (a, b) :: bindWindows (k - (a - i)) b t

/-- A request of `bytes` from a logical core in owner cycle `m`. -/
def State.bindFor (s : State) (o lc m bytes : Nat) : State :=
  if s.untimed o then s
  else s.modLcore o lc fun l => { l with bound := bindWindows ((bytes + 95) / 96) (m + 32) l.bound }

/-- The agent of a lane of an access (R233): the control slice, 8, or the lane's vector slice. -/
def Acc.agent (a : Acc) (l : LaneAcc) : Nat := if a.set.isNone then 8 else l.lane / 4

/-- The agents of a stream. -/
def State.agentsOf (s : State) (c : Cur) : List Nat :=
  match c.set with
  | none => [8]
  | some k => (((s.strand? c.strand).bind (·.set? k)).map (·.slices)).getD []

/-- XLAT is not a memory access and orders nothing (R473). -/
def ordersNothing (i : Instr) : Bool :=
  match i with
  | .xlat _ => true
  | _ => false

/-- The lanes, of accesses issued before the one that is to have identity `id`, of some agents of a strand. -/
def State.earlier (s : State) (st : StrandId) (agents : List Nat) (id : Nat) : List (Nat × LaneAcc) :=
  (s.accs.filter fun a => a.strand == st && decide (a.id < id) && !ordersNothing a.instr).flatMap fun a =>
    (a.lanes.filter fun l => agents.contains (a.agent l)).map (a.id, ·)

/-- Their horizon: the latest act cycle among them, those that have not acted at the earliest when they are due (R247).
[DEDUCED: notes/assumptions/23.md] -/
def State.horizon (s : State) (st : StrandId) (agents : List Nat) (id : Nat) : Horizon :=
  let ls := s.earlier st agents id
  ⟨(ls.map (·.2.due)).foldl max 0, (ls.filter fun x => !x.2.acted).map fun x => (x.1, x.2.lane)⟩

/-- The stream an access belongs to now: gang sets may part and fuse after a store has issued. -/
def Acc.curNow (a : Acc) (s : State) : Cur :=
  match a.set with
  | none => ⟨a.strand, none⟩
  | some k => ⟨a.strand, some (((s.strand? a.strand).bind fun t => t.sets.find? fun g => g.slices.contains k).map
      (·.key) |>.getD k)⟩

/-- A gang set that takes the trap of an access goes back to the access's instruction: it stands in a block, and one that
had taken END has it still before it. [DEDUCED: notes/assumptions/40.md] -/
def Strand.backInBlock (t : Strand) (k now : Nat) : Strand :=
  match t.set? k with
  | some g =>
    let t := t.modSet k fun g => { g with st := .block }
    if g.st = .stopped then { t with flume := t.flume ++ [⟨0, .fin, 0, g.slices, g.slices, now, 0, .none⟩] } else t
  | none => t

/-! ### Operands of the memory instructions -/

/-- Bytes per lane of an instruction's access. -/
def accSize (i : Instr) : Nat :=
  match i with
  | .ld _ m | .st _ m | .atom _ _ m => 2 ^ m.size.code
  | _ => 4

/-- Is the instruction a store or an ATOM, so that W is needed (R212)? -/
def accWrites (i : Instr) : Bool :=
  match i with
  | .st .. | .atom .. => true
  | _ => false

/-- Is it one of the memory instructions of R476, whose lanes touch atomic units (R235)? -/
def isMemory (i : Instr) : Bool :=
  match i with
  | .ld .. | .st .. | .atom .. | .feset .. | .feget .. | .waita .. | .wake .. => true
  | _ => false

/-- Does it act in one act of all its lanes: FESET (R228), the list operations (R288), LAUNCH? -/
def actsWhole (i : Instr) : Bool :=
  match i with
  | .feset .. | .wlput _ | .wlget _ | .launch _ => true
  | _ => false

/-- Is it an F/E form, FESET, FEGET, WAITA or WAKE, which host memory refuses (R212)? -/
def accFe (i : Instr) : Bool :=
  match i with
  | .ld _ m | .st _ m => m.fef != .plain
  | .feset .. | .feget .. | .waita .. | .wake .. => true
  | _ => false

/-- BUDGET and PARK (R76). -/
def accBudget (i : Instr) : Nat × Bool :=
  match i with
  | .ld _ m | .st _ m | .waita _ m => (m.budget.toNat, m.park)
  | _ => (0, false)

/-- KIND of the park records of an instruction (R220). -/
def parkKind (i : Instr) : Nat :=
  match i with
  | .ld _ m => if m.fef == .consuming then 1 else 0
  | .st .. => 2
  | _ => 3

/-- Does the stream wait at the instruction until every lane has succeeded (R218)? -/
def accHolds (i : Instr) : Bool :=
  match i with
  | .ld _ m | .st _ m => m.fef != .plain
  | .waita .. => true
  | _ => false

/-- ORDER's acquire and release, the releases of R236, LAUNCH (R238), and the list operations (R471). -/
def accOrder (i : Instr) : Bool × Bool :=
  let f (o : Order) : Bool × Bool := (o == .acq || o == .ar, o == .rel || o == .ar)
  match i with
  | .ld _ m | .feset _ m | .feget _ m | .waita _ m | .wake _ m | .atom _ _ m => f m.order
  | .st _ m => if m.fef == .filling then (false, true) else f m.order
  | .launch _ | .wlput _ => (false, true)
  | .wlget _ => (true, false)
  | _ => (false, false)

/-- Destination of a memory instruction and its registers. -/
def accDst (i : Instr) : Dst := (fieldsOf i).d

/-- Does it touch atomic units of memory: one of those, or LAUNCH, a 64-byte access (R276)? -/
def touchesUnits (i : Instr) : Bool :=
  match i with
  | .launch _ => true
  | i => isMemory i

/-- Does it act on a work list? -/
def isList (i : Instr) : Bool :=
  match i with
  | .wlput _ | .wlget _ => true
  | _ => false

/-- Bytes whose atomic units a lane touches (R235): aligned words, or aligned pairs for SIZE 8 and 16. [DEDUCED: notes/assumptions/23.md] -/
def laneUnits (i : Instr) (l : LaneAcc) : Nat × Nat :=
  match i with
  | .launch _ => (l.va, l.va + 64)
  | .feset .. => (l.va / 4 * 4, l.va / 4 * 4 + 4 * ((l.data.map (·.toNat)).headD 0))
  | .feget .. => (l.va / 128 * 128, l.va / 128 * 128 + 128)
  | _ =>
    let u := if accSize i ≤ 4 then 4 else 8
    (l.va / u * u, l.va / u * u + max u (accSize i))

/-- Do two ranges of addresses meet? -/
def meets (x y : Nat × Nat) : Bool := decide (x.1 < y.2 ∧ y.1 < x.2)

/-- Does `b`, which issued before, come before an access of the same strand in the order of R247 at all? -/
def Acc.precedes (b a : Acc) : Bool := b.strand == a.strand && decide (b.id < a.id) && !ordersNothing b.instr

/-- Must a lane `m` of an earlier access act before a lane `l` of an access, as far as virtual addresses show (R247): lanes of one agent,
where the access is a release, where the two touch one atomic unit, or where they act on one work list? [DEDUCED: notes/assumptions/23.md] -/
def laneOrdered (a b : Acc) (l m : LaneAcc) : Bool :=
  b.agent m == a.agent l && ((accOrder a.instr).2 ||
    (touchesUnits a.instr && touchesUnits b.instr && meets (laneUnits a.instr l) (laneUnits b.instr m)) ||
    (isList a.instr && isList b.instr && l.va == m.va))

/-- An access that acts as a whole does so in the act cycle of its last lane. -/
def Acc.level (a : Acc) : Acc :=
  if actsWhole a.instr then
    let d := (a.lanes.map (·.due)).foldl max a.due
    { a with due := d, lanes := a.lanes.map fun l => { l with due := d } }
  else a

/-- The access with the act cycle of each lane (R213), put after the lanes that must act before it (R247). [DEDUCED: notes/assumptions/23.md] -/
def State.ordered (s : State) (a : Acc) : Acc :=
  let bs := s.accs.filter (·.precedes a)
  Acc.level { a with lanes := a.lanes.map fun l => { l with
    due := bs.foldl (fun d b => b.lanes.foldl (fun d m => if laneOrdered a b l m then max d (m.due + 1) else d) d) a.due } }

/-- Issue a memory instruction (R211 to R213, R476): the handle, then alignment, then addresses over every active lane; the
act cycle; the lanes with the data they bring. [DESIGN CHOICE: notes/assumptions/13.md; DESIGN CHOICE: notes/assumptions/70.md] -/
def issueAcc (i : Instr) (a b : Src) (data : Ctx → Nat → List Word) (lat far extra : Ctx → Nat) (s : State) :
    Host.Outcome State Fault Refusal :=
  issueWith i 1 (fun c s =>
    if c.lanes.isEmpty then .result s (lat c) []
    else
      let h := c.low a
      match windowOf s c.t.grp c.now h with
      | none => .trapAll 0x07 0 (h.setWidth 64)
      | some w =>
        let size := accSize i
        let va (l : Nat) : Nat := w.base + (c.src b l).toNat
        match c.lanes.find? fun l => va l % size != 0 with
        | some l => .trapAll 0x06 0 (BitVec.ofNat 64 (va l))
        | none =>
          match c.lanes.find? fun l => decide (va l + size > 2 ^ 56) with
          | some l => .trapAll 0x08 0 (BitVec.ofNat 64 (va l))
          | none =>
            let near := c.lanes.all fun l => decide (va l + size ≤ w.base + w.limit)
            let u := s.untimed c.cur.strand.owner
            let bytes := c.lanes.length * size
            let due := c.now + (if near then lat c else far c) + extra c + (if u then Config.untimedDelay s.freeN else 0)
            let acc : Acc := ⟨s.nextId, c.cur.strand, c.cur.set, c.t.grp, c.str.pc, (s.turn.map (·.slot)).getD 0, i,
              c.lanes.map fun l => ⟨l, va l, data c l, .todo, [], 0, due, 0, []⟩, some w, decide (1 ≤ c.t.priv), due,
              if u then (bytes + 95) / 96 else 0, accHolds i, false, false, c.now⟩
            let s := (s.bindFor c.cur.strand.owner c.cur.strand.lcore c.now bytes)
            let s := { s with accs := s.accs ++ [s.ordered acc], freeN := if u then s.freeN + 1 else s.freeN }
            if accHolds i then .wait s [] else .later s) s

def execLd (x : XOps) (m : MemMod) (s : State) : Host.Outcome State Fault Refusal :=
  issueAcc (.ld x m) x.a x.b (fun _ _ => []) (fun _ => 400) (fun _ => 2000) (fun _ => 0) s

def execSt (x : XOps) (m : MemMod) (s : State) : Host.Outcome State Fault Refusal :=
  issueAcc (.st x m) x.a x.b (fun c l => c.regs x.c (max 1 (2 ^ m.size.code / 4)) l) (fun _ => 400) (fun _ => 2000)
    (fun _ => 0) s

/-- Registers that ATOM's C brings: operand, or compare and new (R361). -/
def atomRegs (fn : AtomFn) (m : MemMod) : Nat := (if fn = .cas then 2 else 1) * (2 ^ m.size.code / 4)

def execAtom (x : XOps) (fn : AtomFn) (m : MemMod) (s : State) : Host.Outcome State Fault Refusal :=
  issueAcc (.atom x fn m) x.a x.b (fun c l => c.regs x.c (atomRegs fn m) l) (fun _ => 480) (fun _ => 2080) (fun _ => 0) s

/-- FESET acts at T + ceil(W/24), W the total count (R228); a count above 16,384 traps at the act, so the sum keeps it.
[DEDUCED: notes/assumptions/43.md] -/
def execFeset (x : XOps) (m : MemMod) (s : State) : Host.Outcome State Fault Refusal :=
  issueAcc (.feset x m) x.a x.b (fun c l => [c.src x.c l]) (fun _ => 400) (fun _ => 2000)
    (fun c => ((c.lanes.map fun l => (c.src x.c l).toNat).sum + 23) / 24) s

def execFeget (x : XOps) (m : MemMod) (s : State) : Host.Outcome State Fault Refusal :=
  issueAcc (.feget x m) x.a x.b (fun _ _ => []) (fun _ => 400) (fun _ => 2000) (fun _ => 0) s

def execWaita (x : XOps) (m : MemMod) (s : State) : Host.Outcome State Fault Refusal :=
  issueAcc (.waita x m) x.a x.b (fun c l => [c.src x.c l]) (fun _ => 400) (fun _ => 2000) (fun _ => 0) s

def execWake (x : XOps) (m : MemMod) (s : State) : Host.Outcome State Fault Refusal :=
  issueAcc (.wake x m) x.a x.b (fun c l => [c.src x.c l]) (fun _ => 400) (fun _ => 2000) (fun _ => 0) s

/-! ### A lane's attempt -/

/-- What one attempt of a lane comes to. -/
inductive Att
  /-- It succeeds, with what it read and, for WAITA, its status. -/
  | ok (s : State) (val : List Word) (status : Nat)
  /-- It fails: the word that failed it, what it read, and whether the word is a commons one. -/
  | notYet (word : Nat) (val : List Word) (commons : Bool)
  /-- It fails a check of R476. -/
  | err (cause : Nat) (addr : DWord)
  /-- An owner frame is unusable (R215): the frame, and the address that meets it. -/
  | esc (frame va : Nat)
  /-- It stops its instruction, which records nothing (R246). -/
  | full (addr : DWord)

/-- An unusable owner frame escalates, or raises the permission trap where HYPER refused it (R215). -/
def State.unusable (s : State) (o frame va : Nat) (ad : DWord) : Att := if s.refuses o frame then .err 0x09 ad else .esc frame va

/-- What stands in the way of a bucket (R215, R219). -/
def State.bucketErr (s : State) (o : Nat) (b : Bucket) : Att :=
  match b with
  | .trap cause va => .err cause (BitVec.ofNat 64 va)
  | .esc f va => s.unusable o f va (BitVec.ofNat 64 va)
  | _ => .ok s [] 0

/-- The act-time checks of R476, steps 1 to 3. -/
def lanePage (s : State) (a : Acc) (va : Nat) : Except Att Page :=
  let o := a.strand.owner
  let size := accSize a.instr
  let ad := BitVec.ofNat 64 va
  let within := match a.win with | some w => decide (va + size ≤ w.base + w.limit) | none => false
  let page : Except XErr Page := match a.win with
    | some w => if within then .ok w.page else s.pageOf o va
    | none => s.pageOf o va
  match page with
  | .error .malformed => .error (.err 0x08 ad)
  | .error .notRes => .error (.err 0x0A ad)
  | .error (.escalate f) => .error (s.unusable o f va ad)
  | .ok p =>
    if p.kind = 3 ∨ (accWrites a.instr ∧ ¬ p.w) ∨ (p.sup ∧ ¬ a.sup) ∨ (p.table ∧ (size ≠ 8 ∨ accFe a.instr)) then
      .error (.err 0x09 ad)
    else if p.kind = 2 ∧ accFe a.instr then .error (.err 0x0C ad)
    else .ok p

/-- Step 4 of R476: the place of an address in its page; an entry of the table region behind a malformed one takes the address trap. -/
def lanePlace (s : State) (a : Acc) (p : Page) (va : Nat) : Except Att Place :=
  let ad := BitVec.ofNat 64 va
  match s.placeIn a.strand.owner p va with
  | .ok .malformed => .error (.err 0x08 ad)
  | .ok q => .ok q
  | .error f => .error (s.unusable a.strand.owner f va ad)

/-- The page of an address that passes them. -/
def pagesOf (s : State) (a : Acc) (va : Nat) : Page :=
  match lanePage s a va with
  | .ok p => p
  | .error _ => ⟨0, 0, 0, 0, false, false, false⟩

/-- The act-time checks of R476, steps 1 to 4. -/
def checkLane (s : State) (a : Acc) (va : Nat) : Except Att Place :=
  match lanePage s a va with
  | .error e => .error e
  | .ok p => lanePlace s a p va

/-- Physical addresses of a range of device memory that lies in one frame or in two. -/
def physUnits (s : State) (a : Acc) (x : Nat × Nat) : List (Nat × Nat) :=
  let cut := min x.2 ((x.1 / 65536 + 1) * 65536)
  [(x.1, cut), (cut, x.2)].filterMap fun y =>
    if y.1 < y.2 then
      match checkLane s a y.1 with
      | .ok (.dev pa _) => some (pa, pa + (y.2 - y.1))
      | .ok (.host h) => some (2 ^ 64 + h, 2 ^ 64 + h + (y.2 - y.1))
      | _ => none
    else none

/-- Does a lane of an earlier access act before a lane of an access, physical addresses told (R239, R247)? [DEDUCED: notes/assumptions/23.md] -/
def State.laneBefore (s : State) (a b : Acc) (l m : LaneAcc) : Bool :=
  laneOrdered a b l m ||
  (b.agent m == a.agent l && touchesUnits a.instr && touchesUnits b.instr &&
    (physUnits s a (laneUnits a.instr l)).any fun x => (physUnits s b (laneUnits b.instr m)).any (meets x))

/-- Have the lanes that must act before a lane of an access done so (R247)? -/
def State.laneFree (s : State) (a : Acc) (l : LaneAcc) : Bool :=
  (s.accs.filter (·.precedes a)).all fun b => b.lanes.all fun m => m.acted || !s.laneBefore a b l m

/-- Have they for every lane of an access? -/
def State.accFree (s : State) (a : Acc) : Bool := a.lanes.all (s.laneFree a)

/-- A lane of an access has acted: later lanes that it precedes act from the next owner cycle on, and later writes of its agent have it
among the accesses before their horizon, horizons recorded behind it have it, and the record of a later INTR is stored from the next owner
cycle on (R247, R405). -/
def State.actedAt (s : State) (b : Acc) (m : LaneAcc) (now : Nat) : State :=
  if ordersNothing b.instr then s
  else
    let s := if b.set.isNone then s.modStrand b.strand fun t => { t with acted := now } else s
    let s := s.hzActed b.id m.lane now
    { s with
    intrs := modWhere s.intrs (fun r => b.set.isNone && r.strand == b.strand && decide (b.id < r.id) && !r.put) fun r =>
      if r.due ≤ now then { r with due := now + 1 } else r
    accs := modWhere s.accs (fun a => b.precedes a) fun a => Acc.level { a with lanes := a.lanes.map fun l =>
    let writes : Bool := b.agent m == a.agent l && (accWrites a.instr || actsWhole a.instr)
    let waits : Bool := l.st == LaneSt.todo && (decide (l.due ≤ now) && s.laneBefore a b l m)
    { l with hz := if writes then max l.hz now else l.hz, due := if waits then now + 1 else l.due } } }

/-- Words from bytes at a place: device, host, or an entry whose table is absent, which reads as zero (R206). -/
def readPlace (s : State) (q : Place) (n : Nat) : Nat :=
  match q with
  | .dev pa _ => s.num pa n
  | .host h => (List.range n).foldr (fun i v => (tblGet (0 : Byte) s.hostMem (h + i)).toNat + 256 * v) 0
  | .absentEntry _ => 0
  | .malformed => 0

/-- The offsets of the words an access covers whose state is not `want` (R216). -/
def wrongWords (s : State) (pa size : Nat) (want : Bool) : List Nat :=
  (wordsIn pa size).filter fun i => s.isFull (pa / 4 + i / 4) != want

/-- Horizon of a write by a lane (R247). -/
def State.writeHz (s : State) (a : Acc) (l : LaneAcc) : Option Hz :=
  let o := a.strand.owner
  some ⟨o, ((s.owner? o).map (·.ogen)).getD 0, max l.hz (s.horizon a.strand [a.agent l] a.id).upTo⟩

/-- Write bytes at a place for a lane: a store to an absent entry takes the not-resident fault (R206). -/
def writePlace (s : State) (a : Acc) (l : LaneAcc) (q : Place) (bs : List Byte) (full : Option Bool) : Att :=
  match q with
  | .dev pa cm =>
    match s.storeBlock a.strand.owner l.va pa bs.length full cm with
    | some b => s.bucketErr a.strand.owner b
    | none =>
      let s := { s with poison := s.poison.filter fun w => !(decide (pa / 4 ≤ w ∧ w < (pa + bs.length + 3) / 4)) }
      .ok (s.store a.strand.owner l.va pa bs full cm (s.writeHz a l)) [] 0
  | .host h => .ok { s with hostMem := putCells s.hostMem h bs } [] 0
  | .absentEntry e => .err 0x0A (BitVec.ofNat 64 e)
  | .malformed => .err 0x08 (BitVec.ofNat 64 l.va)

/-- A load's value in its destination registers: zero- or sign-extended (R411). -/
def loadWords (size : Nat) (sx : Bool) (v : Nat) : List Word :=
  if size = 1 then [if sx then (BitVec.ofNat 8 v).signExtend 32 else BitVec.ofNat 32 v]
  else if size = 2 then [if sx then (BitVec.ofNat 16 v).signExtend 32 else BitVec.ofNat 32 v]
  else wordsOf (size / 4) v

/-- The value of words, low first. -/
def wordsNat : List Word → Nat
  | [] => 0
  | w :: l => w.toNat + 2 ^ 32 * wordsNat l

/-- A word of a FESET's run: its virtual and physical address, and whether it is a commons one. -/
structure FeWord where
  va : Nat
  pa : Nat
  cm : Bool

/-- The words of a FESET's run in a page. -/
def feWords (s : State) (a : Acc) (p : Page) (va n : Nat) : Except Att (List FeWord) :=
  (List.range n).foldr (fun i r =>
    match r, lanePlace s a p (va + 4 * i) with
    | .ok l, .ok (.dev pa c) => .ok (⟨va + 4 * i, pa, c⟩ :: l)
    | _, .error e => .error e
    | r, _ => r) (.ok [])

/-- FESET of a lane (R228, R394): every frame of its run is usable, and every bucket that it wakes from, before a bit changes. A change to
full is a write that keeps its horizon (R247). [DESIGN CHOICE: notes/assumptions/70.md] -/
def fesetLane (s : State) (a : Acc) (l : LaneAcc) (full : Bool) : Att :=
  let o := a.strand.owner
  let ad := BitVec.ofNat 64 l.va
  let n := wordsNat l.data
  match lanePage s a l.va with
  | .error e => e
  | .ok p =>
    if n > 16384 ∨ l.va + 4 * n > p.base + p.size then .err 0x08 ad
    else match feWords s a p l.va (max 1 n) with
      | .error e => e
      | .ok ws =>
        let ws := ws.take n
        match ws.findSome? fun w => if w.cm then none else s.wakeBlock o w.va (s.isFull (w.pa / 4)) full false with
        | some b => s.bucketErr o b
        | none =>
          let hz := s.writeHz a l
          .ok (ws.foldl (fun s w =>
            let s := if full then { s with feHz := tblSet none s.feHz (w.pa / 4) hz } else s
            s.setBit o w.va w.pa full false w.cm) s) [] 0

/-- Up to `left` parked WAITA lanes of a word, out of a bucket's records (R226). A lane that is not parked there is taken out of its record
without effect (R220), and is not one of those woken. -/
def wakeSome (o va : Nat) : Nat → Nat → State → List ParkRec → Nat → State × List ParkRec × Nat
  | 0, _, s, rs, n => (s, rs, n)
  | _, 0, s, rs, n => (s, rs, n)
  | fuel + 1, left + 1, s, rs, n =>
    match rs.findIdx? fun r => r.va == va && r.kind == 3 with
    | none => (s, rs, n)
    | some i => match rs[i]? with
      | none => (s, rs, n)
      | some r =>
        let low := (bitsOf 32 r.lanes).headD 0
        if s.isParkedAt o r low then wakeSome o va fuel left (s.wakeLane o r low true) (dropLane rs i false) (n + 1)
        else wakeSome o va fuel (left + 1) s (dropLane rs i false) n

/-- WAKE of a lane (R226, R231): a bucket that cannot be reached stands in its way while a lane is parked on the word. -/
def wakeLaneOf (s : State) (a : Acc) (l : LaneAcc) (cm : Bool) : Att :=
  let o := a.strand.owner
  if cm ∨ wordsNat l.data = 0 then .ok s [0] 0
  else match s.bucketAt o l.va with
    | .at_ b =>
      let (s', rs', n) := wakeSome o l.va 96 (wordsNat l.data) s (s.bucket b) 0
      .ok (if n = 0 then s' else s'.putBucket b rs') [BitVec.ofNat 32 n] 0
    | b => match s.wakeBlock o l.va true true true with
      | some _ => s.bucketErr o b
      | none => .ok s [0] 0

/-- Deterministic adds that a logical core holds of a launch (R246). -/
def State.detsOf (s : State) (i : StrandId) (launch : Nat) : Nat :=
  (s.dets.filter fun d => d.owner == i.owner && d.lcore == i.lcore && d.launch == launch).length

/-- One attempt of a lane of an access (R216, R225 to R229, R361). -/
def attemptLane (s : State) (a : Acc) (l : LaneAcc) : Att :=
  match checkLane s a l.va with
  | .error e => e
  | .ok q =>
    let size := accSize a.instr
    let ad := BitVec.ofNat 64 l.va
    let pa := match q with | .dev pa _ => pa | _ => 0
    let cm := match q with | .dev _ c => c | _ => false
    let isDev := match q with | .dev .. => true | _ => false
    match a.instr with
    | .ld _ m =>
      let v := loadWords size m.sx (readPlace s q size)
      if isDev && anyPoison s pa size then .err 0x16 ad
      else if m.fef == .plain then .ok s v 0
      else match wrongWords s pa size true with
        | i :: _ => .notYet (l.va / 4 * 4 + i) v cm
        | [] =>
          if m.fef == .consuming then
            match (wordsIn pa size).findSome? fun i =>
              if cm then none else s.wakeBlock a.strand.owner (l.va / 4 * 4 + i) true false false with
            | some b => s.bucketErr a.strand.owner b
            | none => .ok ((wordsIn pa size).foldl (fun s i =>
              s.setBit a.strand.owner (l.va / 4 * 4 + i) (pa / 4 * 4 + i) false false cm) s) v 0
          else .ok s v 0
    | .st _ m =>
      let bs := (l.data.flatMap fun w => numBytes 4 w.toNat).take size
      if isDev && size < 4 && anyPoison s pa size then .err 0x16 ad
      else if m.fef == .plain then writePlace s a l q bs (some true)
      else match wrongWords s pa size false with
        | i :: _ => .notYet (l.va / 4 * 4 + i) [] cm
        | [] => writePlace s a l q bs (some true)
    | .atom _ fn m =>
      let old := readPlace s q size
      let k := size / 4
      let arg := wordsNat (l.data.take k)
      if isDev && anyPoison s pa size then .err 0x16 ad
      else if m.det then
        if !isDev then .err 0x09 ad
        else
          let g := s.group? a.grp
          let ix := (s.strand? a.strand).map (·.index) |>.getD 0
          let launch := (g.map (·.launch)).getD 0
          if s.detsOf a.strand launch ≥ 65536 then .full ad
          else .ok { s with dets := s.dets ++ [⟨launch, a.strand.owner, a.strand.lcore,
            (g.map (·.number)).getD 0, ix, if a.set.isNone then 32 + l.lane else l.lane, a.id, l.va, pagesOf s a l.va, pa,
            BitVec.ofNat 32 arg⟩] } [] 0
      else if fn = .cas then
        if old = arg then
          match writePlace s a l q (numBytes size (wordsNat (l.data.drop k))) none with
          | .ok s' _ _ => .ok s' (wordsOf k old) 0
          | e => e
        else .ok s (wordsOf k old) 0
      else match writePlace s a l q (numBytes size (atomNew fn size old arg)) none with
        | .ok s' _ _ => .ok s' (wordsOf k old) 0
        | e => e
    | .feset _ m => fesetLane s a l (m.fef == .filling)
    | .feget .. =>
      let w := pa / 128 * 32
      .ok s [BitVec.ofNat 32 (maskOf ((List.range 32).filter fun i => s.isFull (w + i)))] 0
    | .waita .. =>
      let x := BitVec.ofNat 32 (readPlace s q 4)
      if anyPoison s pa 4 then .err 0x16 ad
      else match l.st with
        | .woken _ _ true => .ok s [x] 1
        | .spurious _ => .ok s [x] 2
        | _ => if x ≠ BitVec.ofNat 32 (wordsNat l.data) then .ok s [x] 0 else .notYet l.va [x] cm
    | .wake .. => wakeLaneOf s a l cm
    | _ => .ok s [] 0

/-! ### A lane that is done -/

/-- Change one lane of an access. -/
def State.setLane (s : State) (id lane : Nat) (f : LaneAcc → LaneAcc) : State :=
  { s with accs := modWhere s.accs (fun a => a.id == id) fun a => { a with
    lanes := modWhere a.lanes (fun l => l.lane == lane) f } }

/-- The words a finished lane writes: WAITA writes its value and status (R225). -/
def laneWords (i : Instr) (l : LaneAcc) : List Word :=
  match i with
  | .waita .. => (l.val.take 1) ++ [BitVec.ofNat 32 l.status]
  | _ => l.val

/-- Write a finished lane's destination. -/
def writeLane (t : Strand) (a : Acc) (l : LaneAcc) : Strand :=
  (dstOuts (accDst a.instr) l.lane (laneWords a.instr l)).foldl (fun t w => t.setReg a.set.isNone w.1 w.2.1 w.2.2) t

/-- A lane is done: WAITA writes its destination in the lane at once (R467). -/
def State.laneDone (s : State) (a : Acc) (l : LaneAcc) : State :=
  let s := s.setLane a.id l.lane fun _ => l
  match a.instr with
  | .waita .. => if a.killed then s else s.modStrand a.strand fun t => writeLane t a l
  | _ => s

/-- A lane has failed a check (R476). -/
def State.laneFails (s : State) (a : Acc) (l : LaneAcc) (cause : Nat) (addr : DWord) (now : Nat) : State :=
  (s.setLane a.id l.lane fun x => { x with st := .failed cause addr }).actedAt a l now

/-! ### Parking a lane (R219 to R221) -/

/-- Put a lane into a record of its bucket: joining the record that lanes of its own instruction made in this act cycle for the same
address, `mates` (R220), at the head of the order for that address after a failed retry (R223), else at the end. None: the bucket
overflows (R221). [DEDUCED: notes/assumptions/42.md] -/
def addPark (rs : List ParkRec) (r : ParkRec) (lane : Nat) (mates : List Nat) (head : Bool) : Option (List ParkRec) :=
  let same (q : ParkRec) : Bool := q.va == r.va && q.kind == r.kind && q.lcore == r.lcore && q.slot == r.slot && q.slices == r.slices &&
    mates.any q.lanes.testBit
  match rs.findIdx? same with
  | some i => some (rs.modify i fun q => { q with lanes := q.lanes ||| 2 ^ lane })
  | none =>
    if rs.length ≥ 3 then none
    else
      let n := { r with lanes := 2 ^ lane }
      if head then
        match rs.findIdx? fun q => q.va == r.va with
        | some i => some (rs.insertIdx i n)
        | none => some (rs ++ [n])
      else some (rs ++ [n])

/-- Park a lane on a word (R219), or leave it to attempt again every 64 owner cycles when there is no park area (R88), the
word is a commons one (R231) or the bucket overflows (R221); a WAITA lane then returns SPURIOUS, but on a commons word. A bucket of a frame
that is unusable escalates, and the lane makes its attempt anew (R215). [DEDUCED: notes/assumptions/43.md] -/
def parkLane (s : State) (a : Acc) (l : LaneAcc) (word now : Nat) (val : List Word) (commons head : Bool) : State :=
  let i := a.strand
  let kind := parkKind a.instr
  let spill : State :=
    if kind = 3 ∧ ¬ commons then
      let l' : LaneAcc := { l with st := .done, val := val, status := 2, due := now }
      (s.laneDone a l').actedAt a l' now
    else s.setLane a.id l.lane fun x => { x with st := .over (now + 64) }
  if commons then spill
  else match s.owner? i.owner, s.strand? i with
    | some w, some t =>
      if w.parkbase = 0 then spill
      else
        match s.bucketAt i.owner word with
        | .none => spill
        | .trap cause va => s.laneFails a l cause (BitVec.ofNat 64 va) now
        | .esc f va =>
          if s.refuses i.owner f then s.laneFails a l 0x09 (BitVec.ofNat 64 va) now
          else s.escalate i.owner f va
        | .at_ b =>
          let r : ParkRec := ⟨kind, word, i.lcore, i.slot, t.slicesOf a.set, 0⟩
          let mates := (a.lanes.filter fun q => q.st == .parked word kind && q.status == now + 1).map (·.lane)
          match addPark (s.bucket b) r l.lane mates head with
          | none => spill
          | some rs =>
            (s.putBucket b rs).setLane a.id l.lane fun x => { x with st := .parked word kind, status := now + 1 }
    | _, _ => spill

/-! ### Attempts -/

/-- Horizons of the writes that filled the words which a waiting or consuming load observes full (R243, R247). -/
def fillHz (s : State) (a : Acc) (l : LaneAcc) : List Hz :=
  match a.instr with
  | .ld _ m =>
    if m.fef == .plain then []
    else match checkLane s a l.va with
      | .ok (.dev pa _) => (wordsIn l.va (accSize a.instr)).filterMap fun i => tblGet none s.feHz (pa / 4 + i / 4)
      | _ => []
  | _ => []

/-- A lane with the horizons that its attempt observed: those of its own owner in the owner's cycles; those of others, which are of other
clocks, as they are. [DEDUCED: notes/assumptions/67.md] -/
def LaneAcc.observes (l : LaneAcc) (s : State) (o : Nat) (hs : List Hz) : LaneAcc :=
  let mine (h : Hz) : Bool := h.owner == o && (s.owner? o).any fun w => w.ogen == h.ogen
  { l with
    hz := ((hs.filter mine).map (·.cyc)).foldl max l.hz
    far := l.far ++ hs.filter fun h => h.owner != o && s.hzAhead h }

/-- The attempts and the park bit that a lane goes by: a WAITA on a commons word attempts until the word differs (R231). -/
def budgetOf (i : Instr) (commons : Bool) : Nat × Bool :=
  match i with
  | .waita .. => if commons then (0, true) else accBudget i
  | _ => accBudget i

/-- One attempt of a lane, and where it leaves the lane: `k` is the number of the attempt, `retry` a woken one, `spill` one of those that go
on until they succeed. No window is bound for these two. [DEDUCED: notes/assumptions/43.md; DESIGN CHOICE: notes/assumptions/66.md] -/
def State.tryLane (s : State) (a : Acc) (l : LaneAcc) (now k : Nat) (retry spill : Bool) : State :=
  match attemptLane s a l with
  | .ok s' val status =>
    let l' := ({ l with st := .done, val := val, status := status, due := now } : LaneAcc).observes s a.strand.owner (fillHz s a l)
    (s'.laneDone a l').actedAt a l' now
  | .err cause addr => s.laneFails a l cause addr now
  | .esc f va => s.escalate a.strand.owner f va
  | .full addr =>
    { s with
      dets := s.dets.filter fun d => d.seq != a.id
      accs := modWhere s.accs (fun b => b.id == a.id) fun b => { b with lanes := b.lanes.map fun x =>
        if x.lane = l.lane then { x with st := .failed 0x09 addr } else if x.acted && x.st != .done then x else { x with st := .absent } } }
  | .notYet word val commons =>
    let (budget, park) := budgetOf a.instr commons
    if a.killed then s.setLane a.id l.lane fun x => { x with st := .done }
    else if spill then s.setLane a.id l.lane fun x => { x with st := .over (now + 64) }
    else if retry then parkLane s a l word now val commons true
    else if k < budget then
      (s.bindFor a.strand.owner a.strand.lcore now (accSize a.instr)).setLane a.id l.lane fun x =>
        { x with st := .retry (now + 64) (k + 1) }
    else if park then parkLane s a l word now val commons false
    else s.laneFails a l 0x0B (BitVec.ofNat 64 l.va) now

def LaneSt.isDone : LaneSt → Bool
  | .done => true
  | _ => false

/-- Write the destinations of an access's finished lanes. -/
def writeLanes (t : Strand) (a : Acc) : Strand := (a.lanes.filter (·.st.isDone)).foldl (fun t l => writeLane t a l) t

/-- A result is written: its window counts on, its registers are free (R40, R42). -/
def Stream.wrote (x : Stream) (id : Nat) : Stream :=
  { x with res := (x.res.map fun r => if r.id = id then { r with written := true } else r).filter fun r =>
    !(r.written && (!r.ext || r.left == 0)) }

/-- A stream after the horizons that a lane of its load observed (R247). -/
def Stream.observed (x : Stream) (a : Acc) (l : LaneAcc) : Stream :=
  let y := x.takeHz [a.agent l] ⟨l.hz, []⟩
  if l.far.isEmpty then y else { y with far := (y.far ++ l.far.map fun h => (a.agent l, h)).eraseDups }

/-- The records of a killed strand's lanes are removed (R224), and its access is gone once it has no attempt left (R39). -/
def State.purge (s : State) (a : Acc) (now : Nat) : State :=
  let t := unpark s a
  { t with accs := (modWhere t.accs (fun b => b.id == a.id) fun b => { b with
      lanes := b.lanes.map fun l => if l.parkedNow then { l with st := .done } else l }).filter fun b =>
        b.id != a.id || b.lanes.any (·.acting now) }

/-- Is an access of a killed strand to be purged: has it parked lanes, or no attempt left? -/
def Acc.purgeable (a : Acc) (now : Nat) : Bool := a.killed && (a.lanes.any (·.parkedNow) || !a.lanes.any (·.acting now))

/-- Settle an access after an act: when every lane is done its destinations are written and its stream goes on; when a lane
failed and no lane has an attempt to make in this owner cycle, the trap of the lowest failing lane is taken, the done lanes keeping what
they did (R214, R217, R476); a killed strand's access leaves once it has no attempt left (R39). -/
def State.settle (s : State) (id now : Nat) : State :=
  match s.accs.find? fun a => a.id == id with
  | none => s
  | some a =>
    let cur : Cur := a.curNow s
    let gone (s : State) : State := { s with accs := s.accs.filter fun b => b.id != id }
    if a.killed then
      if a.lanes.any (·.acting now) then s else s.purge a now
    else if a.lanes.all fun l => l.st.isDone then
      let s := gone (s.modStrand a.strand fun t => writeLanes t a)
      let s := if a.hold then
          (match ctxAt s cur with
           | some c => s.retire c a.instr a.id none [] true none now
           | none => s)
        else s.modStream cur (·.wrote id)
      match a.instr with
      | .ld .. => s.modStream cur fun x => a.lanes.foldl (fun x l => x.observed a l) x
      | _ => s
    else match a.lanes.find? fun l => match l.st with | .failed .. => true | _ => false with
      | some l =>
        let busy := match (s.strand? a.strand).bind (·.stream? cur.set) with
          | some x => x.trap.isSome
          | none => true
        if busy || a.lanes.any (·.acting now) then s
        else
          let m := BitVec.ofNat 32 (maskOf ((a.lanes.filter fun l => !l.st.isDone).map (·.lane)))
          let tr : Trap := match l.st with | .failed c ad => ⟨c, 0, ad, m⟩ | _ => ⟨0, 0, 0, m⟩
          let s := gone ((unpark s a).modStrand a.strand fun t => writeLanes t a)
          let s := match cur.set with
            | some k => s.modStrand a.strand (·.backInBlock k now)
            | none => s
          (s.modStream cur fun x => { x with
            pc := a.pc, wait := none, replay := none, res := x.res.filter fun r => r.id != id }).takeTrap cur tr false
      | none => s

/-! ### The steps of the memory side -/

/-- The clock of an access's logical core. -/
def Acc.now (a : Acc) (s : State) : Nat := s.lcNow a.strand.owner a.strand.lcore

/-- Must an access wait: for Kwayr Link, while it retrains and a lane's place is in host memory (R344), or for the arrival
of a slot that was saved empty (R131)? [DEDUCED: notes/assumptions/47.md] -/
def State.accWaits (s : State) (a : Acc) : Bool :=
  a.slot || (!s.dev.link && a.lanes.any fun l => match checkLane s a l.va with
    | .ok (.host _) => true
    | _ => false)

/-- Is a group's launch deterministic? -/
def State.isDet (s : State) (g : Nat) : Bool := ((s.group? g).map (·.flags.det)).getD false

/-- The strand and the clock of the stream whose access acts, in a DET launch: what a lane of another strand that this act wakes counts on
from (R293). -/
def State.acting (s : State) (a : Acc) : State :=
  { s with actClock :=
    if s.isDet a.grp then
      (s.strand? a.strand).bind fun t => match (a.curNow s).set with
        | none => some (t.id, t.lclk)
        | some k => (t.set? k).map fun g => (t.id, g.clock)
    else none }

/-- Count an instruction that retires at its act. -/
def State.tickAct (s : State) (a : Acc) : State :=
  if s.isDet a.grp && atActInDet a.instr then s.modStrand a.strand (·.tick (a.curNow s).set) else s

/-- Is the stream of an access trapped already, so that a trap of the access waits? A killed strand takes no trap.
[DEDUCED: notes/assumptions/40.md] -/
def State.accBusy (s : State) (a : Acc) : Bool :=
  !a.killed && (match (s.strand? a.strand).bind (·.stream? (a.curNow s).set) with
    | some x => x.trap.isSome
    | none => true)

/-- The lanes of an access that make their first attempt next: one, the lowest whose act cycle has come and that need not wait for others;
all of them where the access acts as a whole (R213, R228, R247). -/
def State.lanesDue (s : State) (a : Acc) (now : Nat) : List LaneAcc :=
  let can (l : LaneAcc) : Bool := l.st == .todo && decide (l.due ≤ now) && s.laneFree a l
  if actsWhole a.instr then (if a.lanes.all can then a.lanes else []) else (a.lanes.find? can).toList

/-- A frame that FESET's run or its wakes meet unusable: its act escalates as a whole, before a bit changes (R215, R228). -/
def State.wholeEsc (s : State) (a : Acc) (ls : List LaneAcc) : Option (Nat × Nat) :=
  if actsWhole a.instr then ls.findSome? fun l => match attemptLane s a l with
    | .esc f va => some (f, va)
    | _ => none
  else none

/-- MEMORY_ACCESS_ACT: the first attempt of the next lane of an access, or of every lane of a FESET, or the trap of an access whose stream
was trapped already. An access of a killed strand makes its first attempts, and is gone with the last (R39). -/
def execMemoryAccessAct (id : Nat) (s : State) : Host.Outcome State Fault Refusal :=
  match s.accs.find? fun a => a.id == id with
  | none => .fault .notEnabled
  | some a =>
    let now := a.now s
    let ls := if a.need = 0 ∧ ¬ s.accWaits a ∧ isMemory a.instr then s.lanesDue a now else []
    if a.purgeable now then .next (s.purge a now)
    else if !ls.isEmpty then
      match s.wholeEsc a ls with
      | some (f, va) => .next (s.escalate a.strand.owner f va)
      | none =>
        let s' := ls.foldl (fun s l => s.tryLane a l now 0 false false) (s.acting a)
        let s' := if s'.accs.any fun b => b.id == id && b.lanes.any fun l => l.st == .todo then s' else s'.tickAct a
        .next { s'.settle id now with actClock := none }
    else if (a.lanes.any fun l => match l.st with | .failed .. => true | _ => false) ∧ ¬ s.accBusy a ∧ ¬ (a.lanes.any (·.acting now)) then
      .next (s.settle id now)
    else .fault .notEnabled

/-- What a kill leaves to do in memory is done in the next step (R39, R224). -/
def State.purgeStep (id : Nat) (s : State) : Host.Outcome State Fault Refusal :=
  match s.accs.find? fun a => a.id == id with
  | some a => if a.purgeable (a.now s) then .next (s.purge a (a.now s)) else .fault .notEnabled
  | none => .fault .notEnabled

/-- One due attempt of one lane. -/
def actLane (id lane : Nat) (due : LaneSt → Option Nat) (k : LaneSt → Nat) (retry spill : Bool) (s : State) :
    Host.Outcome State Fault Refusal :=
  match (s.accs.find? fun a => a.id == id).bind fun a => (a.lanes.find? fun l => l.lane == lane).map (a, ·) with
  | some (a, l) =>
    let now := a.now s
    match due l.st with
    | some d =>
      if d ≤ now then .next { ((s.acting a).tryLane a l now (k l.st) retry spill).settle id now with actClock := none }
      else .fault .notEnabled
    | none => .fault .notEnabled
  | none => .fault .notEnabled

/-- FE_RETRY_ATTEMPT: the next attempt of a lane within its budget (R217), or every 64 owner cycles (R221). -/
def execFeRetryAttempt (id lane : Nat) (s : State) : Host.Outcome State Fault Refusal :=
  match (s.accs.find? fun a => a.id == id).bind fun a => a.lanes.find? fun l => l.lane == lane with
  | some l =>
    match l.st with
    | .over _ => actLane id lane (fun st => match st with | .over d => some d | _ => none) (fun _ => 0) false true s
    | _ => actLane id lane (fun st => match st with | .retry d _ => some d | _ => none)
        (fun st => match st with | .retry _ k => k | _ => 0) false false s
  | none => .fault .notEnabled

/-- WOKEN_RETRY: a woken lane's retry (R223). -/
def execWokenRetry (id lane : Nat) (s : State) : Host.Outcome State Fault Refusal :=
  actLane id lane (fun st => match st with | .woken d _ _ => some d | _ => none) (fun _ => 0) true false s

/-- WAITA_SPURIOUS_RETURN: a WAITA lane that a save had marked reads its word and returns SPURIOUS (R224). [DEDUCED: notes/assumptions/43.md] -/
def execWaitaSpuriousReturn (id lane : Nat) (s : State) : Host.Outcome State Fault Refusal :=
  actLane id lane (fun st => match st with | .spurious d => some d | _ => none) (fun _ => 0) true false s

/-- An access whose single act fails as a whole traps its control stream at its instruction; it waits while the stream is
trapped already. -/
def failAct (a : Acc) (cause : Nat) (addr : DWord) (lanes : List Nat) (s : State) : Host.Outcome State Fault Refusal :=
  let cur : Cur := ⟨a.strand, none⟩
  let gone (s : State) : State := { s with accs := s.accs.filter fun b => b.id != a.id }
  if s.accBusy a then .fault .notEnabled
  else if a.killed then .next (gone s)
  else .next ((gone (s.modStream cur fun q => { q with pc := a.pc, res := q.res.filter fun r => r.id != a.id })).takeTrap cur
    ⟨cause, 0, addr, BitVec.ofNat 32 (maskOf lanes)⟩ false)

/-- An access that has acted writes one value in lanes of its destination and is over. -/
def State.endAct (s : State) (a : Acc) (d : Dst) (lanes : List Nat) (v : Word) : State :=
  let s : State := { s with accs := s.accs.filter fun b => b.id != a.id }
  if a.killed then s
  else s.modStrand a.strand fun t =>
    let t := lanes.foldl (fun t k => (dstOuts d k [v]).foldl (fun t w => t.setReg true w.1 w.2.1 w.2.2) t) t
    { t with ctl := t.ctl.wrote a.id }

/-! ### XLAT, XDROP (R208, R209, R472) -/

/-- XLAT: alignment and bits [63:56] are tested at issue; the rest at its act, 2,000 owner cycles later. -/
def execXlat (x : XOps) (s : State) : Host.Outcome State Fault Refusal :=
  issueWith (.xlat x) 1 (fun c s =>
    let base := c.pair0 x.a
    if base.toNat % 4 ≠ 0 then .trapAll 0x06 0 base
    else if base.toNat ≥ 2 ^ 56 then .trapAll 0x08 0 base
    else
      let u := s.untimed c.cur.strand.owner
      let due := c.now + 2000 + (if u then Config.untimedDelay s.freeN else 0)
      let acc : Acc := ⟨s.nextId, c.cur.strand, none, c.t.grp, c.str.pc, 0, .xlat x,
        [⟨0, base.toNat, [c.lane0 x.b, BitVec.ofNat 32 (maskOf c.lanes)], .todo, [], 0, due, 0, []⟩], none, decide (1 ≤ c.t.priv),
        due, 0, false, false, false, c.now⟩
      .later { s with accs := s.accs ++ [acc], freeN := if u then s.freeN + 1 else s.freeN }) s

/-- XLAT_ACT: the walk, the lowest empty slot, and the handle in every lane. -/
def execXlatAct (id : Nat) (s : State) : Host.Outcome State Fault Refusal :=
  match s.accs.find? fun a => a.id == id with
  | none => .fault .notEnabled
  | some a =>
    match a.instr, a.lanes with
    | .xlat x, [l] =>
      let o := a.strand.owner
      let lanes := bitsOf 4 (wordsNat (l.data.drop 1))
      let fail (cause : Nat) : Host.Outcome State Fault Refusal := failAct a cause (BitVec.ofNat 64 l.va) lanes s
      if ¬ (a.due ≤ s.lcNow o a.strand.lcore) then .fault .notEnabled
      else match s.pageOf o l.va with
        | .error .malformed => fail 0x08
        | .error .notRes => fail 0x0A
        | .error (.escalate f) => if s.refuses o f then fail 0x09 else .next (s.escalate o f l.va)
        | .ok p =>
          match (if p.kind = 1 then s.placeIn o p l.va else .ok (.host 0)) with
          | .error f => if s.refuses o f then fail 0x09 else .next (s.escalate o f l.va)
          | .ok .malformed => fail 0x08
          | .ok _ =>
            match s.group? a.grp with
            | none => .next (s.endAct a x.d lanes 0xFFFFFFFF)
            | some g =>
              match (List.range 16).find? fun k => !(g.win k).used || (g.win k).dropped.isSome with
              | none => .next (s.endAct a x.d lanes 0xFFFFFFFF)
              | some k =>
                let w := g.win k
                let gen := (w.gen + (if w.dropped.isSome then 2 else 1)) % 4096
                let lim := min (wordsNat (l.data.take 1)) (p.base + p.size - l.va)
                .next ((s.modGroup a.grp fun g => { g with windows := tblSet win0 g.windows k ⟨gen, true, none, l.va, lim, p⟩ }).endAct
                  a x.d lanes (BitVec.ofNat 32 (gen * 16 + k)))
    | _, _ => .fault .notEnabled

/-- XDROP: the slot is empty from the next owner cycle on (R209, R473). -/
def execXdrop (x : XOps) (s : State) : Host.Outcome State Fault Refusal :=
  issueWith (.xdrop x) 1 (fun c s =>
    let h := c.lane0 x.a
    match windowOf s c.t.grp c.now h with
    | none => .trapAll 0x07 0 (h.setWidth 64)
    | some w => .plain (s.modGroup c.t.grp fun g => { g with
        windows := tblSet win0 g.windows (field h 3 0) { w with dropped := some c.now } })) s

/-! ### FENCE (R249) -/

/-- The accesses of some agents of a strand that a FENCE waits for: reads only for ORDER 1. XLAT is none (R473). -/
def fencePending (s : State) (i : StrandId) (agents : List Nat) (order : Order) : Bool :=
  s.accs.any fun a => a.strand == i && !a.killed && !ordersNothing a.instr &&
    (a.lanes.any fun l => agents.contains (a.agent l) && !l.acted) &&
    (order != .acq || (match a.instr with
      | .ld .. | .atom .. | .feget .. | .waita .. => true
      | _ => false))

/-- FENCE: it waits at issue, as the scheduler sees to, and has no other effect; a failed guard or an empty gang has none. -/
def execFence (x : XOps) (m : MemMod) (s : State) : Host.Outcome State Fault Refusal :=
  issueWith (.fence x m) 1 (fun _ s => .plain s) s

end Sys2Proof.Machine
end

