-- ==== Sys2Proof/Machine/Spill.lean ====
section
/-!
DEFINITION. The spill area (spec/11 R324; spec/01 R12, R53; spec/05 R192): its places, what the core writes there and what it brings back,
for strands, level-0 tiles and the state latched in weight banks.
-/

namespace Sys2Proof.Machine

/-! ### Places, writes and reads -/

/-- Bytes of a place of the spill area, and places of a logical core: 64 of strands, 32 for those that R12 backs out, then 32 for those swapped
out; 16 for level-0 tile units; half a one for latched state. [DESIGN CHOICE: notes/assumptions/60.md] -/
def spillPlaceBytes : Nat := 131072

/-- Where a logical core's part of the spill area begins: 10,304 KiB for each (R324). -/
def spillBase (w : Owner) (lc : Nat) : Nat := w.orec.spill + lc * 10551296

/-- The core writes the next bytes of an owner's history, at most `n`, at an offset of a logical core's part: in the owner's own fabric
provision, and where the pages serve. No record gives owner 0 a place (R324). [DESIGN CHOICE: notes/assumptions/60.md] -/
def State.spillOut (s : State) (o lc off n : Nat) : State :=
  match s.owner? o with
  | none => s
  | some w =>
    let bs := (Config.spillBytes o w.asks).take n
    let s := s.modOwner o fun w => { w with asks := w.asks + 1 }
    if o = 0 then s else ((s.hwStore o (spillBase w lc + off) bs).getD s).bindFor o lc (s.lcNow o lc) bs.length

/-- The core brings back the bytes numbered `k` of an owner's history, in the owner's own fabric provision: the state, and the bytes that lie
there now, when they were changed. -/
def State.spillRead (s : State) (o lc off n k : Nat) : State × Option (List Byte) :=
  match s.owner? o with
  | none => (s, none)
  | some w =>
    let own := (Config.spillBytes o k).take n
    if o = 0 then (s, none)
    else (s.bindFor o lc (s.lcNow o lc) own.length, (s.hwRead o (spillBase w lc + off) own.length).filter (· != own))

/-! ### Strands (R12, R53) -/

/-- A strand's registers are written to its place, which its number names: of those that R12 backs out, or of those swapped out (R53).
[DESIGN CHOICE: notes/assumptions/60.md] -/
def State.spillStrand (s : State) (i : StrandId) : State :=
  let k := ((s.owner? i.owner).map (·.asks)).getD 0
  (s.modStrand i fun t => { t with spilled := some k }).spillOut i.owner i.lcore (i.slot * spillPlaceBytes) spillPlaceBytes

/-- Registers that changed bytes stand for. [DESIGN CHOICE: notes/assumptions/60.md] -/
def Strand.fromBytes (t : Strand) (bs : List Byte) : Strand :=
  let r := Config.spillRegs bs
  { t with
    cregs := tblSets 0 [] (r.1.filter fun x => decide (x.1 < 4 * t.n))
    vregs := tblSets 0 [] (r.2.filter fun x => decide (x.1 < 32 * t.n)) }

/-- A strand takes its registers from its place, when it has one: as they were, unless the bytes were changed.
[DESIGN CHOICE: notes/assumptions/60.md] -/
def State.spillIn (s : State) (t : Strand) : State :=
  match t.spilled with
  | none => s
  | some k =>
    let (s, bs) := s.spillRead t.id.owner t.id.lcore (t.id.slot * spillPlaceBytes) spillPlaceBytes k
    s.modStrand t.id fun t => (bs.elim t t.fromBytes |> fun t => { t with spilled := none })

/-! ### Level-0 tiles (R12) -/

/-- The level-0 tiles of a logical core. -/
def LCore.nearTiles (l : LCore) : List (Nat × Tile) := l.tiles.filter fun e => e.2.st != .free && e.2.level == 0

/-- A level-0 tile is written to a place for tile units. [DESIGN CHOICE: notes/assumptions/51.md; DESIGN CHOICE: notes/assumptions/60.md] -/
def State.spillTile (s : State) (l : LCore) (tile place : Nat) : State :=
  let k := ((s.owner? l.owner).map (·.asks)).getD 0
  (s.modLcore l.owner l.num fun l => { l with backed := some (tile, place, k) }).spillOut l.owner l.num ((64 + place) * spillPlaceBytes)
    spillPlaceBytes

/-- The tile that a logical core's part holds comes back: as it was, unless the bytes were changed. [DESIGN CHOICE: notes/assumptions/60.md] -/
def State.unspillTile (s : State) (l : LCore) : State :=
  match l.backed with
  | none => s
  | some (tile, place, k) =>
    let (s, bs) := s.spillRead l.owner l.num ((64 + place) * spillPlaceBytes) spillPlaceBytes k
    s.modLcore l.owner l.num fun l => { l with
      backed := none
      tiles := match bs with
        | none => l.tiles
        | some bs => l.tiles.map fun e => if e.1 = tile then (e.1, { e.2 with
            data := tblSets 0 [] ((Config.spillTile bs).filter fun x => decide (x.1 < spillPlaceBytes)) }) else e }

/-! ### Weight banks (R192) -/

/-- Does an owner's bank hold the latched state of another of its logical cores on the core? [DESIGN CHOICE: notes/assumptions/51.md] -/
def State.bankOff (s : State) (l : LCore) : Bool :=
  decide (1 < (s.onCore l.owner l.core).length) && tblGet 0 (s.core l.core).bank l.owner != l.num + 1

/-- A logical core's latched state is written to its part; it takes half a place. [DESIGN CHOICE: notes/assumptions/60.md] -/
def State.spillBank (s : State) (o lc : Nat) : State :=
  let k := ((s.owner? o).map (·.asks)).getD 0
  (s.modLcore o lc fun l => { l with bankOut := some k }).spillOut o lc (80 * spillPlaceBytes) (spillPlaceBytes / 2)

/-- A logical core's latched state comes back: as it was, unless the bytes were changed. [DESIGN CHOICE: notes/assumptions/60.md] -/
def State.unspillBank (s : State) (l : LCore) : State :=
  match l.bankOut with
  | none => s
  | some k =>
    let (s, bs) := s.spillRead l.owner l.num (80 * spillPlaceBytes) (spillPlaceBytes / 2) k
    s.modLcore l.owner l.num fun l => match bs.map Config.spillLatch with
      | none => { l with bankOut := none }
      | some (w, cb) => { l with
          bankOut := none, codebook := cb
          latch := w.map fun x => ⟨x.1, x.2.1, x.2.2.1, x.2.2.2.1, x.2.2.2.2, ((l.latch.map (·.grp)).getD 0)⟩ }

/-- A bank takes a logical core's latched state; the state it held goes to the spill area. [DESIGN CHOICE: notes/assumptions/51.md] -/
def State.moveBank (s : State) (l : LCore) : State :=
  let k := s.core l.core
  let was := tblGet 0 k.bank l.owner
  let s := s.setCore l.core { k with bank := tblSet 0 k.bank l.owner (l.num + 1) }
  (if was = 0 then s else s.spillBank l.owner (was - 1)).unspillBank l

/-- The device cycles for which the state of a logical core's next exchange is not there, by the owner's own history (R12, R192). -/
def State.exchangeTime (s : State) (o : Nat) : Nat := Config.exchange o (((s.owner? o).map (·.asks)).getD 0)

/-- A MAT command starts: its logical core's latched state comes into the bank, and what of that is not finished freezes the owner (R192, R116). -/
def State.bankIn (s : State) (l : LCore) : State :=
  if s.bankOff l then
    let k := s.exchangeTime l.owner
    if k = 0 then s.moveBank l else (s.moveBank l).freeze l.owner (.late (s.dcyc + k))
  else s

end Sys2Proof.Machine
end

