-- ==== Sys2Proof/Machine/Tile.lean ====
section
/-!
DEFINITION. Tiles (spec/05_tiles_and_matrix.md R162 to R176): the tile table, shape words, descriptors, TALLOC, TFREE,
TINFO, LDT, STT, the drain of an entry and the grant of a waiting TALLOC.
-/

namespace Sys2Proof.Machine

/-- The entry of an untouched table (R162). [DEDUCED: notes/assumptions/37.md] -/
def tile0 : Tile := ⟨.free, 0, 0, 0, 0, 0, 0, [], []⟩

def LCore.tile (l : LCore) (h : Nat) : Tile := tblGet tile0 l.tiles h
def LCore.setTile (l : LCore) (h : Nat) (e : Tile) : LCore := { l with tiles := tblSet tile0 l.tiles h e }

/-! ### Shape words (R164, R165) -/

def shapeRows (w : Word) : Nat := field w 11 0
/-- Row bytes: 32 × RLEN. -/
def shapeRB (w : Word) : Nat := 32 * field w 23 12
def shapeTy (w : Word) : Nat := field w 27 24
def shapeAcc (w : Word) : Bool := w.getLsbD 28
def shapeMx (w : Word) : Bool := w.getLsbD 29

/-- Companion bytes per row (R165); 0 for a tile without companion rows. -/
def shapeComp (w : Word) : Nat :=
  match shapeTy w with
  | 14 => shapeRB w / 8
  | 15 => shapeRB w / 4
  | 9 => if shapeMx w then shapeRB w / 16 else 0
  | _ => if shapeMx w then shapeRB w / 32 else 0

/-- Is the shape word permitted (R164)? The multiples of R165 hold of every RB. -/
def shapeOk (w : Word) : Bool :=
  field w 31 30 = 0 && (!shapeMx w || decide (5 ≤ shapeTy w ∧ shapeTy w ≤ 9)) && (!shapeAcc w || shapeTy w = 2) &&
  decide (1 ≤ field w 23 12) && decide (1 ≤ shapeRows w)

/-- Footprint in bytes (R165). -/
def footprint (w : Word) : Nat :=
  (shapeRows w * (shapeRB w + (shapeComp w + 31) / 32 * 32) + 2047) / 2048 * 2048

/-- Footprints of the entries a test picks. -/
def LCore.footprints (l : LCore) (p : Tile → Bool) : Nat :=
  ((l.tiles.filter fun x => x.2.st != .free && p x.2).map fun x => footprint x.2.shape).sum

/-- Capacity of a level for a logical core (R166). [DESIGN CHOICE: notes/assumptions/51.md] -/
def levelCap (r : OwnerRec) (level : Nat) : Nat :=
  match level with
  | 0 => 2 * 2 ^ 20
  | 1 => r.poolq
  | _ => r.dieq

/-! ### Descriptors (R173, R174) -/

def descOf (lo hi : Word) : Desc := ⟨field lo 31 12, field lo 11 0, field hi 31 28, field hi 27 12, field hi 11 0⟩

/-- Tile row of row `j` of chunk `c`. -/
def Desc.rowOf (d : Desc) (c j : Nat) : Nat := d.row + c * d.tpitch + j * d.rpitch

/-- Subcode 1 or 2 of a use of an entry by a group (R169, R172): DRAINING traps from the owner cycle after the TFREE. -/
def tileError (l : LCore) (grp now num : Nat) : Option Nat :=
  let e := l.tile num
  if e.st = .free ∨ e.grp ≠ grp then some 1
  else if e.st = .draining ∧ e.since < now then some 2
  else none

/-! ### Bytes -/

def Tile.byte (e : Tile) (comp : Bool) (off : Nat) : Byte := tblGet 0 (if comp then e.comp else e.data) off

def Tile.put (e : Tile) (comp : Bool) (off : Nat) (v : Byte) : Tile :=
  if comp then { e with comp := tblSet 0 e.comp off v } else { e with data := tblSet 0 e.data off v }

/-- Bytes of a row from a byte offset. -/
def Tile.row (e : Tile) (comp : Bool) (r off n : Nat) : List Byte :=
  let rb := if comp then shapeComp e.shape else shapeRB e.shape
  (List.range n).map fun i => e.byte comp (r * rb + off + i)

/-- Apply the writes of an owner cycle in order (R176). -/
def applyWrites (l : LCore) (ws : List TileWrite) : LCore :=
  ws.foldl (fun l w => l.setTile w.tile ((l.tile w.tile).put w.comp w.off w.val)) l

/-- End of an owner cycle: its tile writes take effect (R176). [DEDUCED: notes/assumptions/37.md] -/
def LCore.commit (l : LCore) : LCore := { applyWrites l l.tbuf with tbuf := [] }

/-- The table as a MAT command reads it at its start: with the array's own writes of this owner cycle (R176). -/
def LCore.arrayView (l : LCore) : LCore := applyWrites l (l.tbuf.filter (·.array))

def bytesLE (n : Nat) (v : Nat) : List Byte := (List.range n).map fun i => BitVec.ofNat 8 (v >>> (8 * i))
def ofBytesLE : List Byte → Nat
  | [] => 0
  | b :: l => b.toNat + 256 * ofBytesLE l

/-- Writes of a run of bytes. -/
def tileWrites (array : Bool) (num : Nat) (comp : Bool) (off : Nat) (bs : List Byte) : List TileWrite :=
  ((List.range bs.length).zip bs).map fun x => ⟨array, num, comp, off + x.1, x.2⟩

/-- One more, or one fewer, use of an entry in flight (R171). -/
def LCore.useTile (l : LCore) (h : Nat) : LCore := l.setTile h { l.tile h with uses := (l.tile h).uses + 1 }
def LCore.dropTile (l : LCore) (h : Nat) : LCore := l.setTile h { l.tile h with uses := (l.tile h).uses - 1 }

/-! ### TALLOC, TFREE, TINFO (R167 to R170) -/

/-- What TALLOC decides now: none while it waits on a DRAINING entry; else its result, with the table after it.
[DEDUCED: notes/assumptions/37.md] -/
def tallocDecide (l : LCore) (r : OwnerRec) (grp quota level : Nat) (shape req : Word) : Option (LCore × Word) :=
  let none' : LCore × Word := (l, 0xFFFFFFFF)
  let fp := footprint shape
  let take (h : Nat) : LCore × Word :=
    let e := l.tile h
    if fp > levelCap r level - l.footprints (fun t => t.level == level) ∨ l.footprints (fun t => t.grp == grp) + fp > quota
    then none'
    else
      let g := (e.gen + 1) % 4096
      let l := { l with tbuf := l.tbuf.filter fun w => w.tile != h }  -- what was written into the old tile in this owner cycle is gone
      (l.setTile h ⟨.allocated, g, grp, level, shape, 0, 0, [], []⟩, BitVec.ofNat 32 (g * 4096 + h))
  if req.getLsbD 12 then
    let h := field req 11 0
    match (l.tile h).st with
    | .draining => none
    | .allocated => some none'
    | .free => some (take h)
  else match (List.range 4096).find? fun h => (l.tile h).st == .free with
    | some h => some (take h)
    | none => some none'

/-- Issue of TALLOC (R168, R451). -/
def execTalloc (x : XOps) (level : TLevel) (s : State) : Host.Outcome State Fault Refusal :=
  issueWith (.talloc x level) 1 (fun c s =>
    let shape := c.lane0 x.a; let req := c.lane0 x.b
    let i := c.cur.strand
    if !shapeOk shape || field req 31 13 ≠ 0 then .trapAll 0x0E 5 0
    else match s.lcore? i.owner i.lcore, s.owner? i.owner, s.group? c.t.grp with
      | some l, some w, some g =>
        match tallocDecide l w.orec g.id g.quota level.code shape req with
        | some (l', v) => .result (s.modLcore i.owner i.lcore fun _ => l') 4 (c.fill x.d [v])
        | none => .wait s [shape.setWidth 64, req.setWidth 64]
      | _, _, _ => .plain s) s

/-- A TALLOC that waits on a DRAINING entry is granted in the owner cycle the entry becomes FREE (R451); of two that wait on one entry, the
first in the order of the strands has it. [DESIGN CHOICE: notes/assumptions/65.md] -/
def execTallocPickGrant (i : StrandId) (s : State) : Host.Outcome State Fault Refusal :=
  let cur : Cur := ⟨i, none⟩
  match waitOf s cur, s.strand? i, s.lcore? i.owner i.lcore, s.owner? i.owner with
  | some ⟨.talloc x level, _, [shape, req], _⟩, some t, some l, some w =>
    match s.group? t.grp with
    | some g =>
      match tallocDecide l w.orec g.id g.quota level.code shape.lo req.lo with
      | some (l', v) => .next ((s.modLcore i.owner i.lcore fun _ => l').complete cur (some 4) fun c => c.fill x.d [v])
      | none => .fault .notEnabled
    | none => .fault .notEnabled
  | _, _, _, _ => .fault .notEnabled

/-- Subcode 1 or 3 of a handle (R169); `own` also lets a DRAINING entry of the group pass (R456). -/
def handleError (l : LCore) (grp : Nat) (own : Bool) (h : Word) : Option Nat :=
  let e := l.tile (field h 11 0)
  if (if own then e.st = .free else e.st ≠ .allocated) ∨ e.grp ≠ grp then some 1
  else if field h 31 24 ≠ 0 ∨ e.gen ≠ field h 23 12 then some 3
  else none

/-- TFREE: the entry becomes DRAINING; it is freed in this owner cycle when nothing uses it (R169, R454). -/
def execTfree (x : XOps) (s : State) : Host.Outcome State Fault Refusal :=
  issueWith (.tfree x) 1 (fun c s =>
    let h := c.lane0 x.a
    let i := c.cur.strand
    match s.lcore? i.owner i.lcore with
    | none => .plain s
    | some l =>
      match handleError l c.t.grp false h with
      | some e => .trapAll 0x0E e (BitVec.ofNat 64 (field h 11 0))
      | none => .plain (s.modLcore i.owner i.lcore fun l =>
          l.setTile (field h 11 0) { l.tile (field h 11 0) with st := .draining, since := c.now })) s

/-- TINFO (R170, R456). -/
def execTinfo (x : XOps) (s : State) : Host.Outcome State Fault Refusal :=
  issueWith (.tinfo x) 1 (fun c s =>
    let h := c.lane0 x.a
    match s.lcore? c.cur.strand.owner c.cur.strand.lcore with
    | none => .result s 4 []
    | some l =>
      match handleError l c.t.grp true h with
      | some e => .trapAll 0x0E e (BitVec.ofNat 64 (field h 11 0))
      | none =>
        let e := l.tile (field h 11 0)
        let st := if e.st = .allocated then 1 else 2
        .result s 4 (c.fill x.d [e.shape, BitVec.ofNat 32 (e.uses % 2 ^ 14 * 16 + st * 4 + e.level)])) s

/-- A DRAINING entry with nothing in flight becomes FREE and its footprint returns (R169); contents of a free entry are
gone. -/
def execTileDrainComplete (o lc h : Nat) (s : State) : Host.Outcome State Fault Refusal :=
  match s.lcore? o lc with
  | some l =>
    let e := l.tile h
    if e.st = .draining ∧ e.uses = 0 then
      .next (s.modLcore o lc fun l => l.setTile h { tile0 with gen := e.gen })
    else .fault .notEnabled
  | none => .fault .notEnabled

/-! ### LDT, STT (R175) -/

/-- The trap of one lane's access to a tile, if any, else its tile row and byte in the row. -/
def tileAccess (l : LCore) (grp now n : Nat) (d : Desc) (o : Nat) : Except (Nat × Nat × DWord) (Nat × Nat) :=
  match tileError l grp now d.num with
  | some e => .error (0x0E, e, BitVec.ofNat 64 d.num)
  | none =>
    let e := l.tile d.num
    let rb := shapeRB e.shape
    if shapeComp e.shape ≠ 0 then .error (0x0D, 0, 0)
    else if o % n ≠ 0 then .error (0x06, 0, BitVec.ofNat 64 o)
    else
      let row := d.row + o / rb * d.rpitch
      if row ≥ shapeRows e.shape then .error (0x0E, 4, BitVec.ofNat 64 d.num)
      else .ok (row, o % rb)

/-- Width in bytes of a SIZE code (R76, R175). -/
def Size.bytes (z : Size) : Nat := 2 ^ z.code

/-- The lanes' accesses in ascending order, or the first lane's trap. -/
def tileLanes (l : LCore) (grp now n : Nat) (d : Desc) (off : Nat → Nat) :
    List Nat → Except (Nat × Nat × DWord) (List (Nat × Nat × Nat))
  | [] => .ok []
  | i :: is =>
    match tileAccess l grp now n d (off i) with
    | .error e => .error e
    | .ok (r, o) => match tileLanes l grp now n d off is with
      | .error e => .error e
      | .ok xs => .ok ((i, r, o) :: xs)

/-- LDT. -/
def execLdt (x : XOps) (z : Size) (s : State) : Host.Outcome State Fault Refusal :=
  issueWith (.ldt x z) 1 (fun c s =>
    match s.lcore? c.cur.strand.owner c.cur.strand.lcore with
    | none => .result s 16 []
    | some l =>
      let n := Size.bytes z
      let d := descOf (c.pair0 x.a).lo (c.pair0 x.a).hi
      match tileLanes l c.t.grp c.now n d (fun i => (c.src x.b i).toNat) c.lanes with
      | .error (cause, sub, addr) => .trapAll cause sub addr
      | .ok xs => .result s 16 (xs.flatMap fun (i, r, o) =>
          dstOuts x.d i (wordsOf (max 1 (n / 4)) (ofBytesLE ((l.tile d.num).row false r o n))))) s

/-- STT: the bytes are written in its owner cycle of issue, after the reads of that cycle (R176). -/
def execStt (x : XOps) (z : Size) (s : State) : Host.Outcome State Fault Refusal :=
  issueWith (.stt x z) 1 (fun c s =>
    match s.lcore? c.cur.strand.owner c.cur.strand.lcore with
    | none => .plain s
    | some l =>
      let n := Size.bytes z
      let d := descOf (c.pair0 x.a).lo (c.pair0 x.a).hi
      match tileLanes l c.t.grp c.now n d (fun i => (c.src x.b i).toNat) c.lanes with
      | .error (cause, sub, addr) => .trapAll cause sub addr
      | .ok xs =>
        let rb := shapeRB (l.tile d.num).shape
        let ws := xs.flatMap fun (i, r, o) =>
          let bs := (c.regs x.c (max 1 (n / 4)) i).flatMap fun w => bytesLE 4 w.toNat
          tileWrites false d.num false (r * rb + o) (bs.take n)
        .plain (s.modLcore c.cur.strand.owner c.cur.strand.lcore fun l => { l with tbuf := l.tbuf ++ ws })) s

end Sys2Proof.Machine
end

