-- ==== Sys2Proof/Machine/Matrix.lean ====
section
/-!
DEFINITION. The matrix array (spec/05 R192 to R202; spec/04 R139 to R144, R155, R156; the entries of MWLD, MSTR, MCON, MCLOSE,
MTILE, MSTAT, CBLD): the checks at issue, array order, and what a command computes at its start and writes at its end.
-/

namespace Sys2Proof.Machine

/-! ### Formats (R193) -/

/-- Elements per column of a latched weight type. -/
def weightK (wty : Nat) : Nat := if wty ≤ 4 then 128 else if wty ≤ 8 then 256 else 512

/-- Bytes of a weight row. -/
def weightRow (wty : Nat) : Nat := if wty = 15 then 128 else 256

/-- Beats of an activation row, when the type may stream against the weights; none against a type that R193 gives no row. -/
def beatsOf (wty aty : Nat) (amx : Bool) : Option Nat :=
  if wty = 3 ∨ wty = 4 then (if aty = wty ∧ ¬ amx then some 1 else none)
  else if 5 ≤ wty ∧ wty ≤ 8 then (if 5 ≤ aty ∧ aty ≤ 8 ∧ ¬ amx then some 1 else none)
  else if ¬ (wty = 9 ∨ wty = 14 ∨ wty = 15) then none
  else if aty = 9 then some 1
  else if aty = 14 then (if amx then none else some 1)
  else if 5 ≤ aty ∧ aty ≤ 8 then some 2
  else none

/-- Bits of an element in a row (R139). -/
def elemBits (ty : Nat) : Nat := if ty = 3 ∨ ty = 4 then 16 else if ty = 9 ∨ ty = 14 then 4 else 8

/-- Elements of a row of bytes. -/
def rowCodes (ty n : Nat) (bs : List Byte) : List Nat :=
  let v := ofBytesLE bs
  (List.range n).map fun k => v >>> (elemBits ty * k) % 2 ^ elemBits ty

/-- The value of an element code: a cb2 weight is 16 × sign + magnitude in quarters (R144). -/
def elemVal (ty code : Nat) : FVal :=
  if ty = 15 then .fin (code / 16 = 1 && code % 16 != 0) (code % 16) (-2)
  else fdec (fmtOf (if ty = 14 then 9 else ty)) code

/-- Elements per scale, 0 when the operand is not block-scaled (R140 to R142). -/
def blockLen (ty : Nat) (mx : Bool) : Nat := if ty = 14 ∨ ty = 15 then 16 else if mx then 32 else 0

/-- The scale of element k. -/
def scaleVal (ty : Nat) (mx : Bool) (scales : List Nat) (k : Nat) : FVal :=
  let b := blockLen ty mx
  if b = 0 then .fin false 1 0
  else if b = 16 then ue5m3 ((scales[k / 16]?).getD 0) else e8m0 ((scales[k / 32]?).getD 0)

/-- The eight weights of a cb2 index (R144). -/
def cb2Codes (cb : List Word) (idx : Nat) : List Nat :=
  let e := ((cb[idx / 256]?).getD 0).toNat
  let sgn (j : Nat) : Bool := idx.testBit (j + 1)
  let s7 := (List.range 7).foldl (fun p j => p != sgn j) (idx.testBit 0)
  (List.range 8).map fun j => e >>> (4 * j) % 16 + (if (if j = 7 then s7 else sgn j) then 16 else 0)

/-! ### Chains (R155, R156, R197) -/

/-- An activation row: element codes and scale codes. -/
structure ActRow where
  codes  : List Nat
  scales : List Nat
  deriving DecidableEq, Repr

/-- The terms of a row against a column, in order: exact products, or block terms that are rounded once (R155). A block term whose sum or scaled sum
has no value, ∞ − ∞ or ∞ × 0, is the canonical NaN (R149, R156). [DEDUCED: notes/assumptions/38.md] -/
def terms (aty : Nat) (amx : Bool) (wty : Nat) (wmx : Bool) (a w : ActRow) : List FVal :=
  let prods := (a.codes.zip w.codes).map fun x => (elemVal aty x.1).mul (elemVal wty x.2)
  let ba := blockLen aty amx
  let bw := blockLen wty wmx
  if ba = 0 ∧ bw = 0 then prods
  else
    let b := if ba = 16 ∨ bw = 16 then 16 else 32
    (List.range (prods.length / b)).map fun t =>
      match (prods.drop (b * t)).take b with
      | [] => .fin false 0 0
      | p :: ps =>
        let sum := ps.foldl (FVal.add .rne) p
        f32 <| rneF32 ((sum.mul (scaleVal aty amx a.scales (b * t))).mul (scaleVal wty wmx w.scales (b * t)))

/-- One term added to a chain, rounded once. -/
def addTerm (e : Word) (t : FVal) : Word := rneF32 (FVal.add .rne (f32 e) t)

/-- Add terms to the two chains: even terms to E, odd ones to O. -/
def chain : Word → Word → List FVal → Word × Word
  | e, o, t0 :: t1 :: ts => chain (addTerm e t0) (addTerm o t1) ts
  | e, o, [t0] => (addTerm e t0, o)
  | e, o, [] => (e, o)

/-- Entry n of an ACC row: E, then O (R164). -/
def accEntry (bs : List Byte) (n : Nat) : Word × Word :=
  (BitVec.ofNat 32 (ofBytesLE ((bs.drop (8 * n)).take 4)), BitVec.ofNat 32 (ofBytesLE ((bs.drop (8 * n + 4)).take 4)))

/-! ### Checks at issue (R196, R417) -/

/-- The weights that later commands will find: the last MWLD still in array order, else what is latched, as
(TY, T, MX). [DEDUCED: notes/assumptions/38.md] -/
def LCore.latchAhead (l : LCore) : Option (Nat × Bool × Bool) :=
  match (l.mats ++ l.held).reverse.findSome? fun m =>
      match m.macro_, m.op with
      | some (r, _), _ => some (r.wty, false, shapeMx (l.tile r.w.num).shape)
      | none, .mwld ty t d _ => some (ty, t, shapeMx (l.tile d.num).shape)
      | _, _ => none with
  | some x => some x
  | none => l.latch.map fun x => (x.ty, x.t, x.mx)

/-- Is a codebook latched, or about to be? -/
def LCore.codebookAhead (l : LCore) : Bool :=
  l.codebook.isSome || l.mats.any fun m => match m.op with | .cbld _ => true | _ => false

/-- Failing array-format subcode of an activation type against weights (R193). [DEDUCED: notes/assumptions/38.md] -/
def actFormat (latch : Option (Nat × Bool × Bool)) (aty : Nat) (amx : Bool) : Option Nat :=
  match latch with
  | none => some 1
  | some (wty, _, _) => if (beatsOf wty aty amx).isSome then none else some 2

def accBad (w : Word) : Bool := !shapeAcc w || shapeRB w < 1024

/-- Is the last row used of a descriptor at or beyond ROWS (R174)? -/
def rowBad (l : LCore) (d : Desc) (c last : Nat) : Bool := decide (shapeRows (l.tile d.num).shape ≤ d.rowOf c last)

/-- The first of a list that fails. -/
def firstSome {α : Type} : List (Option α) → Option α
  | [] => none
  | some a :: _ => some a
  | none :: l => firstSome l

/-- The trap of a command at issue, after the permission check and those of its own fields (R417 steps 4 to 6).
[DEDUCED: notes/assumptions/38.md] -/
def matCheck (l : LCore) (grp now : Nat) (latch : Option (Nat × Bool × Bool)) (op : MatOp) : Option (Nat × Nat × DWord) :=
  let use (d : Desc) : Option (Nat × Nat × DWord) :=
    (tileError l grp now d.num).map fun e => (0x0E, e, BitVec.ofNat 64 d.num)
  let fmt (o : Option Nat) : Option (Nat × Nat × DWord) := o.map fun e => (0x0F, e, 0)
  let iff (b : Bool) (n : Nat) : Option Nat := if b then some n else none
  let rows (d : Desc) (c last : Nat) : Option (Nat × Nat × DWord) :=
    if rowBad l d c last then some (0x0E, 4, BitVec.ofNat 64 d.num) else none
  let sh (d : Desc) : Word := (l.tile d.num).shape
  match op with
  | .mwld ty t d c =>
    firstSome [use d, fmt (iff (ty = 15 && !l.codebookAhead) 1),
      fmt (iff (shapeTy (sh d) != ty || shapeAcc (sh d) || (shapeMx (sh d) && ty != 9) || (t && ty != 3 && ty != 4)) 3),
      fmt (iff (decide (shapeRB (sh d) < weightRow ty)) 4), rows d c 127,
      if shapeRows (sh d) < d.row + 128 then some (0x0E, 4, BitVec.ofNat 64 d.num) else none]
  | .mstr aty _ a c from_ acc m none =>
    let k := match latch with | some (w, _, _) => weightK w | none => 0
    firstSome [use a, use acc, fmt (actFormat latch aty (shapeMx (sh a))),
      fmt (iff (shapeTy (sh a) != aty || shapeAcc (sh a) || accBad (sh acc)) 3),
      fmt (iff (decide (shapeRB (sh a) < k * elemBits aty / 8)) 4), rows a c (from_ + m - 1), rows acc 0 (from_ + m - 1)]
  | .mstr aty _ _ _ _ acc m (some _) =>
    let two := match latch with | some (w, _, _) => beatsOf w aty false == some 2 | none => false
    firstSome [use acc, fmt (actFormat latch aty false), fmt (iff (two || aty == 14) 2), fmt (iff (accBad (sh acc)) 3),
      rows acc 0 (m - 1)]
  | .mcon aty _ kind _ perm acc m =>
    let k := match latch with | some (w, _, _) => weightK w | none => 0
    firstSome [use acc, fmt (actFormat latch aty false), fmt (iff (accBad (sh acc)) 3),
      fmt (iff ((kind == .id && decide (k < m)) || (kind == .perm && perm.any fun p => decide (k ≤ p))) 4), rows acc 0 (m - 1)]
  | .mclose acc out m =>
    firstSome [use acc, use out,
      fmt (iff (accBad (sh acc) || shapeAcc (sh out) || shapeTy (sh out) != 2 || decide (shapeRB (sh out) < 512)) 3),
      rows acc 0 (m - 1), rows out 0 (m - 1)]
  | .cbld d =>
    firstSome [use d, fmt (iff (1 < shapeTy (sh d) || decide (shapeRB (sh d) < 256)) 3), rows d 0 3,
      if shapeRows (sh d) < d.row + 4 then some (0x0E, 4, BitVec.ofNat 64 d.num) else none]

/-- Tiles a command uses, each once: a use of a tile is one command (R171). -/
def opTiles : MatOp → List Nat
  | .mwld _ _ d _ => [d.num]
  | .mstr _ _ a _ _ acc _ none => [a.num, acc.num].eraseDups
  | .mstr _ _ _ _ _ acc _ (some _) => [acc.num]
  | .mcon _ _ _ _ _ acc _ => [acc.num]
  | .mclose acc out _ => [acc.num, out.num].eraseDups
  | .cbld d => [d.num]

def LCore.useAll (l : LCore) (ts : List Nat) : LCore := ts.foldl LCore.useTile l
def LCore.dropAll (l : LCore) (ts : List Nat) : LCore := ts.foldl LCore.dropTile l

/-- Segments of an MTILE's MSTR steps per pass (R202). -/
def Macro.segs (r : Macro) : Nat := (r.m + 63) / 64
/-- Number of steps of an MTILE. -/
def Macro.steps (r : Macro) : Nat := r.nk * (1 + r.segs)
/-- Step k of an MTILE. -/
def Macro.step (r : Macro) (k : Nat) : MatOp :=
  let c := k / (1 + r.segs)
  let j := k % (1 + r.segs)
  if j = 0 then .mwld r.wty false r.w c
  else .mstr r.aty (r.start && c = 0) r.a c (64 * (j - 1)) r.acc (min 64 (r.m - 64 * (j - 1))) none

def macroTiles (r : Macro) : List Nat := [r.w.num, r.a.num, r.acc.num].eraseDups

/-- Every step of an MTILE is checked at issue: the weights of its own steps are what its MSTRs find (R202). [DEDUCED: notes/assumptions/38.md] -/
def macroCheck (l : LCore) (grp now : Nat) (r : Macro) : Option (Nat × Nat × DWord) :=
  firstSome ((List.range r.steps).map fun k =>
    matCheck l grp now (some (r.wty, false, shapeMx (l.tile r.w.num).shape)) (r.step k))

/-! ### The commands at issue -/

/-- Enter a command into array order. -/
def State.enterMat (s : State) (c : Ctx) (op : MatOp) (mac : Option Macro) (batch : Option Nat) : State :=
  let i := c.cur.strand
  let cmd : MatCmd := ⟨s.nextId, i, c.t.grp, op, mac.map (·, 0), c.now, batch, none, none, 0⟩
  (s.modLcore i.owner i.lcore fun l =>
    { l.useAll (match mac with | some r => macroTiles r | none => opTiles op) with mats := l.mats ++ [cmd] }).fresh

/-- The shared issue of a MAT command: permission, then its own fields, then the checks of R417, then array order. -/
def issueMat (i : Instr) (own : Ctx → Option (Nat × Nat × DWord)) (op : Ctx → MatOp) (joins : Bool) (s : State) :
    Host.Outcome State Fault Refusal :=
  issueWith i 1 (fun c s =>
    let st := c.cur.strand
    match s.lcore? st.owner st.lcore with
    | none => .plain s
    | some l =>
      if !s.hasArr st.owner st.lcore then .trapAll 0x09 0 0
      else match own c with
        | some (a, b, d) => .trapAll a b d
        | none =>
          match matCheck l c.t.grp c.now l.latchAhead (op c) with
          | some (a, b, d) => .trapAll a b d
          | none => .plain (s.enterMat c (op c) none (if joins then some c.t.batch.toNat else none))) s

/-- M, from lane 0 of C. -/
def badM (c : Ctx) (m : Src) : Option (Nat × Nat × DWord) :=
  if c.n0 m = 0 ∨ c.n0 m > 4095 then some (0x01, 0x0E, 0) else none

/-- A descriptor from lane 0 of a pair. -/
def Ctx.desc (c : Ctx) (x : Src) : Desc := descOf (c.pair0 x).lo (c.pair0 x).hi

/-- MWLD (R196, R422). [DEDUCED: notes/assumptions/38.md] -/
def execMwld (x : XOps) (ty : Ty) (t : Bool) (s : State) : Host.Outcome State Fault Refusal :=
  issueMat (.mwld x ty t) (fun _ => none) (fun c => .mwld ty.code t (c.desc x.a) 0) true s

def regNum : Src → Nat
  | .reg n => n.val
  | _ => 0

/-- Register rows of MSTR.reg: 256 bytes from two registers of the 32 strand lanes (R197). -/
def regRow (t : Strand) (r : Nat) : List Byte :=
  let half (q : Nat) : List Byte := (List.range 32).flatMap fun l =>
    bytesLE 4 (if l < 4 * t.slices then (t.reg false q l).toNat else 0)
  half r ++ half (r + 1)

/-- MSTR (R197, R420): with .reg the rows are read at issue, which waits until the vector side is idle. [DEDUCED: notes/assumptions/38.md] -/
def execMstr (x : XOps) (ty : Ty) (start reg : Bool) (s : State) : Host.Outcome State Fault Refusal :=
  issueMat (.mstr x ty start reg)
    (fun c => match badM c x.c with
      | some e => some e
      | none =>
        let top := regNum x.a + 2 * c.n0 x.c
        if reg && decide (c.t.n < top) then some (0x02, 0, BitVec.ofNat 64 (max c.t.n (regNum x.a))) else none)
    (fun c =>
      let m := c.n0 x.c
      if reg then .mstr ty.code start (descOf 0 0) 0 0 (c.desc x.b) m
        (some ((List.range m).map fun i => regRow c.t (regNum x.a + 2 * i)))
      else .mstr ty.code start (c.desc x.a) 0 0 (c.desc x.b) m none) true s

/-- MCON (R198, R417): with PERM the indices come from control registers, four a register. -/
def execMcon (x : XOps) (ty : Ty) (start : Bool) (kind : ConKind) (seglen : BitVec 8) (s : State) :
    Host.Outcome State Fault Refusal :=
  issueMat (.mcon x ty start kind seglen)
    (fun c => match badM c x.c with
      | some e => some e
      | none =>
        if kind == .perm && decide (c.t.n < regNum x.a + (c.n0 x.c + 3) / 4) then
          some (0x02, 0, BitVec.ofNat 64 (max c.t.n (regNum x.a)))
        else none)
    (fun c =>
      let m := c.n0 x.c
      let perm := if kind = .perm then (List.range m).map fun i => (c.reg (regNum x.a + i / 4) (i % 4)).toNat else []
      .mcon ty.code start kind seglen.toNat perm (c.desc x.b) m) true s

/-- MCLOSE (R199, R417). -/
def execMclose (x : XOps) (s : State) : Host.Outcome State Fault Refusal :=
  issueMat (.mclose x) (fun c => badM c x.c) (fun c => .mclose (c.desc x.a) (c.desc x.b) (c.n0 x.c)) true s

/-- CBLD joins no batch (R189, R376). -/
def execCbld (x : XOps) (s : State) : Host.Outcome State Fault Refusal :=
  issueMat (.cbld x) (fun _ => none) (fun c => .cbld (c.desc x.a)) false s

/-- The macro record of MTILE (R202); none when a reserved bit is set or M or NK is zero. -/
def macroOf (c : Ctx) (a : Nat) : Option Macro :=
  let r (k : Nat) : Word := c.reg (a + k) 0
  if field (r 6) 31 21 ≠ 0 ∨ field (r 7) 31 12 ≠ 0 ∨ field (r 6) 11 0 = 0 ∨ field (r 7) 11 0 = 0 then none
  else some ⟨descOf (r 0) (r 1), descOf (r 2) (r 3), descOf (r 4) (r 5), (r 6).getLsbD 20, field (r 6) 19 16,
    field (r 6) 15 12, field (r 6) 11 0, field (r 7) 11 0⟩

/-- MTILE (R202, R420). -/
def execMtile (x : XOps) (s : State) : Host.Outcome State Fault Refusal :=
  issueWith (.mtile x) 1 (fun c s =>
    let st := c.cur.strand
    match s.lcore? st.owner st.lcore with
    | none => .plain s
    | some l =>
      if !s.hasArr st.owner st.lcore then .trapAll 0x09 0 0
      else match macroOf c (regNum x.a) with
        | none => .trapAll 0x01 0x0E 0
        | some r =>
          match macroCheck l c.t.grp c.now r with
          | some (a, b, d) => .trapAll a b d
          | none => .plain (s.enterMat c (r.step 0) (some r) (some c.t.batch.toNat))) s

/-- MSTAT (R201): zero for an owner without an ARR position. -/
def execMstat (x : XOps) (s : State) : Host.Outcome State Fault Refusal :=
  issueWith (.mstat x) 1 (fun c s =>
    let st := c.cur.strand
    match s.lcore? st.owner st.lcore with
    | none => .result s 4 []
    | some l =>
      let b (v : Bool) (k : Nat) : Nat := if v then 2 ^ k else 0
      -- the first MTILE in array order with a step not yet started, and that step's index
      let mac := l.mats.findSome? fun m => match m.macro_ with
        | some (r, k) => if m.out.isNone then some k else if k + 1 < r.steps then some (k + 1) else none
        | none => none
      let lo := match l.latch with
        | some w => w.ty * 256 + b true 7 + b w.mx 6 + b w.t 5
        | none => 0
      let v := if s.hasArr st.owner st.lcore
        then (lo + b l.codebook.isSome 4 + b (!l.mats.isEmpty) 3 + b mac.isSome 2, mac.getD 0) else (0, 0)
      .result s 4 (c.fill x.d [BitVec.ofNat 32 v.1, BitVec.ofNat 32 v.2])) s

/-! ### The start and the end of a command (R195) -/

/-- Lead and occupancy of a command against the latched weights. -/
def matLead : MatOp → Nat
  | .mwld .. | .cbld _ => 0
  | .mstr .. | .mcon .. => 160
  | .mclose .. => 8

def matOcc (wty : Nat) : MatOp → Nat
  | .mwld .. => 64
  | .cbld _ => 32
  | .mstr aty _ _ _ _ _ m _ | .mcon aty _ _ _ _ _ m => m * (if 5 ≤ aty ∧ aty ≤ 8 ∧ 9 ≤ wty then 2 else 1)
  | .mclose _ _ m => (m + 7) / 8

/-- The weights an MWLD latches (R193, R196). -/
def readWeights (l : LCore) (grp ty : Nat) (t : Bool) (d : Desc) (c : Nat) : Latch :=
  let e := l.tile d.num
  let mx := shapeMx e.shape
  let k := weightK ty
  let row (n : Nat) : List Byte := e.row false (d.rowOf c n) 0 (weightRow ty)
  let comp (n : Nat) : List Nat :=
    (e.row true (d.rowOf c n) 0 (if ty = 9 then (if mx then 16 else 0) else if ty ≥ 14 then 32 else 0)).map (·.toNat)
  let cols : List (List Nat) :=
    if t then
      let rows := (List.range 128).map fun i => rowCodes ty 128 (row i)
      (List.range 128).map fun n => rows.map fun r => (r[n]?).getD 0
    else (List.range 128).map fun n =>
      if ty = 15 then ((List.range 64).flatMap fun i => cb2Codes (l.codebook.getD []) (ofBytesLE (((row n).drop (2 * i)).take 2)))
      else rowCodes ty k (row n)
  ⟨ty, t, mx, cols, (List.range 128).map comp, grp⟩

/-- The code of the value 1 (R198). -/
def oneCode (ty : Nat) : Nat :=
  match ty with
  | 9 | 14 => 0x2 | 5 => 0x38 | 6 => 0x3C | 7 => 0x0C | 8 => 0x08 | 3 => 0x3C00 | _ => 0x3F80

/-- Row i of MCON. -/
def conRow (ty k : Nat) (kind : ConKind) (seglen : Nat) (perm : List Nat) (i : Nat) : ActRow :=
  let one (j : Nat) : Bool := match kind with
    | .id => j == i
    | .perm => (perm[i]?).getD 0 == j
    | .ones => true
    | .seg => decide (i * seglen ≤ j ∧ j < (i + 1) * seglen)
  ⟨(List.range k).map fun j => if one j then oneCode ty else 0, List.replicate 32 0x78⟩

/-- New chains of rows against the latched weights, as writes to the ACC tile. Where RPITCH 0 names one ACC row for several, each starts from it as
it is read at S, and the last one's chains stand (R174, R197). [DESIGN CHOICE: notes/assumptions/65.md] -/
def streamRows (l : LCore) (w : Latch) (aty : Nat) (amx start : Bool) (acc : Desc) (from_ : Nat) (rows : List ActRow) :
    List TileWrite :=
  let e := l.tile acc.num
  let cols := w.w.zip w.scales
  ((List.range rows.length).zip rows).flatMap fun x =>
    let r := acc.rowOf 0 (from_ + x.1)
    let old := e.row false r 0 1024
    let bs := ((List.range cols.length).zip cols).flatMap fun y =>
      let (e0, o0) := if start then (0, 0) else accEntry old y.1
      let (e1, o1) := chain e0 o0 (terms aty amx w.ty w.mx x.2 ⟨y.2.1, y.2.2⟩)
      bytesLE 4 e1.toNat ++ bytesLE 4 o1.toNat
    tileWrites true acc.num false (r * shapeRB e.shape) bs

/-- What a command computes at its start, from the tiles and latched state as array order has left them.
[DESIGN CHOICE: notes/assumptions/65.md] -/
def matCompute (l : LCore) (grp : Nat) (op : MatOp) : MatOut :=
  let v := l.arrayView
  match op with
  | .mwld ty t d c => .latch (readWeights v grp ty t d c)
  | .cbld d =>
    let e := v.tile d.num
    .codebook ((List.range 256).map fun i => BitVec.ofNat 32 (ofBytesLE (e.row false (d.rowOf 0 (i / 64)) (i % 64 * 4) 4)))
  | .mstr aty start a c from_ acc m rows =>
    match l.latch with
    | none => .writes []
    | some w =>
      let e := v.tile a.num
      let amx := rows.isNone && shapeMx e.shape
      let k := weightK w.ty
      let acts : List ActRow := match rows with
        | some rs => rs.map fun bs => ⟨rowCodes aty k bs, []⟩
        | none => (List.range m).map fun i =>
            let r := a.rowOf c (from_ + i)
            ⟨rowCodes aty k (e.row false r 0 (k * elemBits aty / 8)), (e.row true r 0 (min 32 (shapeComp e.shape))).map (·.toNat)⟩
      .writes (streamRows v w aty amx start acc from_ acts)
  | .mcon aty start kind seglen perm acc m =>
    match l.latch with
    | none => .writes []
    | some w => .writes (streamRows v w aty false start acc 0
        ((List.range m).map (conRow aty (weightK w.ty) kind seglen perm)))
  | .mclose acc out m =>
    let e := v.tile acc.num
    let f := v.tile out.num
    .writes ((List.range m).flatMap fun i =>
      let old := e.row false (acc.rowOf 0 i) 0 1024
      tileWrites true out.num false (out.rowOf 0 i * shapeRB f.shape)
        ((List.range 128).flatMap fun n => bytesLE 4 (f32Add .rne (accEntry old n).1 (accEntry old n).2).toNat))

/-! ### Tags (R187) -/

def tag0 : Tag := ⟨false, 0, 0, 0⟩

/-- A copy, or its follow-on, ends on a tag. -/
def LCore.tagEnd (l : LCore) (tag code : Nat) (second : Word) (crc : Bool) : LCore :=
  let t := tblGet tag0 l.tags tag
  let n := t.count - 1
  let t := if code ≠ 0 ∧ t.code = 0 then { t with code := code, second := second }
    else if crc ∧ t.code = 0 then { t with second := second } else t
  { l with tags := tblSet tag0 l.tags tag { t with count := n, bit := t.bit || n == 0 } }

/-- The logical core whose array holds a command. -/
def State.matOwner? (s : State) (id : Nat) : Option LCore := s.lcores.find? fun l => l.mats.any fun m => m.id == id

/-- A held follow-on enters array order when a place frees (R418). -/
def LCore.admitHeld (l : LCore) (now : Nat) : LCore :=
  match l.held with
  | m :: ms => if l.mats.length < 64 then { l with mats := l.mats ++ [{ m with entered := now }], held := ms } else l
  | [] => l

/-- A command leaves array order: its tiles are free, a held follow-on may enter. -/
def LCore.leaveMat (l : LCore) (m : MatCmd) (now : Nat) : LCore :=
  let l := l.dropAll (match m.macro_ with | some (r, _) => macroTiles r | none => opTiles m.op)
  { l with mats := l.mats.filter fun x => x.id != m.id, matEnd := now }.admitHeld now

/-- S of the first command of array order: its own lead, or the END of the one before (R195). -/
def LCore.matStart (l : LCore) (m : MatCmd) : Nat := max (m.entered + matLead m.op) l.matEnd

/-- Is the first command of array order to start by an owner cycle? -/
def LCore.matDue (l : LCore) (now : Nat) : Bool := l.mats.head?.any fun m => m.out.isNone && decide (l.matStart m ≤ now)

/-- MAT_COMMAND_START: the first command of array order reads its operands at S (R195); a follow-on that the weights do not
permit ends at once with FOLLOW_REJECTED (R183). A command that starts has its logical core's latched state in the bank (R192). -/
def execMatCommandStart (id : Nat) (s : State) : Host.Outcome State Fault Refusal :=
  match s.matOwner? id with
  | none => .fault .notEnabled
  | some l =>
    match l.mats with
    | [] => .fault .notEnabled
    | m :: _ =>
      let now := s.lcNow l.owner l.num
      if m.id ≠ id ∨ m.out.isSome ∨ now < l.matStart m then .fault .notEnabled
      else
        let s := s.bankIn l
        let l := (s.lcore? l.owner l.num).getD l
        let rejected : Bool := match m.tag, m.op with
          | some _, .mstr aty _ a _ _ _ _ _ =>
            (actFormat (l.latch.map fun w => (w.ty, w.t, w.mx)) aty (shapeMx (l.tile a.num).shape)).isSome
          | _, _ => false
        match (if rejected then m.tag else none) with
        | some f => .next (s.modLcore l.owner l.num fun l =>
            (l.leaveMat m now).tagEnd f.tag 6 (BitVec.ofNat 32 f.moved) false)
        | none =>
          let wty := (l.latch.map (·.ty)).getD 0
          let m' := { m with out := some (matCompute l m.grp m.op), ends := now + matOcc wty m.op }
          .next (s.modLcore l.owner l.num fun l => { l with mats := modWhere l.mats (fun x => x.id == id) fun _ => m' })

/-- MAT_COMMAND_END: effects are written at END (R195); an MTILE goes on with its next step, a follow-on ends its copy's
tag (R183). -/
def execMatCommandEnd (id : Nat) (s : State) : Host.Outcome State Fault Refusal :=
  match s.matOwner? id with
  | none => .fault .notEnabled
  | some l =>
    match l.mats.find? fun m => m.id == id with
    | none => .fault .notEnabled
    | some m =>
      let now := s.lcNow l.owner l.num
      match m.out with
      | none => .fault .notEnabled
      | some out =>
        if now < m.ends then .fault .notEnabled
        else
          let put (l : LCore) : LCore := match out with
            | .writes ws => { l with tbuf := l.tbuf ++ ws }
            | .latch w => { l with latch := some w }
            | .codebook cb => { l with codebook := some cb }
          let next (l : LCore) : LCore := match m.macro_ with
            | some (r, k) =>
              if k + 1 < r.steps then
                { l with mats := modWhere l.mats (fun x => x.id == id) fun x => { x with
                           op := r.step (k + 1), macro_ := some (r, k + 1), out := none, ends := 0 }, matEnd := m.ends }
              else l.leaveMat m now
            | none => l.leaveMat m now
          let tag (l : LCore) : LCore := match m.tag with
            | some f => l.tagEnd f.tag 0 (f.crc.getD 0) f.crc.isSome
            | none => l
          .next (s.modLcore l.owner l.num fun l => tag (next (put l)))

end Sys2Proof.Machine
end

