-- ==== Sys2Proof/Machine/Copy.lean ====
section
/-!
DEFINITION. Copies (spec/05 R177 to R187; R230, R306, R345 to R348; the entry of CPY): the copy record and its checks, the
landing of a unit, pages, the transfers of a remote side, and the end of a copy.
-/

namespace Sys2Proof.Machine

/-! ### CRC-32C (R185) -/

/-- One byte through the reflected CRC-32C, bit by bit (R185). [PRESUMED: notes/assumptions/59.md] -/
def crcBits : Nat → Word → Word
  | 0, c => c
  | n + 1, c => crcBits n (if c.getLsbD 0 then (c >>> 1) ^^^ 0x82F63B78 else c >>> 1)

/-- The running CRC after more bytes, before the final exclusive-or. [PRESUMED: notes/assumptions/59.md] -/
def crcStep (c : Word) (bs : List Byte) : Word := bs.foldl (fun c b => crcBits 8 (c ^^^ b.setWidth 32)) c

/-! ### Units (R180, R235) -/

/-- A unit of a copy: element bytes of a row, companion bytes of that row, and the place of its last byte in copy order. With `fetch` it is a
word of a tile row that lands ahead of the block it belongs to (R180, R235): it is read, and kept for that block. -/
structure CopyUnit where
  row  : Nat
  off  : Nat
  len  : Nat
  coff : Nat
  clen : Nat
  last : Nat
  fetch : Bool
  deriving DecidableEq, Repr

/-- Words of a tile row that are read ahead of their blocks: those of a copy out of a scaled tile. -/
def Copy.fetches (c : Copy) : Nat := match c.src with
  | .tile _ => if c.block ≠ 0 then c.rowBytes / 4 else 0
  | .mem .. => 0

/-- Units of a row: blocks with their scale bytes, after the words read ahead of them, or words of the elements and then of the companion
row. -/
def Copy.perRow (c : Copy) : Nat := if c.block ≠ 0 then c.fetches + c.rowBytes / c.block else c.rowBytes / 4 + (c.comp + 3) / 4

/-- [DEDUCED: notes/assumptions/35.md] -/
def Copy.unitAt (c : Copy) (u : Nat) : CopyUnit :=
  let r := u / c.perRow
  let j := u % c.perRow
  let base := r * (c.rowBytes + c.comp)
  if j < c.fetches then ⟨r, 4 * j, 4, 0, 0, base + 4 * j + 3, true⟩
  else if c.block ≠ 0 then
    let k := j - c.fetches
    ⟨r, k * c.block, c.block, k, 1, base + c.rowBytes + k, false⟩
  else if j < c.rowBytes / 4 then ⟨r, 4 * j, 4, 0, 0, base + 4 * j + 3, false⟩
  else
    let k := 4 * (j - c.rowBytes / 4)
    let n := min 4 (c.comp - k)
    ⟨r, 0, 0, k, n, base + c.rowBytes + k + n - 1, false⟩

def Copy.units (c : Copy) : Nat := c.rows * c.perRow
def Copy.rate (c : Copy) : Nat := if c.second then 512 else 96

/-- The landing cycle of the next unit (R180, R181). -/
def LCore.landing (l : LCore) (c : Copy) : Option Nat :=
  (l.copyBase c).map fun (b, x0) => b + ((c.unitAt c.unit).last + 1 - x0 + c.rate - 1) / c.rate

/-! ### Places of a unit's bytes -/

/-- Why a unit does not land. -/
inductive CopyStop
  | wait (va : Nat)     -- a page is not resident
  | stop (code : Nat)   -- the copy stops with a status
  | esc (frame va : Nat)
  | late                -- a transfer has no reply yet, or Kwayr Link retrains (R344)
  deriving DecidableEq, Repr

def Place.isHost : Place → Bool
  | .host _ => true
  | _ => false

/-- The place of an address of a copy, its page checked (R181, R184, R212). [DEDUCED: notes/assumptions/35.md] -/
def copyPlace (s : State) (c : Copy) (page : Page) (va : Nat) (write sink : Bool) : Except CopyStop Place :=
  let o := c.strand.owner
  let p : Except XErr Page := if page.base ≤ va ∧ va < page.base + page.size then .ok page else s.pageOf o va
  match p with
  | .error .malformed => .error (.stop 5)
  | .error .notRes => .error (.wait va)
  | .error (.escalate f) => if s.refuses o f then .error (.stop 5) else .error (.esc f va)
  | .ok p =>
    if p.table ∨ p.kind = 3 ∨ (write ∧ ¬ p.w) ∨ (p.sup ∧ ¬ c.sup) then .error (.stop 5)
    else if p.kind = 2 ∧ c.fem = 0 ∧ ¬ sink then .error (.stop 1)
    else match s.placeIn o p va with
      | .ok q => if q.isHost && !s.dev.link then .error .late else .ok q
      | .error f => if s.refuses o f then .error (.stop 5) else .error (.esc f va)

/-- Bytes at a place. -/
def placeBytes (s : State) (q : Place) (n : Nat) : List Byte :=
  match q with
  | .dev pa _ => s.bytes pa n
  | .host h => (List.range n).map fun i => tblGet 0 s.hostMem (h + i)
  | .absentEntry _ => List.replicate n 0
  | .malformed => List.replicate n 0

/-- Does a place hold a poisoned word (R306)? -/
def poisonAt (s : State) (q : Place) (n : Nat) : Bool :=
  match q with
  | .dev pa _ => anyPoison s pa n
  | _ => false

/-- Is the side remote: the peer side of KIND 4 or 5? -/
def Copy.srcRemote (c : Copy) : Bool := c.kind == 5
def Copy.dstRemote (c : Copy) : Bool := c.kind == 4

/-- The address of an element byte on a memory side. -/
def rowVa (va pitch row off : Nat) : Nat := va + row * pitch + off

/-! ### Transfers of a remote side (R345 to R348) -/

/-- The transfer a copy has under way. -/
def State.transferOf (s : State) (c : Copy) : Option Transfer := s.transfers.find? fun t => t.copy == c.id

/-- A peer-table entry (R346): peer address, peer owner, ports, and LOCAL, REMOTE, LENGTH; none unless VALID. -/
structure PeerEntry where
  paddr  : Nat
  powner : Nat
  ports  : Nat
  local_ : Nat
  remote : Nat
  len    : Nat
  deriving DecidableEq, Repr

def State.peer (s : State) (o k : Nat) : Option PeerEntry :=
  match s.owner? o with
  | none => none
  | some w =>
    let a := w.orec.peers + 64 * k
    if k < w.orec.npeer ∧ (s.byte (a + 16)).toNat = 1 then
      some ⟨s.num a 16, s.num (a + 17) 1, s.num (a + 18) 2 % 4096, s.num (a + 24) 8, s.num (a + 32) 8, s.num (a + 40) 8⟩
    else none

/-- The 32 bytes of a packet's header (R345). -/
def packetHeader (p : Packet) : List Byte :=
  numBytes 1 p.ver ++ numBytes 1 p.kind ++ numBytes 2 p.len ++ numBytes 4 p.seq ++ numBytes 1 p.sown ++ numBytes 1 p.down ++
  numBytes 1 p.cause ++ List.replicate 5 0 ++ numBytes 8 p.addr.toNat ++ List.replicate 8 0

/-- The trailer that a packet's header and payload ask for (R345). -/
def packetSum (p : Packet) : Word := crcStep 0xFFFFFFFF (packetHeader p ++ p.data) ^^^ 0xFFFFFFFF

/-- A packet to send: version 1, with its trailer. -/
def packet (peer kind len seq sown down cause : Nat) (addr : DWord) (data : List Byte) : Packet :=
  let p : Packet := ⟨peer, 1, kind, len, seq, sown, down, cause, addr, data, 0⟩
  { p with crc := packetSum p }

/-- Does a packet that arrived pass its checks? One of another version is taken as one that fails its CRC. [DEDUCED: notes/assumptions/45.md] -/
def packetGood (p : Packet) : Bool := p.ver == 1 && p.crc == packetSum p

def packetOf (t : Transfer) (down : Nat) : Packet :=
  packet t.paddr (if t.write then 2 else 1) t.len t.seq t.owner down 0 (BitVec.ofNat 64 t.raddr) (if t.write then t.data else [])

/-- The port of a copy's transfer by its number: those of PORTS in ascending order, one per transfer (R346); ports mapped out serve only
where there is no other. [DEDUCED: notes/assumptions/45.md] -/
def State.portFor (s : State) (ports k : Nat) : Nat :=
  let all := bitsOf 12 ports
  let there := all.filter fun p => !s.dev.noPorts.contains p
  let l := if there.isEmpty then all else there
  (l[k % max 1 l.length]?).getD 0

/-- SEQ of a copy's first transfer (R346): a copy has a run of numbers of its own, as many as it could need. [DEDUCED: notes/assumptions/45.md] -/
def State.seqFor (s : State) (c : Copy) : Nat := if c.sent = 0 then tblGet 0 s.seqs c.strand.owner else c.seq0

/-- Open the transfer of the unit at a remote address: at most 4 KiB, within its row and its page; a READ is sent at once (R345 to R347). A
page that is not resident waits, an unusable table frame escalates (R181, R215); an address outside the peer entry's range, and an entry that
is not VALID, stop the copy (R346). [DEDUCED: notes/assumptions/45.md] -/
def State.openTransfer (s : State) (c : Copy) (page : Page) (va left : Nat) : Except CopyStop State :=
  let o := c.strand.owner
  let p : Except XErr Page := if page.base ≤ va ∧ va < page.base + page.size then .ok page else s.pageOf o va
  match p with
  | .error .malformed => .error (.stop 5)
  | .error .notRes => .error (.wait va)
  | .error (.escalate f) => if s.refuses o f then .error (.stop 5) else .error (.esc f va)
  | .ok p =>
    if p.kind ≠ 3 ∨ (c.dstRemote ∧ ¬ p.w) ∨ (p.sup ∧ ¬ c.sup) then .error (.stop 5)
    else match s.peer o p.frame with
      | none => .error (.stop 5)
      | some e =>
        let n := min (min 4096 left) (p.base + p.size - va)
        if va < e.local_ ∨ e.local_ + e.len < va + n then .error (.stop 5)
        else
          let seq0 := s.seqFor c
          let port := s.portFor e.ports c.sent
          let t : Transfer := ⟨s.nextId, c.id, o, c.strand.lcore, c.dstRemote, e.paddr, e.powner, port, (seq0 + c.sent) % 2 ^ 32,
            e.remote + (va - e.local_), n, [], if c.dstRemote then none else some s.dcyc, none⟩
          let s := s.modLcore o c.strand.lcore fun l => { l with
            copies := modWhere l.copies (fun d => d.id == c.id) fun d => { d with seq0 := seq0, sent := d.sent + 1 } }
          .ok { s with
            transfers := s.transfers ++ [t]
            seqs := if c.sent = 0 then tblSet 0 s.seqs o ((seq0 + c.rows * c.rowBytes / 4) % 2 ^ 32) else s.seqs
            outbox := if c.dstRemote then s.outbox else s.outbox ++ [(port, packetOf t e.powner)]
            nextId := s.nextId + 1 }

def State.modTransfer (s : State) (id : Nat) (f : Transfer → Transfer) : State :=
  { s with transfers := modWhere s.transfers (fun t => t.id == id) f }
def State.closeTransfer (s : State) (copy : Nat) : State :=
  { s with transfers := s.transfers.filter fun t => t.copy != copy }

/-- Status of a reply (R185, R348, R349): a NACK stops the copy with REMOTE_FAULT, no reply within RTMO (7) with TIMEOUT. -/
def replyStop (r : Nat) : Option CopyStop := if r = 0 then none else if r = 7 then some (.stop 3) else some (.stop 2)

/-! ### A unit -/

/-- The sink bit of a copy's word (R184). -/
def sinkPlace (s : State) (c : Copy) (b : CopyBase) (w : Nat) (write : Bool) : Except CopyStop Place :=
  copyPlace s c b.page (b.va + w / 8) write true

/-- Read a unit from its source (R180, R184, R186). [DEDUCED: notes/assumptions/35.md] -/
def readUnit (s : State) (l : LCore) (c : Copy) (u : CopyUnit) : Except CopyStop UnitData :=
  let full (n : Nat) : List Bool := List.replicate n true
  match c.src with
  | .tile d =>
    let e := l.tile d.num
    let r := d.rowOf 0 u.row
    let held := if u.fetch ∨ c.fetches = 0 then e.row false r u.off u.len else (c.ebuf.drop u.off).take u.len
    .ok ⟨held, full ((u.len + 3) / 4), e.row true r u.coff u.clen, true⟩
  | .mem va page pitch =>
    if c.srcRemote then
      match s.transferOf c with
      | none => .error .late
      | some t =>
        match t.reply with
        | none => .error .late
        | some r =>
          match replyStop r with
          | some e => .error e
          | none => .ok ⟨t.data.take 4, [true], [], true⟩
    else
      match copyPlace s c page (rowVa va pitch u.row u.off) false false with
      | .error e => .error e
      | .ok q =>
        let comp : Except CopyStop (List Byte) := match c.scale with
          | none => .ok []
          | some b =>
            if u.clen = 0 then .ok []
            else match copyPlace s c b.page (rowVa b.va c.compPitch u.row u.coff) false false with
              | .error e => .error e
              | .ok q => if poisonAt s q u.clen then .error (.stop 5) else .ok (placeBytes s q u.clen)
        match comp with
        | .error e => .error e
        | .ok cb =>
          let w := (u.row * c.rowBytes + u.off) / 4
          match q with
          | .dev pa _ =>
            if anyPoison s pa u.len then .error (.stop 5)
            else .ok ⟨s.bytes pa u.len, (List.range (u.len / 4)).map fun i => s.isFull (pa / 4 + i), cb, true⟩
          | q =>
            match c.fem, c.sink with
            | 3, some b => match sinkPlace s c b w false with
              | .error e => .error e
              | .ok k => if poisonAt s k 1 then .error (.stop 5) else .ok ⟨placeBytes s q u.len, [((placeBytes s k 1).headD 0).getLsbD (w % 8)], cb, true⟩
            | _, _ => .ok ⟨placeBytes s q u.len, full (u.len / 4), cb, true⟩

/-- The full/empty bit a destination word takes (R184). [DEDUCED: notes/assumptions/35.md] -/
def femBit (fem : Nat) (src : Bool) : Bool :=
  match fem with
  | 1 => true
  | 2 => false
  | _ => src

/-- What a bucket that cannot be reached does to a copy whose landing wakes from it (R181, R215, R219, R222): a page that is not resident
waits. [DEDUCED: notes/assumptions/42.md] -/
def State.bucketStop (s : State) (o : Nat) (b : Bucket) : CopyStop :=
  match b with
  | .esc f va => if s.refuses o f then .stop 5 else .esc f va
  | .trap 0x0A va => .wait va
  | _ => .stop 5

/-- What stands in the way of the wakes of bytes that land at a place. -/
def landBlock (s : State) (o va : Nat) (q : Place) (n : Nat) (full : List Bool) : Except CopyStop Unit :=
  match q with
  | .dev pa cm =>
    match (List.range ((n + 3) / 4)).findSome? fun i => s.storeBlock o (va + 4 * i) (pa + 4 * i) (min 4 n) full[i]? cm with
    | some b => .error (s.bucketStop o b)
    | none => .ok ()
  | _ => .ok ()

/-- Put bytes at a place, word by word with the bits given. -/
def putPlace (s : State) (o va : Nat) (q : Place) (bs : List Byte) (full : List Bool) : State :=
  match q with
  | .dev pa cm =>
    let s := { s with poison := s.poison.filter fun w => !(decide (pa / 4 ≤ w ∧ w < (pa + bs.length + 3) / 4)) }
    if bs.length < 4 then s.store o va pa bs (full.head?) cm none
    else (List.range (bs.length / 4)).foldl (fun s i =>
      s.store o (va + 4 * i) (pa + 4 * i) ((bs.drop (4 * i)).take 4) (some ((full[i]?).getD true)) cm none) s
  | .host h => { s with hostMem := putCells s.hostMem h bs }
  | .absentEntry _ => s
  | .malformed => s

/-- Set or clear a bit of the sink (R184). -/
def putSink (s : State) (c : Copy) (b : CopyBase) (w : Nat) (bit : Bool) : Except CopyStop State :=
  match sinkPlace s c b w true with
  | .error e => .error e
  | .ok q =>
    let old := ((placeBytes s q 1).headD 0).toNat
    let m := 2 ^ (w % 8)
    let v := if bit then old ||| m else old - (old &&& m)
    if poisonAt s q 1 then .error (.stop 5)
    else match landBlock s c.strand.owner (b.va + w / 8) q 1 [] with
    | .error e => .error e
    | .ok _ => .ok (match q with
      | .dev pa cm => s.store c.strand.owner (b.va + w / 8) pa [BitVec.ofNat 8 v] none cm none
      | q => putPlace s c.strand.owner (b.va + w / 8) q [BitVec.ofNat 8 v] [])

/-- The destination of a unit, checked before anything is written. -/
def destPlaces (s : State) (c : Copy) (u : CopyUnit) (va pitch : Nat) (page : Page) :
    Except CopyStop (Place × Option Place) :=
  match copyPlace s c page (rowVa va pitch u.row u.off) true false with
  | .error e => .error e
  | .ok q =>
    match c.scale with
    | some b =>
      if u.clen = 0 then .ok (q, none)
      else match copyPlace s c b.page (rowVa b.va c.compPitch u.row u.coff) true false with
        | .error e => .error e
        | .ok k => .ok (q, some k)
    | none => .ok (q, none)

/-- Is exactly one side of the unit in host memory, as FEM 3 asks (R184)? [DEDUCED: notes/assumptions/35.md] -/
def hostSides (s : State) (c : Copy) (u : CopyUnit) : Nat :=
  let side (x : CopySide) : Nat := match x with
    | .mem va page pitch => match copyPlace s c page (rowVa va pitch u.row u.off) false true with
      | .ok q => if q.isHost then 1 else 0
      | .error _ => 0
    | .tile _ => 0
  side c.src + side c.dst

/-- Write a unit to its destination (R180, R184). [DEDUCED: notes/assumptions/35.md] -/
def writeUnit (s : State) (c : Copy) (u : CopyUnit) (d : UnitData) : Except CopyStop State :=
  let o := c.strand.owner
  match c.dst with
  | .tile t =>
    match s.lcore? o c.strand.lcore with
    | none => .ok s
    | some l =>
      let sh := (l.tile t.num).shape
      let r := t.rowOf 0 u.row
      let whole := c.cbuf ++ d.comp  -- companion bytes of a row that moves by blocks: they land word by word (R180)
      let (coff, comp) := if c.block = 0 then (u.coff, d.comp)
        else if u.coff % 4 = 3 ∨ u.coff + 1 = c.comp then (u.coff / 4 * 4, whole.drop (u.coff / 4 * 4))
        else (0, [])
      let ws := tileWrites false t.num false (r * shapeRB sh + u.off) d.bytes ++
        tileWrites false t.num true (r * shapeComp sh + coff) comp
      .ok (s.modLcore o c.strand.lcore fun l => { l with tbuf := l.tbuf ++ ws })
  | .mem va page pitch =>
    match destPlaces s c u va pitch page with
    | .error e => .error e
    | .ok (q, k) =>
      let a := rowVa va pitch u.row u.off
      if c.fem = 3 then
        if hostSides s c u ≠ 1 then .error (.stop 5)
        else
          let w := (u.row * c.rowBytes + u.off) / 4
          match c.sink with
          | some b =>
            if q.isHost then
              match putSink s c b w (d.full.headD true) with
              | .error e => .error e
              | .ok s => .ok (putPlace s o a q d.bytes [])
            else match landBlock s o a q d.bytes.length d.full with
              | .error e => .error e
              | .ok _ => .ok (putPlace s o a q d.bytes d.full)
          | none => .ok s
      else
        let full := d.full.map (femBit c.fem)
        let blocked : Except CopyStop Unit := match landBlock s o a q d.bytes.length full, c.scale, k with
          | .error e, _, _ => .error e
          | .ok _, some b, some k => landBlock s o (rowVa b.va c.compPitch u.row u.coff) k d.comp.length [femBit c.fem true]
          | .ok _, _, _ => .ok ()
        match blocked with
        | .error e => .error e
        | .ok _ =>
        let s := putPlace s o a q d.bytes full
        .ok (match c.scale, k with
          | some b, some k => putPlace s o (rowVa b.va c.compPitch u.row u.coff) k d.comp [femBit c.fem true]
          | _, _ => s)

/-- The pages a unit lies in: a change ends a segment (R181). -/
def segmentKey (s : State) (c : Copy) (u : CopyUnit) : List Nat :=
  let base (page : Page) (va : Nat) : Nat :=
    if page.base ≤ va ∧ va < page.base + page.size then page.base
    else match s.pageOf c.strand.owner va with
      | .ok p => p.base
      | .error _ => va / 65536 * 65536
  let side (x : CopySide) : List Nat := match x with
    | .mem va page pitch => [base page (rowVa va pitch u.row u.off)]
    | .tile _ => []
  side c.src ++ side c.dst ++ (match c.scale with
    | some b => [base b.page (rowVa b.va c.compPitch u.row u.coff)]
    | none => [])

/-- The unit on whose pages a copy goes on after unit `u`: the words of a row that are read ahead lie in none. -/
def Copy.nextUnit (c : Copy) (u : Nat) : CopyUnit :=
  let v := u + 1
  c.unitAt (if v % c.perRow < c.fetches then v / c.perRow * c.perRow + c.fetches else v)

/-- A copy after a word that it reads ahead of its block. -/
def Copy.fetched (c : Copy) (d : UnitData) : Copy := { c with unit := c.unit + 1, ebuf := c.ebuf ++ d.bytes }

/-- A copy after its next unit: CRC in copy order, bytes counted, the end when every byte moved or the stop is reached, not within a WRITE.
[DEDUCED: notes/assumptions/45.md] -/
def Copy.after (c : Copy) (d : UnitData) (now : Nat) : Copy :=
  let n := d.bytes.length + d.comp.length
  let endsRow := decide ((c.unit + 1) % c.perRow = 0)
  let crc1 := if c.crcOn then crcStep c.crc d.bytes else c.crc
  let buf := if c.block ≠ 0 then c.cbuf ++ d.comp else []
  let crc2 := if c.crcOn then (if c.block = 0 then crcStep crc1 d.comp else if endsRow then crcStep crc1 buf else crc1) else crc1
  let moved := c.moved + n
  let all := decide (c.unit + 1 = c.units)
  let cut := match c.stopAt with | some k => decide (k ≤ moved) && !all && d.sure | none => false
  { c with
    unit := c.unit + 1, moved := moved, segs := c.segs + n, crc := crc2, cbuf := if endsRow then [] else buf, landed := now
    ebuf := if endsRow then [] else c.ebuf, inWrite := if d.sure then 0 else c.inWrite + n
    code := if cut then 4 else c.code, ended := all || cut }

/-- The copy with an identity, and its logical core. -/
def State.copy? (s : State) (id : Nat) : Option (LCore × Copy) :=
  s.lcores.findSome? fun l => (l.copies.find? fun c => c.id == id).map (l, ·)

def State.modCopy (s : State) (l : LCore) (id : Nat) (f : Copy → Copy) : State :=
  s.modLcore l.owner l.num fun l => { l with copies := modWhere l.copies (fun c => c.id == id) f }

/-- The transfer of a remote side that a unit needs, opened if it is not (R347). -/
def readyTransfer (s : State) (c : Copy) (u : CopyUnit) : Except CopyStop State :=
  match (if c.srcRemote then c.src else c.dst) with
  | .mem va page pitch =>
    if (c.srcRemote || c.dstRemote) && (s.transferOf c).isNone then
      s.openTransfer c page (rowVa va pitch u.row u.off) (c.rowBytes - u.off)
    else .ok s
  | .tile _ => .ok s

/-- A READ's reply gives way as its words land. -/
def State.useReply (s : State) (c : Copy) : State :=
  match c.srcRemote, s.transferOf c with
  | true, some t => if t.data.length ≤ 4 then s.closeTransfer c.id else s.modTransfer t.id fun t => { t with data := t.data.drop 4 }
  | _, _ => s

/-- A unit that has landed: the copy goes on, a finished segment counts on the barrier (R181, R190); one that ends in a WRITE counts when that is
answered (R349). [DEDUCED: notes/assumptions/45.md] -/
def landed (s : State) (l : LCore) (c : Copy) (u : CopyUnit) (d : UnitData) (now : Nat) : State :=
  let c' := c.after d now
  let ends := decide (c'.unit = c.units) || segmentKey s c u != segmentKey s c (c.nextUnit c.unit)
  let past := c.held ++ if ends then [c'.segs] else []
  let s := s.modCopy l c.id fun x => { c' with
    segs := if ends then 0 else c'.segs, held := if d.sure then [] else past, seq0 := x.seq0, sent := x.sent }
  match c.bar with
  | some (b, gen) => if d.sure then s.modLcore l.owner l.num fun l => { l with arrivals := l.arrivals ++ past.map (b, gen, ·) } else s
  | none => s

/-- What the next unit of a copy moves, with the state in which it has: or why it does not land. A WRITE leaves with its last word, and that
word has moved once it is answered. [DEDUCED: notes/assumptions/35.md; DEDUCED: notes/assumptions/36.md] -/
def moveUnit (s : State) (l : LCore) (c : Copy) : Except CopyStop (State × Option UnitData) :=
  let u := c.unitAt c.unit
  if u.fetch then (readUnit s l c u).map fun d => (s, some d)
  else match readyTransfer s c u with
  | .error e => .error e
  | .ok s =>
    match c.dstRemote, s.transferOf c with
    | true, some t =>
      match t.sentAt, t.reply with
      | some _, none => .error .late
      | some _, some r =>
        match replyStop r with
        | some e => .error e
        | none => .ok (s.closeTransfer c.id, some ⟨t.data.drop (t.len - 4), [true], [], true⟩)
      | none, _ =>
        match readUnit s l c u with
        | .error e => .error e
        | .ok d =>
          let t' := { t with data := t.data ++ d.bytes }
          if t'.data.length < t.len then .ok (s.modTransfer t.id fun _ => t', some { d with sure := false })
          else
            let t' := { t' with sentAt := some s.dcyc }
            .ok ({ s.modTransfer t.id fun _ => t' with outbox := s.outbox ++ [(t.port, packetOf t' t.powner)] }, none)
    | _, _ =>
      match readUnit s l c u with
      | .error e => .error e
      | .ok d =>
        match writeUnit s c u d with
        | .error e => .error e
        | .ok s => .ok (s.useReply c, some d)

/-- A unit that has moved lands: the copy goes on. -/
def unitLands (s : State) (l : LCore) (c : Copy) (d : UnitData) (now : Nat) : State :=
  let u := c.unitAt c.unit
  if u.fetch then s.modCopy l c.id fun _ => c.fetched d else landed s l c u d now

/-- One landing of a copy: the next state, or why the unit does not land. One that a drain moved lands without moving again (R131).
[DEDUCED: notes/assumptions/35.md] -/
def landUnit (s : State) (l : LCore) (c : Copy) (now : Nat) : Except CopyStop State :=
  match c.ahead with
  | d :: ds => .ok (unitLands s l { c with ahead := ds } d now)
  | [] =>
    match moveUnit s l c with
    | .error e => .error e
    | .ok (s, none) => .ok s
    | .ok (s, some d) => .ok (unitLands s l c d now)

/-! ### The drain of a save (R131) -/

/-- A copy as it will stand once a unit that moved has landed. -/
def Copy.past (c : Copy) (d : UnitData) : Copy := if (c.unitAt c.unit).fetch then c.fetched d else c.after d c.landed

/-- Move the units of a copy up to a count of bytes, ahead of their landings: `c` is the copy as it stands past those that moved. What does
not move now lands later as it would have. [DEDUCED: notes/assumptions/27.md] -/
def State.drainUnits (o lc stop : Nat) : Nat → State → Copy → State
  | 0, s, _ => s
  | fuel + 1, s, c =>
    if stop ≤ c.moved ∨ c.ended then s
    else match s.lcore? o lc with
      | none => s
      | some l => match moveUnit s l c with
        | .ok (s, some d) =>
          State.drainUnits o lc stop fuel (s.modCopy l c.id fun x => { x with ahead := x.ahead ++ [d] }) (c.past d)
        | .ok (s, none) => s
        | .error _ => s

/-- A drain: every copy of a logical core in its data phase moves to the end of its current 4 KiB chunk, where its progress stands; its bytes
count, and it ends, in the owner cycles in which they were to land (R131, R134, R180). [DEDUCED: notes/assumptions/27.md] -/
def State.drainCopies (s : State) (o lc : Nat) : State :=
  match s.lcore? o lc with
  | none => s
  | some l =>
    let now := s.lcNow o lc
    let run := l.copies.filter fun c => l.copyBegun c now && !c.ended && !c.waits && c.need == 0
    (run.foldl (fun s c => s.drainUnits o lc ((c.moved / 4096 + 1) * 4096) 8192 (c.ahead.foldl Copy.past c)) s).modLcore o lc (·.commit)

/-- A copy waits on a page that is not resident: its fault is recorded for the handler strands when there is a trap queue. It is a trap of
no stream, so nothing waits for ERET and no strand is killed (R181, R214).
[DEDUCED: notes/assumptions/35.md; DEDUCED: notes/assumptions/36.md] -/
def copyFault (s : State) (l : LCore) (c : Copy) (va : Nat) : State :=
  let tr : Trap := ⟨0x0A, 0, BitVec.ofNat 64 va, 0xF⟩
  let number := (s.group? c.grp).map (·.number) |>.getD 0
  let comp := (s.group? c.grp).map (·.comp) |>.getD 0
  let dead := match s.strand? c.strand with | some t => t.killed | none => true
  let s := s.modCopy l c.id fun c => { c with waits := true }
  if dead || (s.owner? l.owner).map (·.parkbase) == some 0 then s
  else s.addRecord c.strand c.grp (trapWords tr flagCtl c.pc (tstrandWord c.strand 0 true) number comp)

/-- Is a READ of a remote side to be sent: its data phase has begun and it has no transfer under way (R347)? -/
def Copy.sendsRead (s : State) (l : LCore) (c : Copy) (now : Nat) : Bool :=
  c.srcRemote && (s.transferOf c).isNone && l.copyBegun c now && !c.ended && !c.waits && c.need == 0

/-- COPY_UNIT_LANDS: the next unit of a copy lands whole in its landing cycle (R180, R181); a READ is sent ahead of it. -/
def execCopyUnitLands (id : Nat) (s : State) : Host.Outcome State Fault Refusal :=
  match s.copy? id with
  | none => .fault .notEnabled
  | some (l, c) =>
    let now := s.lcNow l.owner l.num
    let sent := if c.sendsRead s l now then readyTransfer s c (c.unitAt c.unit) else .error .late
    match sent, l.landing c with
    | .ok s', _ => .next s'
    | .error (.stop code), _ => .next (s.modCopy l id (stopCopy code))
    | .error _, none => .fault .notEnabled
    | .error _, some due =>
      if c.ended ∨ c.waits ∨ c.need ≠ 0 ∨ now < due then .fault .notEnabled
      else match landUnit s l c now with
        | .ok s' => .next s'
        | .error .late => .fault .notEnabled
        | .error (.esc f va) => .next (s.escalate l.owner f va)
        | .error (.stop code) => .next (s.modCopy l id (stopCopy code))
        | .error (.wait va) => if s.mayPlace l false then .next (copyFault s l c va) else .fault .notEnabled

/-- COPY_PAGE_GRANTED: the page of a waiting copy is there; what is left is timed from G + 400 (R181). [DEDUCED: notes/assumptions/36.md] -/
def execCopyPageGranted (id : Nat) (s : State) : Host.Outcome State Fault Refusal :=
  match s.copy? id with
  | none => .fault .notEnabled
  | some (l, c) =>
    let now := s.lcNow l.owner l.num
    let still : Bool := match landUnit s l c now with | .error (.wait _) => true | _ => false
    if c.ended ∨ ¬ c.waits ∨ still then .fault .notEnabled
    else .next (s.modCopy l id fun c => { c with waits := false, base := some (max (now + 400) c.landed, c.moved) })

/-- Tiles a copy names, each once: a use of a tile is one copy (R171). -/
def Copy.tiles (c : Copy) : List Nat :=
  let side (x : CopySide) : List Nat := match x with | .tile d => [d.num] | .mem .. => []
  (side c.src ++ side c.dst).eraseDups

/-- The CRC of a copy, once every byte moved. -/
def Copy.crcValue (c : Copy) : Word := c.crc ^^^ 0xFFFFFFFF

/-- What a copy leaves on its logical core when it ends (R180, R183, R185, R187): END, its tiles, its tag or its
follow-on. [DEDUCED: notes/assumptions/35.md] -/
def LCore.endCopy (l : LCore) (c : Copy) (now batch : Nat) (id : Nat) : LCore :=
  let begun := l.copyBegun c now
  let l := { l with
    copies := l.copies.filter fun d => d.id != c.id
    endA := if begun && !c.second then now else l.endA
    endB := if begun && c.second then now else l.endB }
  let l := l.dropAll c.tiles
  match c.follow with
  | none => l.tagEnd c.tag c.code (if c.code ≠ 0 then BitVec.ofNat 32 c.moved else if c.crcOn then c.crcValue else 0) c.crcOn
  | some op =>
    if c.code ≠ 0 then (l.dropAll (opTiles op)).tagEnd c.tag c.code (BitVec.ofNat 32 c.moved) c.crcOn
    else
      let m : MatCmd := ⟨id, c.strand, c.grp, op, none, now, some (c.batch.getD batch),
        some ⟨c.tag, if c.crcOn then some c.crcValue else none, c.moved⟩, none, 0⟩
      if l.mats.length < 64 then { l with mats := l.mats ++ [m] } else { l with held := l.held ++ [m] }

/-- COPY_COMPLETE: at END the status is written (R185). -/
def execCopyComplete (id : Nat) (s : State) : Host.Outcome State Fault Refusal :=
  match s.copy? id with
  | none => .fault .notEnabled
  | some (l, c) =>
    if ¬ c.ended then .fault .notEnabled
    else
      let batch := ((s.strand? c.strand).map (·.batch.toNat)).getD 0
      .next ((s.modLcore l.owner l.num fun l => l.endCopy c (s.lcNow l.owner l.num) batch s.nextId).closeTransfer id).fresh

/-! ### CPY (R177 to R179, R382) -/

/-- The record of a CPY, from lane 0 of the control slice. -/
structure CopyRec where
  w      : Word
  src    : Word
  soff   : Word
  dst    : Word
  doff   : Word
  dim    : Word
  spitch : Word
  dpitch : Word
  follow : List Word
  scale  : Word × Word
  sink   : Word × Word
  deriving DecidableEq, Repr

def copyRec (c : Ctx) (a : Nat) : CopyRec :=
  let r (k : Nat) : Word := c.reg (a + k) 0
  let f := if (r 0).getLsbD 12 then 4 else 0
  let g := f + (if (r 0).getLsbD 23 then 2 else 0)
  ⟨r 0, r 1, r 2, r 3, r 4, r 5, r 6, r 7, if f = 4 then [r 8, r 9, r 10, r 11] else [], (r (8 + f), r (9 + f)), (r (8 + g), r (9 + g))⟩

/-- Is the source, or the destination, a tile? -/
def srcTile (kind : Nat) : Bool := kind = 1 ∨ kind = 3
def dstTile (kind : Nat) : Bool := kind = 0 ∨ kind = 3

/-- Bytes of an element block that shares one scale byte (R140 to R144). [DEDUCED: notes/assumptions/35.md] -/
def blockBytes (shape : Word) : Nat :=
  match shapeTy shape with
  | 14 => 8 | 15 => 4 | 9 => 16 | _ => 32

/-- The follow-on MSTR of a record (R183). -/
def followOp (f : List Word) : Option MatOp :=
  match f with
  | [a, b, acc, m] => some (.mstr (field m 15 12) (m.getLsbD 16) (descOf a b) 0 0 (descOf acc 1) (field m 11 0) none)
  | _ => none

/-- The checks of a follow-on MSTR at CPY issue: permission, M, TY, then those of R417. [DESIGN CHOICE: notes/assumptions/65.md] -/
def followCheck (s : State) (l : LCore) (grp now : Nat) (op : MatOp) : Option (Nat × Nat × DWord) :=
  if !s.hasArr l.owner l.num then some (0x09, 0, 0)
  else match op with
    | .mstr aty _ _ _ _ _ m _ =>
      if m = 0 then some (0x01, 0x0E, 0)
      else if ¬ ((3 ≤ aty ∧ aty ≤ 9) ∨ aty = 14) then some (0x01, 0x0D, 0)
      else matCheck l grp now l.latchAhead op
    | _ => none

/-- Start a copy, or trap (R179): of several conditions that hold, the first in the order of R179's table decides, the checks of the
follow-on command last. [DESIGN CHOICE: notes/assumptions/65.md] -/
def startCopy (c : Ctx) (a : Nat) (s : State) : Eff :=
  let i := c.cur.strand
  match s.lcore? i.owner i.lcore with
  | none => .plain s
  | some l =>
    let r := copyRec c a
    let kind := field r.w 2 0
    let fem := field r.w 11 10
    let scl := r.w.getLsbD 23
    let rows := field r.dim 15 0
    let e := 4 * field r.dim 31 16
    let sT := srcTile kind; let dT := dstTile kind
    let sd := descOf r.src r.soff; let dd := descOf r.dst r.doff
    let shape (d : Desc) : Word := if (l.tile d.num).st = .free then 0 else (l.tile d.num).shape
    let comp (d : Desc) : Nat := if (l.tile d.num).st = .free then 0 else shapeComp (shape d)
    let one := (kind = 0 && comp dd != 0) || (kind = 1 && comp sd != 0)
    let illegal := field r.w 31 24 ≠ 0 || decide (5 < kind) || e = 0 || rows = 0 || decide (rows * e > 0xFFFFFFFC) ||
      (sT && r.spitch != 0) || (dT && r.dpitch != 0) || ((fem = 1 || fem = 2) && dT) || (fem = 3 && kind != 2) ||
      (scl && !one) || (match r.follow with | [_, _, _, m] => field m 31 17 != 0 | _ => false)
    if illegal then .trapAll 0x01 0x0E 0
    else
      let need : List Word := (if sT then [] else [r.src]) ++ (if dT then [] else [r.dst]) ++
        (if scl then [r.scale.1] else []) ++ (if fem = 3 then [r.sink.1] else [])
      match need.find? fun h => (windowOf s c.t.grp c.now h).isNone with
      | some h => .trapAll 0x07 0 (h.setWidth 64)
      | none =>
        let win (h : Word) : WinSlot := (windowOf s c.t.grp c.now h).getD win0
        let peer (h : Word) : Bool := (win h).page.kind == 3
        let wrong := (if sT then [] else [(r.src, kind == 5)]) ++ (if dT then [] else [(r.dst, kind == 4)]) ++
          (if scl then [(r.scale.1, false)] else []) ++ (if fem = 3 then [(r.sink.1, false)] else [])
        match wrong.find? fun x => peer x.1 != x.2 with
        | some x => .trapAll 0x09 0 (BitVec.ofNat 64 (win x.1).base)
        | none =>
          let mis := (if sT then [] else [(r.src, r.soff, r.spitch)]) ++ (if dT then [] else [(r.dst, r.doff, r.dpitch)])
          match mis.find? fun x => x.2.1.toNat % 4 != 0 || x.2.2.toNat % 4 != 0 with
          | some x => .trapAll 0x06 0
              (BitVec.ofNat 64 ((win x.1).base + x.2.1.toNat + if x.2.1.toNat % 4 ≠ 0 then 0 else x.2.2.toNat))
          | none =>
            let tileBad (d : Desc) : Option (Nat × Nat × DWord) :=
              match tileError l c.t.grp c.now d.num with
              | some x => some (0x0E, x, BitVec.ofNat 64 d.num)
              | none => if rowBad l d 0 (rows - 1) || decide (shapeRB (shape d) < e) then some (0x0E, 4, BitVec.ofNat 64 d.num) else none
            match firstSome [if sT then tileBad sd else none, if dT then tileBad dd else none] with
            | some (x, y, z) => .trapAll x y z
            | none =>
              let td := if dT then dd else sd
              let bb := blockBytes (shape td)
              let scaled := (sT && comp sd != 0) || (dT && comp dd != 0)
              let both := sT && dT
              let unequal := both && (shapeTy (shape sd) != shapeTy (shape dd) || shapeMx (shape sd) != shapeMx (shape dd))
              let mem := if sT then (win r.dst, r.doff, r.dpitch) else (win r.src, r.soff, r.spitch)
              let base := mem.1.base + mem.2.1.toNat
              let pitch := if rows = 1 then 0 else mem.2.2.toNat
              let loose := scl && (base % bb != 0 || pitch % bb != 0)
              if unequal || (scaled && !both && !scl) || (scaled && e % bb != 0) then .trapAll 0x0D 0 0
              else if loose then .trapAll 0x0D 0 (BitVec.ofNat 64 (if base % bb ≠ 0 then base else base + pitch))
              else match (followOp r.follow).bind (followCheck s l c.t.grp c.now) with
                | some (x, y, z) => .trapAll x y z
                | none =>
                  let side (t : Bool) (d : Desc) (h off pitch : Word) : CopySide :=
                    if t then .tile d else .mem ((win h).base + off.toNat) (win h).page pitch.toNat
                  let base (use : Bool) (x : Word × Word) : Option CopyBase :=
                    if use then some ⟨(win x.1).base + x.2.toNat, (win x.1).page⟩ else none
                  let bar := field r.w 22 15
                  let u := s.untimed i.owner
                  let cm := if scaled then e / bb else 0
                  let bytes := rows * (e + cm)
                  let cp : Copy := {
                    id := s.nextId, strand := i, grp := c.t.grp, kind := kind, tag := field r.w 8 3
                    batch := if r.w.getLsbD 9 then some c.t.batch.toNat else none
                    bar := if r.w.getLsbD 14 then some (bar, (tblGet bar0 l.bars bar).gen.toNat) else none
                    crcOn := r.w.getLsbD 13, fem := fem, follow := followOp r.follow
                    src := side sT sd r.src r.soff r.spitch, dst := side dT dd r.dst r.doff r.dpitch
                    scale := base scl r.scale, comp := cm, compPitch := comp td, block := if scl then bb else 0
                    sink := base (fem = 3) r.sink, pc := c.str.pc, sup := decide (1 ≤ c.t.priv), rowBytes := e, rows := rows
                    issued := c.now + (if u then Config.untimedDelay s.freeN else 0), base := none, unit := 0, moved := 0
                    cbuf := [], ebuf := [], ahead := [], seq0 := 0, sent := 0, segs := 0, crc := 0xFFFFFFFF, waits := false, code := 0, stopAt := none
                    landed := 0, inWrite := 0, held := [], need := if u && kind != 3 then (bytes + 95) / 96 else 0, ended := false }
                  let s := if kind = 3 then s else s.bindFor i.owner i.lcore c.now bytes
                  let s := s.modLcore i.owner i.lcore fun l =>
                    let t := tblGet tag0 l.tags cp.tag
                    let t := if t.count = 0 then { tag0 with count := 1 } else { t with count := t.count + 1 }
                    { (l.useAll cp.tiles).useAll (match cp.follow with | some op => opTiles op | none => []) with
                      copies := l.copies ++ [cp], tags := tblSet tag0 l.tags cp.tag t }
                  .plain { s with nextId := s.nextId + 1, freeN := if u then s.freeN + 1 else s.freeN }

/-- CPY. -/
def execCpy (x : XOps) (s : State) : Host.Outcome State Fault Refusal :=
  issueWith (.cpy x) 1 (fun c s => startCopy c (regNum x.a) s) s

end Sys2Proof.Machine
end

