-- ==== Sys2Proof/Machine/Clause.lean ====
section
/-!
DEFINITION. The clause array (spec/08_clause_array.md; R371, R373, R375): the settle round, the CLAUSE instructions and the
steps of an array's commands.
-/

namespace Sys2Proof.Machine

/-! ### The array (R250 to R253) -/

/-- A cleared array. -/
def clause0 : ClauseArray := ⟨[], [], [], [], 0, none, none, 0, []⟩

def State.clause (s : State) (o k : Nat) : ClauseArray := tblGet clause0 s.clauses (o * 64 + k)
def State.setClause (s : State) (o k : Nat) (a : ClauseArray) : State :=
  { s with clauses := tblSet clause0 s.clauses (o * 64 + k) a }
def State.modClause (s : State) (o k : Nat) (f : ClauseArray → ClauseArray) : State := s.setClause o k (f (s.clause o k))

/-- A record word (R251): VAL, LEVEL, and the 13-bit reason. -/
def recordWord (val level reason : Nat) : Word := BitVec.ofNat 32 (val * 2 ^ 24 + level * 2 ^ 13 + reason)

def ClauseArray.rowOf (a : ClauseArray) (v : Nat) : Word := tblGet 0 a.rows v
/-- VAL of a variable: 0 U, 1 T, 2 F. -/
def recordVal (w : Word) : Nat := field w 25 24
def recordLevel (w : Word) : Nat := field w 22 13

/-- Assign a variable: its row and the next trail entry. -/
def ClauseArray.assign (a : ClauseArray) (v val reason : Nat) : ClauseArray :=
  let w := recordWord val a.level reason
  { a with rows := tblSet 0 a.rows v w, trail := a.trail ++ [(v, w)] }

/-- Bits 0, 2, 4, ... of a column: one for each cell. -/
def cellBits : Nat := (4 ^ 1024 - 1) / 3

/-- Has a column a cell 0b11? -/
def malformed (cells : Nat) : Bool := cells &&& (cells >>> 1) &&& cellBits != 0

/-! ### The settle round (R256) -/

/-- How a column stands against an assignment. -/
inductive ColumnClass
  | sat
  | conflict
  | unit (v : Nat) (pos : Bool)
  | open_
  deriving DecidableEq, Repr

/-- The variables with a value, as bits 2v. -/
def ClauseArray.having (a : ClauseArray) (val : Nat) : Nat :=
  a.rows.foldl (fun m x => if recordVal x.2 = val then m ||| 1 <<< (2 * x.1) else m) 0

/-- Classify a column: `t` and `f` are the variables that are T and F. -/
def classify (t f cells : Nat) : ColumnClass :=
  let pos := cells &&& cellBits
  let neg := (cells >>> 1) &&& cellBits
  let free := (pos ||| neg) - ((pos ||| neg) &&& (t ||| f))
  if (pos &&& t) ||| (neg &&& f) ≠ 0 then .sat
  else if free = 0 then .conflict
  else if free &&& (free - 1) = 0 then .unit (free.log2 / 2) (pos &&& free != 0)
  else .open_

/-- What a round comes to. -/
inductive RoundResult
  | conflict (col : Nat)
  | progress
  | quiet
  deriving DecidableEq, Repr

def ClauseArray.round (a : ClauseArray) : ClauseArray × RoundResult :=
  let t := a.having 1
  let f := a.having 2
  let cls := a.enabled.map fun c => (c, classify t f (tblGet 0 a.cells c))
  match cls.find? fun x => x.2 == .conflict with
  | some x => (a, .conflict x.1)
  | none =>
    let b := cls.foldl (fun a x => match x.2 with
      | .unit v pos => if recordVal (a.rowOf v) = 0 then a.assign v (if pos then 1 else 2) x.1 else a
      | _ => a) a
    (b, if b.trail.length = a.trail.length then .quiet else .progress)

/-! ### Commands -/

/-- Undo the trail's end down to a level (R266). -/
def undo (level : Nat) : List (Nat × Word) → Tbl Word → List (Nat × Word) × Tbl Word
  | [], rows => ([], rows)
  | e :: l, rows => if level < recordLevel e.2 then undo level l (tblSet 0 rows e.1 0) else (e :: l, rows)

def ClauseArray.backTo (a : ClauseArray) (level : Nat) : ClauseArray :=
  if level < a.level then
    let (t, r) := undo level a.trail.reverse a.rows
    { a with trail := t.reverse, rows := r, level := level }
  else a

/-- The array's number that a group holds (R255). -/
def State.heldArray (s : State) (o grp : Nat) : Option Nat := (List.range 64).find? fun k => (s.clause o k).holder == some grp

/-- Operand ranges and tile checks, steps 2 to 5 of R259. -/
def clauseCheck (l : LCore) (grp now : Nat) (op : ClauseOp) : Option (Nat × Nat × DWord) :=
  let rng (sub : Nat) (bad : Bool) : Option (Nat × Nat × DWord) := if bad then some (0x0F, sub, 0) else none
  let tile (d : Desc) (n : Nat) : List (Option (Nat × Nat × DWord)) :=
    let sh := (l.tile d.num).shape
    [(tileError l grp now d.num).map fun e => (0x0E, e, BitVec.ofNat 64 d.num),
     rng 10 (decide (1 < shapeTy sh ∨ shapeRB sh < 256)),
     if rowBad l d 0 (n - 1) then some (0x0E, 4, BitVec.ofNat 64 d.num) else none]
  match op with
  | .load d f n => firstSome (rng 8 (decide (4095 < f ∨ n = 0 ∨ 4096 < f + n)) :: tile d n)
  | .learn d => firstSome (tile d 1)
  | .dec w => rng 9 (field w 31 11 != 0)
  | .back v | .val v => rng 9 (decide (1023 < v))
  | .del c => rng 8 (decide (4095 < c))
  | _ => none

/-- Tiles a command uses (R259). -/
def ClauseOp.tiles : ClauseOp → List Nat
  | .load d _ _ | .learn d => [d.num]
  | _ => []

/-- A command as read at issue. -/
def Ctx.clauseCmd (c : Ctx) (id : Nat) (op : ClauseOp) (d : Dst) : ClauseCmd :=
  ⟨id, c.cur.strand, c.t.grp, op, d, c.lanes, c.t.batch.toNat, c.now, none, 0, none, [], 0, false⟩

/-- Enter a command into an array's order (R258); a CACLOSE ends the hold at once, an opening CAOPEN begins it. -/
def State.enterClause (s : State) (k : Nat) (m : ClauseCmd) : State :=
  let i := m.strand
  let s := s.modClause i.owner k fun a => { a with
    cmds := a.cmds ++ [m]
    holder := match m.op with | .close => none | _ => some m.grp
    lastLc := some i.lcore }
  s.modLcore i.owner i.lcore fun l => l.useAll m.op.tiles

/-- The shared issue of the CLAUSE commands but CAOPEN (R259). -/
def issueClause (i : Instr) (d : Dst) (op : Ctx → ClauseOp) (s : State) : Host.Outcome State Fault Refusal :=
  issueWith i 1 (fun c s =>
    let st := c.cur.strand
    match s.heldArray st.owner c.t.grp, s.lcore? st.owner st.lcore with
    | some k, some l =>
      match clauseCheck l c.t.grp c.now (op c) with
      | some (a, b, v) => .trapAll a b v
      | none => .later (s.enterClause k (c.clauseCmd s.nextId (op c) d))
    | _, _ => .trapAll 0x10 0 0) s

/-- A CAOPEN that is refused at an owner cycle is a member of its batch for 4 owner cycles (R258, R260). -/
def Strand.noteRefusal (t : Strand) (batch issued : Nat) : Strand :=
  { t with refusals := (t.refusals.filter fun x => decide (issued < x.2)) ++ [(batch, issued + 4)] }

/-- Is an array there: a number below the owner's quota, whose cluster's array is not mapped out (R260, R354)?
[DEDUCED: notes/assumptions/39.md] -/
def State.arrayThere (s : State) (o k : Nat) : Bool :=
  match s.owner? o with
  | some w => decide (k < w.orec.caq) && !(w.clusters[k]?).any s.dev.noArrays.contains
  | none => false

/-- CAOPEN: untimed owners hold no array (R125). HELD and ABSENT are decided at issue and only reported; whether the array
is free is decided with the other CAOPENs of the owner-cycle index, when the index ends (R110, R260): nothing issues at the
next index before that. [DEDUCED: notes/assumptions/39.md] -/
def execCaopen (x : XOps) (s : State) : Host.Outcome State Fault Refusal :=
  issueWith (.caopen x) 1 (fun c s =>
    let o := c.cur.strand.owner
    let k := c.n0 x.a
    if s.untimed o then .trapAll 0x10 0 0
    else if 1 < c.n0 x.b then .trapAll 0x0F 9 0
    else if (s.heldArray o c.t.grp).isSome ∨ ¬ s.arrayThere o k then
      .result (s.modStrand c.cur.strand fun t => t.noteRefusal c.t.batch.toNat c.now) 4
        (c.fill x.d [if (s.heldArray o c.t.grp).isSome then 3 else 2])
    else
      let m := c.clauseCmd s.nextId (.open_ (c.n0 x.b == 1)) x.d
      .later (s.modOwner o fun w => { w with opens := w.opens ++ [⟨k, m, c.str, c.t.lclk⟩] })) s

/-- A CAOPEN of an index that has ended reports `st`, written 4 owner cycles after issue. -/
def Strand.refuseOpen (t : Strand) (m : ClauseCmd) (st : Word) : Strand :=
  if t.killed ∨ t.grp ≠ m.grp then t
  else { t.noteRefusal m.batch m.issued with
    pends := t.pends ++ [⟨m.id, none, m.issued + 4, 0, m.lanes.flatMap fun l => dstOuts m.dst l [st]⟩] }

/-- A CAOPEN that would open an array whose order is full has not issued: its stream stands before it again, and waits there as at any array
whose order is full; from the next owner cycle on the control pipe is its core's to give (R44, R45, R258).
[DEDUCED: notes/assumptions/39.md] -/
def State.putOffOpen (s : State) (q : OpenReq) : State :=
  let i := q.cmd.strand
  (s.modLcore i.owner i.lcore fun l => { l with ctl := l.ctl.forget i }).modStrand i fun t =>
    if t.killed ∨ t.grp ≠ q.cmd.grp then t
    else { t with
      lclk := q.lclk
      ctl := { t.ctl with pc := q.was.pc, res := q.was.res, replay := q.was.replay, stood := q.was.stood, ready := max t.ctl.ready (q.cmd.issued + 1) } }

/-- One CAOPEN of an index that has ended: OPENED when the array is free and fewer than 16 commands of it have entered and not ended, else
BUSY; HELD where the group took an array meanwhile (R258, R260). -/
def State.settleOpen (s : State) (q : OpenReq) : State :=
  let m := q.cmd
  let a := s.clause m.strand.owner q.array
  if (s.heldArray m.strand.owner m.grp).isSome then s.modStrand m.strand (·.refuseOpen m 3)
  else if a.holder.isSome then s.modStrand m.strand (·.refuseOpen m 1)
  else if 16 ≤ a.cmds.length then s.putOffOpen q
  else s.enterClause q.array m

/-- The CAOPENs of an owner's index, in ascending order of logical core, once every hold that ends in it has ended (R260).
[DEDUCED: notes/assumptions/39.md] -/
def State.settleOpens (s : State) (o : Nat) : State :=
  match s.owner? o with
  | none => s
  | some w =>
    let lcs := (List.range 512).filter fun lc => w.opens.any fun q => q.cmd.strand.lcore == lc
    (lcs.flatMap fun lc => w.opens.filter fun q => q.cmd.strand.lcore == lc).foldl State.settleOpen
      (s.modOwner o fun w => { w with opens := [] })

def execCaclose (x : XOps) (s : State) : Host.Outcome State Fault Refusal :=
  issueClause (.caclose x) .none (fun _ => .close) s
def execCaload (x : XOps) (s : State) : Host.Outcome State Fault Refusal :=
  issueClause (.caload x) x.d (fun c => .load (c.desc x.a) (c.n0 x.b) (c.n0 x.c)) s
def execCalearn (x : XOps) (s : State) : Host.Outcome State Fault Refusal :=
  issueClause (.calearn x) x.d (fun c => .learn (c.desc x.a)) s
def execCadec (x : XOps) (s : State) : Host.Outcome State Fault Refusal :=
  issueClause (.cadec x) x.d (fun c => .dec (c.lane0 x.a)) s
def execCaprop (x : XOps) (s : State) : Host.Outcome State Fault Refusal :=
  issueClause (.caprop x) x.d (fun c => .prop (c.n0 x.a)) s
def execCaback (x : XOps) (s : State) : Host.Outcome State Fault Refusal :=
  issueClause (.caback x) x.d (fun c => .back (c.n0 x.a)) s
def execCaval (x : XOps) (s : State) : Host.Outcome State Fault Refusal :=
  issueClause (.caval x) x.d (fun c => .val (c.n0 x.a)) s
def execCatrail (x : XOps) (s : State) : Host.Outcome State Fault Refusal :=
  issueClause (.catrail x) x.d (fun c => .trail (c.n0 x.a)) s
def execCadel (x : XOps) (s : State) : Host.Outcome State Fault Refusal :=
  issueClause (.cadel x) .none (fun c => .del (c.n0 x.a)) s

/-! ### The steps of an array's first command -/

/-- Occupancy (R257, R260); none for CAPROP, whose rounds decide it. -/
def ClauseOp.occupancy : ClauseOp → Option Nat
  | .open_ c => some (if c then 64 else 4)
  | .close | .del _ => some 1
  | .load _ _ n => some (16 + 2 * n)
  | .learn _ => some 8
  | .dec _ | .val _ | .trail _ => some 4
  | .back _ => some 16
  | .prop _ => none

/-- The first 256 bytes of a tile row of chunk 0, as a column. -/
def columnOf (l : LCore) (d : Desc) (i : Nat) : Nat := ofBytesLE ((l.tile d.num).row false (d.rowOf 0 i) 0 256)

/-- The first command of an array, with the clock of its logical core. -/
def firstClause (s : State) (o k : Nat) : Option (ClauseArray × ClauseCmd × LCore × Nat) :=
  let a := s.clause o k
  match a.cmds with
  | [] => none
  | m :: _ => (s.lcore? o m.strand.lcore).map fun l => (a, m, l, s.lcNow o m.strand.lcore)

/-- Change an array's first command. -/
def ClauseArray.modFirst (a : ClauseArray) (f : ClauseCmd → ClauseCmd) : ClauseArray := { a with cmds := a.cmds.modify 0 f }

/-- CLAUSE_COMMAND_START: the first command starts at S = max(I, E of the one before) (R258); CALEARN reads its row, a CAPROP
with budget 0 is over. -/
def execClauseCommandStart (o k : Nat) (s : State) : Host.Outcome State Fault Refusal :=
  match firstClause s o k with
  | none => .fault .notEnabled
  | some (a, m, l, now) =>
    let start := max m.issued a.lastEnd
    if m.start.isSome ∨ now < start then .fault .notEnabled
    else .next (s.setClause o k (a.modFirst fun m => { m with
      start := some start
      ends := match m.op with
        | .prop 0 => some (start + 12)
        | op => op.occupancy.map (start + ·)
      out := match m.op with
        | .prop 0 => [2, BitVec.ofNat 32 a.trail.length]
        | .load .. => [0xFFFFFFFF]
        | _ => []
      row := match m.op with
        | .learn d => columnOf l d 0
        | _ => 0 }))

/-- The next round of a CAPROP with budget `b` that started at `st`: what it assigns, and E once a round ends the command (R265). -/
def ClauseArray.propRound (a : ClauseArray) (m : ClauseCmd) (b st : Nat) : ClauseArray :=
  let r := m.step + 1
  let (a', res) := a.round
  let ends := some (st + 12 + 8 * r)
  let len := BitVec.ofNat 32 a'.trail.length
  a'.modFirst fun m =>
    match res with
    | .conflict c => { m with step := r, ends := ends, out := [1, BitVec.ofNat 32 c] }
    | .quiet => { m with step := r, ends := ends, out := [0, len] }
    | .progress => if r = b then { m with step := r, ends := ends, out := [2, len] } else { m with step := r }

/-- CAPROP_ROUND: a round completes every 8 owner cycles (R265, R270). [DEDUCED: notes/assumptions/39.md] -/
def execCapropRound (o k : Nat) (s : State) : Host.Outcome State Fault Refusal :=
  match firstClause s o k with
  | none => .fault .notEnabled
  | some (a, m, _, now) =>
    match m.op, m.start, m.ends with
    | .prop b, some st, none =>
      if now < st + 8 * (m.step + 1) then .fault .notEnabled else .next (s.setClause o k (a.propRound m b st))
    | _, _, _ => .fault .notEnabled

/-- Put a column, enabled or not. -/
def ClauseArray.putColumn (a : ClauseArray) (c cells : Nat) (on : Bool) : ClauseArray :=
  { a with cells := tblSet 0 a.cells c cells, enabled := if on then natInsert a.enabled c else natErase a.enabled c }

/-- The next column of a CALOAD (R261). -/
def ClauseArray.loadColumn (a : ClauseArray) (m : ClauseCmd) (l : LCore) (d : Desc) (f : Nat) : ClauseArray :=
  let x := columnOf l d m.step
  let c := f + m.step
  let bad := malformed x
  (a.putColumn c (if bad then 0 else x) (!bad)).modFirst fun m => { m with
    step := m.step + 1
    out := if bad && m.out == [0xFFFFFFFF] then [BitVec.ofNat 32 c] else m.out }

/-- CALOAD_COLUMN_WRITE (R261). [DEDUCED: notes/assumptions/39.md] -/
def execCaloadColumnWrite (o k : Nat) (s : State) : Host.Outcome State Fault Refusal :=
  match firstClause s o k with
  | none => .fault .notEnabled
  | some (a, m, l, now) =>
    match m.op, m.start with
    | .load d f n, some st =>
      if n ≤ m.step ∨ now < st + 18 + 2 * m.step then .fault .notEnabled else .next (s.setClause o k (a.loadColumn m l d f))
    | _, _ => .fault .notEnabled

/-- What a command does at its end, and the words of its result; one that a drain brought there has done it. -/
def ClauseArray.finish (a : ClauseArray) (m : ClauseCmd) : ClauseArray × List Word :=
  let len (a : ClauseArray) : Word := BitVec.ofNat 32 a.trail.length
  if m.done then (a, m.out) else
  match m.op with
  | .open_ clr => (if clr then { a with cells := [], enabled := [], rows := [], trail := [], level := 0 } else a, [0])
  | .close => (a, [])
  | .load .. | .prop _ => (a, m.out)
  | .learn _ =>
    if malformed m.row then (a, [0xFFFFFFFE])
    else match (List.range 4096).find? fun c => !a.enabled.contains c with
      | none => (a, [0xFFFFFFFF])
      | some c => (a.putColumn c m.row true, [BitVec.ofNat 32 c])
  | .dec w =>
    let v := field w 9 0
    let d (st lev : Nat) : List Word := [BitVec.ofNat 32 (st + lev * 2 ^ 16)]
    if recordVal (a.rowOf v) ≠ 0 then (a, d 1 a.level)
    else if a.level = 1023 then (a, d 2 a.level)
    else ({ a with level := a.level + 1 }.assign v (if w.getLsbD 10 then 2 else 1) 0x1000, d 0 (a.level + 1))
  | .back l => (a.backTo l, [len (a.backTo l)])
  | .val v => (a, [a.rowOf v])
  | .trail i => (a, match a.trail[i]? with
    | some (v, w) => [w, BitVec.ofNat 32 v]
    | none => [0xFFFFFFFF, 0xFFFFFFFF])
  | .del c => ({ a with enabled := natErase a.enabled c }, [])

/-- The result of a command, unless its strand was killed (R268). [DEDUCED: notes/assumptions/39.md] -/
def State.clauseResult (s : State) (m : ClauseCmd) (ws : List Word) : State :=
  s.modStrand m.strand fun t =>
    if t.killed ∨ t.grp ≠ m.grp then t
    else
      let t := m.lanes.foldl (fun t l => (dstOuts m.dst l ws).foldl (fun t w => t.setReg true w.1 w.2.1 w.2.2) t) t
      { t with ctl := t.ctl.wrote m.id }

/-- CLAUSE_COMMAND_END: at E the command acts and its result is written (R258). -/
def execClauseCommandEnd (o k : Nat) (s : State) : Host.Outcome State Fault Refusal :=
  match firstClause s o k with
  | none => .fault .notEnabled
  | some (a, m, _, now) =>
    match m.ends with
    | none => .fault .notEnabled
    | some e =>
      let left : Bool := match m.op with | .load _ _ n => decide (m.step < n) | _ => false
      if left ∨ now < e then .fault .notEnabled
      else
        let (a', ws) := a.finish m
        let s := s.setClause o k { a' with cmds := a'.cmds.drop 1, lastEnd := e }
        .next ((s.modLcore o m.strand.lcore fun l => l.dropAll m.op.tiles).clauseResult m ws)

/-- A drain's part of an array's first command: a CAPROP goes to the end of its round, any other command but a CALOAD to its end; a CALOAD
reads and writes each column in one owner cycle (R261), and stands between two of them. Later rounds, columns and results stand at their owner
cycles (R131, R270). [DEDUCED: notes/assumptions/27.md] -/
def ClauseArray.drained (a : ClauseArray) : ClauseArray :=
  match a.cmds with
  | [] => a
  | m :: _ =>
    match m.start with
    | none => a
    | some st =>
      match m.op with
      | .prop b => if m.ends.isNone then a.propRound m b st else a
      | .load .. => a
      | _ => if m.done then a else
        let (a', ws) := a.finish m
        a'.modFirst fun m => { m with done := true, out := ws }

end Sys2Proof.Machine
end

