-- ==== Sys2Proof/Machine/Regs.lean ====
section
/-!
DEFINITION. Register allocation and quiet points (spec/01_strands.md R49 to R56; R430): RALLOC, RFREE, swap-out and swap-in of
strands.
-/

namespace Sys2Proof.Machine

/-! ### Quiet points (R56) -/

/-- Does a waiting instruction have a register result outstanding? `own` is the instruction that asks. -/
def Stream.resultWaits (x : Stream) (own : Option Nat) : Bool :=
  match x.wait with
  | some w => some w.id != own && !(fieldsOf w.instr).writes.isEmpty && (match w.instr with
    | .frecv _ | .vpop _ => false   -- these wait at issue
    | _ => true)
  | none => false

/-- Is a strand at a quiet point, apart from a waiting instruction with identity `own`? A slice counts as idle from the owner cycle after its
VEND issues on (R462). [DESIGN CHOICE: notes/assumptions/69.md] -/
def State.quietAt (s : State) (t : Strand) (own : Option Nat) : Bool :=
  (match t.sets with
   | [g] => ((g.st == .idle && decide (g.str.ready ≤ s.lcNow t.id.owner t.id.lcore)) || g.st == .stopped) && g.loops.isEmpty && g.str.trap.isNone && g.str.res.all (·.written)
   | _ => false) &&
  t.flume.isEmpty && t.rq.isEmpty && t.pends.isEmpty && t.ctl.trap.isNone && t.ctl.res.all (·.written) &&
  !t.ctl.resultWaits own && !(s.accs.any fun a => a.strand == t.id)

/-! ### Pools (R11, R49) -/

/-- Granules of a slice at a register count. -/
def granules (n : Nat) : Nat := (n + 7) / 8

/-- Does a strand hold its slot and granules? -/
def Strand.holdsPlace (t : Strand) : Bool := t.res != .out

/-- The strands of a logical core. -/
def State.strandsOf (s : State) (o lc : Nat) : List Strand := s.strands.filter fun t => t.id.owner == o && t.id.lcore == lc

/-- Free vector granules of a logical core. [DESIGN CHOICE: notes/assumptions/51.md] -/
def State.vectorFree (s : State) (o lc : Nat) : Nat :=
  4096 - (((s.strandsOf o lc).filter (·.holdsPlace)).map fun t => t.slices * granules t.n).sum
/-- Free control granules of a logical core. -/
def State.controlFree (s : State) (o lc : Nat) : Nat :=
  512 - (((s.strandsOf o lc).filter (·.holdsPlace)).map fun t => granules t.n).sum
/-- Free strand slots of a logical core, ascending. [DESIGN CHOICE: notes/assumptions/51.md] -/
def State.slotsFree (s : State) (o lc : Nat) : List Nat :=
  (List.range 32).filter fun k => !((s.strandsOf o lc).any fun t => t.id.slot == k)
/-- Strands of a logical core that are swapped out or on their way (R53). -/
def State.swapped (s : State) (o lc : Nat) : Nat :=
  ((s.strandsOf o lc).filter fun t => match t.res with | .leaving _ | .out => true | _ => false).length

/-- The next index at which an owner's distributor may take a step. -/
def Owner.stepTaken (w : Owner) (now : Nat) : Owner := { w with dist := { w.dist with next := now + 1 } }

/-- Room that a logical core frees is there for the distributor, which works on the state at the end of the previous index, from the next
one on (R278). -/
def State.roomFreed (s : State) (o now : Nat) : State :=
  s.modOwner o fun w => { w with dist := { w.dist with next := max w.dist.next (now + 1) } }

/-! ### RALLOC (R51) -/

/-- The count a strand's waiting RALLOC asks for, with the identity of the instruction and the owner cycle it began. -/
def Strand.ralloc? (t : Strand) : Option (Nat × Nat × Nat) :=
  match t.ctl.wait with
  | some ⟨.ralloc _, id, [m], since⟩ => some (m.toNat, id, since)
  | _ => none

/-- Does a strand wait in RALLOC for granules: quiet, and asking for more than it has? -/
def State.wantsMore (s : State) (t : Strand) : Bool :=
  match t.ralloc? with
  | some (m, id, _) => decide (t.n < m) && s.quietAt t (some id) && t.res == .here
  | none => false

/-- Does another strand of the logical core wait in a RALLOC that issued before one with identity `id`? Its rank stands while it is swapped
out (R51). [DEDUCED: notes/assumptions/52.md] -/
def State.olderWaiter (s : State) (t : Strand) (id : Nat) : Bool :=
  (s.strandsOf t.id.owner t.id.lcore).any fun u => u.id != t.id && s.wantsMore u && (match u.ralloc? with
    | some (_, k, _) => decide (k < id)
    | none => false)

/-- What RALLOC of `m` does now, when it can be served: the state and the count it writes. -/
def State.rallocNow (s : State) (t : Strand) (m id : Nat) : Option (State × Word) :=
  if !s.quietAt t (some id) then none
  else if m ≤ t.n then some (s, BitVec.ofNat 32 t.n)
  else if s.olderWaiter t id ∨ s.vectorFree t.id.owner t.id.lcore < t.slices * (granules m - granules t.n) then none
  else some (s.modStrand t.id fun t => { t with n := m }, BitVec.ofNat 32 t.n)

/-- RALLOC. A count that is out of range is the index that failed, of TADDR (R50, R296). [DEDUCED: notes/assumptions/53.md] -/
def execRalloc (x : XOps) (s : State) : Host.Outcome State Fault Refusal :=
  issueWith (.ralloc x) 1 (fun c s =>
    let m := c.n0 x.a
    if m < 8 ∨ 120 < m then .trapAll 0x02 0 (BitVec.ofNat 64 m)
    else match s.rallocNow c.t m s.nextId with
      | some (s', v) => .result s' 4 (c.fill x.d [v])
      | none => .wait s [BitVec.ofNat 64 m]) s

/-- RALLOC_GRANT: the quiet point is reached and the pool can serve the oldest waiter. [DEDUCED: notes/assumptions/52.md] -/
def execRallocGrant (i : StrandId) (s : State) : Host.Outcome State Fault Refusal :=
  match s.strand? i, waitOf s ⟨i, none⟩ with
  | some t, some ⟨.ralloc x, id, [m], _⟩ =>
    if t.res ≠ .here then .fault .notEnabled
    else match s.rallocNow t m.toNat id with
      | some (s', v) => .next (s'.complete ⟨i, none⟩ (some 4) fun c => c.fill x.d [v])
      | none => .fault .notEnabled
  | _, _ => .fault .notEnabled

/-! ### RFREE (R52) -/

/-- RFREE of a strand to a count: what it frees is room (R278). -/
def State.shrinkTo (s : State) (i : StrandId) (f : Strand → Strand) : State :=
  (s.modStrand i f).roomFreed i.owner ((s.ownerNow i.owner).getD 0)

/-- Lower a strand's count; the contents of what it frees are lost. -/
def Strand.shrink (t : Strand) (m : Nat) : Strand :=
  if t.n ≤ m then t
  else { t with n := m, cregs := t.cregs.filter fun x => decide (x.1 < m * 4), vregs := t.vregs.filter fun x => decide (x.1 < m * 32) }

/-- The effect of RFREE: a trap, whose TADDR holds the count, a wait for the quiet point, or the change. [DEDUCED: notes/assumptions/53.md] -/
def rfreeEff (a : Src) (c : Ctx) (s : State) : Eff :=
  let m := c.n0 a
  if m < 8 then .trapAll 0x02 0 (BitVec.ofNat 64 m)
  else if s.quietAt c.t none then .plain (s.shrinkTo c.cur.strand (·.shrink m))
  else .wait s [BitVec.ofNat 64 m]

def execRfree (a : Src) (s : State) : Host.Outcome State Fault Refusal := issueWith (.rfree a) 1 (rfreeEff a) s
def execRfreeLit (a : Src) (s : State) : Host.Outcome State Fault Refusal := issueWith (.rfreeLit a) 1 (rfreeEff a) s

/-- RFREE_QUIET_ACT: the quiet point that RFREE waits for is reached. -/
def execRfreeQuietAct (i : StrandId) (s : State) : Host.Outcome State Fault Refusal :=
  match s.strand? i, waitOf s ⟨i, none⟩ with
  | some t, some w =>
    match w.instr, w.vals with
    | .rfree _, [m] | .rfreeLit _, [m] =>
      if s.quietAt t (some w.id) then
        .next ((s.shrinkTo i (·.shrink m.toNat)).complete ⟨i, none⟩ none fun _ => [])
      else .fault .notEnabled
    | _, _ => .fault .notEnabled
  | _, _ => .fault .notEnabled

/-! ### Swap-out and swap-in (R53, R54) -/

/-- Owner cycles a swap-out or a swap-in of a strand takes (R54). -/
def Strand.swapCycles (t : Strand) : Nat := 400 + (128 * (t.slices * granules t.n + granules t.n) + 256 + 95) / 96

/-- Give a strand another identity, with the engine work it has in flight; the pipe and the ports forget it. [DEDUCED: notes/assumptions/52.md] -/
def State.renameStrand (s : State) (i j : StrandId) : State :=
  let f (k : StrandId) : StrandId := if k = i then j else k
  let s := s.modLcore i.owner i.lcore fun l => { l.forget i with
    copies := l.copies.map fun c => { c with strand := f c.strand }
    mats := l.mats.map fun m => { m with strand := f m.strand }
    held := l.held.map fun m => { m with strand := f m.strand }
    trecs := l.trecs.map fun r => { r with strand := f r.strand }
    yielded := l.yielded.map fun y => (f y.1, y.2) }
  { s with
    strands := s.strands.map fun t => { t with id := f t.id }
    intrs := s.intrs.map fun r => { r with strand := f r.strand }
    clauses := s.clauses.map fun x => (x.1, { x.2 with cmds := x.2.cmds.map fun m => { m with strand := f m.strand } }) }

/-- A number for a strand that holds no slot. -/
def State.outNumber (s : State) (o lc : Nat) : Nat :=
  (((List.range 64).map (· + 32)).find? fun k => !((s.strandsOf o lc).any fun t => t.id.slot == k)).getD 96

/-- A strand begins to leave. -/
def State.beginLeave (s : State) (t : Strand) (join : Bool) : State :=
  (s.modStrand t.id fun u => { u with
    res := .leaving (s.lcNow t.id.owner t.id.lcore + t.swapCycles), joinOut := join, leftAt := s.nextId
    leftNow := s.lcNow t.id.owner t.id.lcore }).fresh

/-- STRAND_SWAP_OUT: every resident strand waits in RALLOC and the oldest cannot be served, so the youngest other one is
swapped out (R53). [DESIGN CHOICE: notes/assumptions/69.md] -/
def execStrandSwapOut (o lc : Nat) (s : State) : Host.Outcome State Fault Refusal :=
  let here := (s.strandsOf o lc).filter fun t => t.res == .here
  let moving := (s.strandsOf o lc).any fun t => match t.res with | .leaving _ | .back _ => true | _ => false
  let waiters := here.filter s.wantsMore
  match waiters.find? fun t => match t.ralloc? with
    | some (_, id, _) => !s.olderWaiter t id
    | none => false with
  | none => .fault .notEnabled
  | some w =>
    let served : Bool := match w.ralloc? with | some (m, id, _) => (s.rallocNow w m id).isSome | none => true
    if served ∨ moving ∨ waiters.length ≠ here.length ∨ 32 ≤ s.swapped o lc then .fault .notEnabled
    else
      let others := here.filter fun t => t.id != w.id
      match others.find? fun t => others.all fun u => decide (u.age ≤ t.age) with
      | none => .fault .notEnabled
      | some t => .next (s.beginLeave t false)

/-- STRAND_SWAP_OUT_END: its slot and granules return to the pool (R53, R54). [DESIGN CHOICE: notes/assumptions/60.md] -/
def execStrandSwapOutEnd (i : StrandId) (s : State) : Host.Outcome State Fault Refusal :=
  match s.strand? i with
  | some t =>
    match t.res with
    | .leaving till =>
      if s.lcNow i.owner i.lcore < till then .fault .notEnabled
      else
        let j := { i with slot := s.outNumber i.owner i.lcore }
        .next ((((s.modStrand i fun t => { t with res := .out }).renameStrand i j).spillStrand j).roomFreed i.owner
          ((s.ownerNow i.owner).getD 0))
    | _ => .fault .notEnabled
  | none => .fault .notEnabled

/-- Has a logical core a slot and the granules that a swapped strand needs, with no resident RALLOC waiter unserved (R53)?
[DESIGN CHOICE: notes/assumptions/69.md] -/
def State.roomFor (s : State) (t : Strand) : Bool :=
  let o := t.id.owner; let lc := t.id.lcore
  !(s.slotsFree o lc).isEmpty && decide (t.slices * granules t.n ≤ s.vectorFree o lc) &&
  !((s.strandsOf o lc).any s.wantsMore)

/-- A swapped strand begins to come back, into the lowest free slot. [DEDUCED: notes/assumptions/52.md] -/
def State.beginReturn (s : State) (t : Strand) : State :=
  match s.slotsFree t.id.owner t.id.lcore with
  | k :: _ =>
    let till := s.lcNow t.id.owner t.id.lcore + t.swapCycles
    ((s.spillIn t).modStrand t.id fun u => { u with res := .back till }).renameStrand t.id { t.id with slot := k }
  | [] => s

/-- STRAND_SWAP_IN: the first strand that left by R53 returns. -/
def execStrandSwapIn (i : StrandId) (s : State) : Host.Outcome State Fault Refusal :=
  match s.strand? i with
  | some t =>
    let first := (s.strandsOf i.owner i.lcore).all fun u =>
      !(u.res == .out && !u.joinOut) || decide (t.leftAt ≤ u.leftAt)
    if t.res = .out ∧ ¬ t.joinOut ∧ first ∧ s.roomFor t then .next (s.beginReturn t) else .fault .notEnabled
  | none => .fault .notEnabled

end Sys2Proof.Machine
end

