-- ==== Sys2Proof/Machine/Sync.lean ====
section
/-!
DEFINITION. Batches, tags and barriers (spec/05 R187 to R191, R364, R367, R370, R402, R448, R453, R459, R460; R247): SEAL,
SWAIT, TWANY, TWALL, TFIRST, TCLR, BINIT, BARV, BWAIT, GSYNC, and the steps that end their waits.
-/

namespace Sys2Proof.Machine

/-! ### Batches (R189, R448) -/

/-- SEAL. -/
def execSeal (x : XOps) (s : State) : Host.Outcome State Fault Refusal :=
  issueWith (.seal x) 1 (fun c s =>
    .result (s.modStrand c.cur.strand fun t => { t with batch := t.batch + 1 }) 4 (c.fill x.d [c.t.batch])) s

/-- The batches that members still in flight of a strand belong to: copies, MAT commands, CLAUSE commands, refused CAOPENs too (R258). -/
def batchesOf (s : State) (t : Strand) : List Nat :=
  let mine (i : StrandId) (g : Nat) (b : Option Nat) : Option Nat := if i = t.id ∧ g = t.grp then b else none
  (match s.lcore? t.id.owner t.id.lcore with
   | some l => (l.copies.filterMap fun c => mine c.strand c.grp c.batch) ++
       ((l.mats ++ l.held).filterMap fun m => mine m.strand m.grp m.batch)
   | none => []) ++
  (s.clauses.flatMap fun x => x.2.cmds.filterMap fun m => mine m.strand m.grp (some m.batch)) ++
  (((s.owner? t.id.owner).map (·.opens)).getD []).filterMap (fun q => mine q.cmd.strand q.cmd.grp (some q.cmd.batch)) ++
  t.refusals.filterMap fun x => if s.lcNow t.id.owner t.id.lcore < x.2 then some x.1 else none

/-- Has a sealed batch that SWAIT of `a` covers a member in flight? -/
def swaitPending (s : State) (t : Strand) (a : Word) : Bool :=
  (batchesOf s t).any fun x => x != t.batch.toNat && decide ((a - BitVec.ofNat 32 x).toNat < 2 ^ 31)

/-- SWAIT. -/
def execSwait (x : XOps) (s : State) : Host.Outcome State Fault Refusal :=
  issueWith (.swait x) 1 (fun c s =>
    let a := c.lane0 x.a
    if swaitPending s c.t a then .wait s [a.setWidth 64] else .plain s) s

/-- SWAIT_COMPLETE. -/
def execSwaitComplete (i : StrandId) (s : State) : Host.Outcome State Fault Refusal :=
  match waitOf s ⟨i, none⟩, s.strand? i with
  | some ⟨.swait _, _, [a], _⟩, some t =>
    if swaitPending s t a.lo then .fault .notEnabled else .next (s.complete ⟨i, none⟩ none fun _ => [])
  | _, _ => .fault .notEnabled

/-! ### Tags (R187, R188, R453, R459) -/

/-- The tags a mask names. -/
def tagsOf (m : DWord) : List Nat := bitsOf 64 m.toNat

def LCore.tag (l : LCore) (g : Nat) : Tag := tblGet tag0 l.tags g

/-- The pair that reports a tag, or none. -/
def LCore.report (l : LCore) (g : Option Nat) : List Word :=
  match g with
  | some g => [BitVec.ofNat 32 (g + 256 * (l.tag g).code), (l.tag g).second]
  | none => [64, 0]

/-- The lowest named set tag. -/
def LCore.setTag (l : LCore) (m : DWord) : Option Nat := (tagsOf m).find? fun g => (l.tag g).bit
/-- The lowest named tag whose code is not OK. -/
def LCore.badTag (l : LCore) (m : DWord) : Option Nat := (tagsOf m).find? fun g => (l.tag g).code != 0
/-- Has some named tag a copy in flight? -/
def LCore.tagBusy (l : LCore) (m : DWord) : Bool := (tagsOf m).any fun g => (l.tag g).count != 0

/-- Does TWANY, or TWALL, wait? -/
def LCore.waitsAny (l : LCore) (m : DWord) : Bool := (l.setTag m).isNone && l.tagBusy m

/-- The shared issue of the tag waits. -/
def tagWait (i : Instr) (x : XOps) (waits : LCore → DWord → Bool) (pick : LCore → DWord → Option Nat) (s : State) :
    Host.Outcome State Fault Refusal :=
  issueWith i 1 (fun c s =>
    let m := c.pair0 x.a
    match s.lcore? c.cur.strand.owner c.cur.strand.lcore with
    | none => .result s 4 []
    | some l => if waits l m then .wait s [m] else .result s 4 (c.fill x.d (l.report (pick l m)))) s

/-- TWANY. -/
def execTwany (x : XOps) (s : State) : Host.Outcome State Fault Refusal :=
  tagWait (.twany x) x LCore.waitsAny LCore.setTag s

/-- TWALL: its return is an acquire toward the covered copies, which have all landed by then (R460). -/
def execTwall (x : XOps) (s : State) : Host.Outcome State Fault Refusal :=
  tagWait (.twall x) x LCore.tagBusy LCore.badTag s

/-- TWANY_RETURN. -/
def execTwanyReturn (i : StrandId) (s : State) : Host.Outcome State Fault Refusal :=
  match waitOf s ⟨i, none⟩, s.lcore? i.owner i.lcore with
  | some ⟨.twany x, _, [m], _⟩, some l =>
    if l.waitsAny m then .fault .notEnabled
    else .next (s.complete ⟨i, none⟩ (some 4) fun c => c.fill x.d (l.report (l.setTag m)))
  | _, _ => .fault .notEnabled

/-- TWALL_RETURN. -/
def execTwallReturn (i : StrandId) (s : State) : Host.Outcome State Fault Refusal :=
  match waitOf s ⟨i, none⟩, s.lcore? i.owner i.lcore with
  | some ⟨.twall x, _, [m], _⟩, some l =>
    if l.tagBusy m then .fault .notEnabled
    else .next (s.complete ⟨i, none⟩ (some 4) fun c => c.fill x.d (l.report (l.badTag m)))
  | _, _ => .fault .notEnabled

/-- TFIRST. -/
def execTfirst (x : XOps) (s : State) : Host.Outcome State Fault Refusal :=
  issueWith (.tfirst x) 1 (fun c s =>
    match s.lcore? c.cur.strand.owner c.cur.strand.lcore with
    | none => .result s 4 []
    | some l => .result s 4 (c.fill x.d (l.report (l.setTag (c.pair0 x.a))))) s

/-- Clear the bits of the named tags with no copy in flight. -/
def LCore.clearTags (l : LCore) (m : DWord) : LCore :=
  { l with tags := (tagsOf m).foldl (fun t g =>
    if (tblGet tag0 t g).count = 0 then tblSet tag0 t g { tblGet tag0 t g with bit := false } else t) l.tags }

/-- TCLR. -/
def execTclr (x : XOps) (s : State) : Host.Outcome State Fault Refusal :=
  issueWith (.tclr x) 1 (fun c s =>
    .plain (s.modLcore c.cur.strand.owner c.cur.strand.lcore (·.clearTags (c.pair0 x.a)))) s

/-! ### Barriers (R190, R191, R364, R367, R370) -/

def LCore.bar (l : LCore) (b : Nat) : Barrier := tblGet bar0 l.bars b
def LCore.setBar (l : LCore) (b : Nat) (x : Barrier) : LCore := { l with bars := tblSet bar0 l.bars b x }

/-- The trap of a barrier number above 255. -/
def badBar (b : Word) : Eff := .trapAll 0x08 0 (b.setWidth 64)

/-- BINIT starts a new generation, whose arrivals have no horizon yet. -/
def execBinit (x : XOps) (s : State) : Host.Outcome State Fault Refusal :=
  issueWith (.binit x) 1 (fun c s =>
    let b := c.lane0 x.a
    if 255 < b.toNat then badBar b
    else .plain (s.modLcore c.cur.strand.owner c.cur.strand.lcore fun l =>
      { l.setBar b.toNat { l.bar b.toNat with expected := c.lane0 x.b, arrived := 0, gen := (l.bar b.toNat).gen + 1 } with
        barHz := tblSet .none l.barHz b.toNat .none })) s

/-- BARV: a release at logical-core scope, whose arrival records its horizon (R247). -/
def execBarv (x : XOps) (s : State) : Host.Outcome State Fault Refusal :=
  issueWith (.barv x) 1 (fun c s =>
    let b := c.lane0 x.a
    let n := c.n0 x.b
    if 255 < b.toNat then badBar b
    else
      let h := s.horizon c.cur.strand [8] s.nextId
      .plain (s.modLcore c.cur.strand.owner c.cur.strand.lcore fun l =>
        let y := l.bar b.toNat
        if y.expected = 0 then l.setBar b.toNat { y with stale := satAdd y.stale n }
        else { l.setBar b.toNat { y with arrived := satAdd y.arrived n } with
               barHz := tblSet .none l.barHz b.toNat ((tblGet .none l.barHz b.toNat).join h) })) s

/-- Does a BWAIT wait on a barrier? -/
def Barrier.open_ (b : Barrier) : Bool := b.expected != 0 && decide (b.arrived < b.expected)

/-- A BWAIT that returns: what it reports, and the logical core after it took STALE. -/
def LCore.takeBar (l : LCore) (b : Nat) : List Word × LCore :=
  let y := l.bar b
  ([y.stale, if y.expected = 0 then 1 else 0], l.setBar b { y with stale := 0 })

/-- The acquire of a MET return (R247). -/
def barAcquire (s : State) (cur : Cur) (l : LCore) (b : Nat) : State :=
  let h := tblGet .none l.barHz b
  if (l.bar b).expected = 0 ∨ h = .none then s else s.modStream cur (·.takeHz [8] h)

/-- BWAIT tests after the other acts of its owner cycle. -/
def execBwait (x : XOps) (s : State) : Host.Outcome State Fault Refusal :=
  issueWith (.bwait x) 1 (fun c s =>
    let b := c.lane0 x.a
    let i := c.cur.strand
    if 255 < b.toNat then badBar b
    else match s.lcore? i.owner i.lcore with
      | none => .result s 4 []
      | some l =>
        let l := l.settleBars
        if (l.bar b.toNat).open_ then .wait s [b.setWidth 64]
        else .result (barAcquire (s.modLcore i.owner i.lcore fun _ => (l.takeBar b.toNat).2) c.cur l b.toNat) 4
          (c.fill x.d (l.takeBar b.toNat).1)) s

/-- BWAIT_RELEASE: the test of a waiting BWAIT, after the control instruction and the landings of the owner cycle.
[DEDUCED: notes/assumptions/37.md] -/
def execBwaitRelease (i : StrandId) (s : State) : Host.Outcome State Fault Refusal :=
  let cur : Cur := ⟨i, none⟩
  match waitOf s cur, s.lcore? i.owner i.lcore with
  | some ⟨.bwait x, _, [b], _⟩, some l =>
    let l := l.settleBars
    if (l.bar b.toNat).open_ then .fault .notEnabled
    else .next (barAcquire ((s.modLcore i.owner i.lcore fun _ => (l.takeBar b.toNat).2).complete cur (some 4)
      fun c => c.fill x.d (l.takeBar b.toNat).1) cur l b.toNat)
  | _, _ => .fault .notEnabled

/-! ### GSYNC (R191, R402) -/

/-- GSYNC waits at its place; the last strand of the group to issue it sets the owner cycle in which all go on. One that traps or whose
guard fails joins nothing. -/
def execGsync (x : XOps) (s : State) : Host.Outcome State Fault Refusal :=
  match issueWith (.gsync x) 1 (fun _ s => .wait s []) s, s.cur.bind (ctxAt s) with
  | .next t, some c =>
    .next (if (issueError c (.gsync x)).isNone && !(c.guarded x.g).lanes.isEmpty then t.gsyncCheck c.t.grp else t)
  | r, _ => r

/-- GSYNC_COMPLETE: every waiting control stream of the group goes on, with the greatest horizon of them all, an act of this owner cycle
among them (R247). -/
def execGsyncComplete (g : Nat) (s : State) : Host.Outcome State Fault Refusal :=
  match s.group? g with
  | some x =>
    match x.gsDue with
    | some due =>
      if s.lcNow x.owner x.lcore < due then .fault .notEnabled
      else
        let ws : List (StrandId × Nat) := s.strands.filterMap fun t =>
          match t.ctl.wait with
          | some ⟨.gsync _, id, _, _⟩ => if t.grp = g ∧ ¬ t.killed then some (t.id, id) else none
          | _ => none
        let h := (ws.map fun w => (s.horizon w.1 [8] w.2).join ⟨((s.strand? w.1).map (·.acted)).getD 0, []⟩).foldl Horizon.join .none
        let now := s.lcNow x.owner x.lcore
        .next (ws.foldl (fun s w => (s.complete ⟨w.1, none⟩ none fun _ => []).modStream ⟨w.1, none⟩ fun y =>
          { y.takeHz [8] h with ready := now, stood := now }) (s.modGroup g fun x => { x with gsDue := none }))
    | none => .fault .notEnabled
  | none => .fault .notEnabled

end Sys2Proof.Machine
end

