-- ==== Sys2Proof/Machine/Counters.lean ====
section
/-!
DEFINITION. Completion counters (spec/09 R271 to R273, R282 to R286; R374, R380, R409): the counter table, JOIN and its swap,
CNTRD, CANCEL, and how a cancelled strand stops.
-/

namespace Sys2Proof.Machine

/-! ### The table (R271 to R273) -/

def ctr0 : Counter := ⟨0, 0, 0, none, false⟩
def Owner.counter (w : Owner) (k : Nat) : Counter := tblGet ctr0 w.counters k
/-- A counter as it stood at the end of the previous index. [DEDUCED: notes/assumptions/55.md] -/
def Owner.before (w : Owner) (k : Nat) : Counter := tblGet ctr0 w.snap k
def Owner.setCounter (w : Owner) (k : Nat) (c : Counter) : Owner := { w with counters := tblSet ctr0 w.counters k c }

/-- The counter word (R272). -/
def Counter.word (c : Counter) (lmis : Bool) : Word :=
  BitVec.ofNat 32 (c.count % 2 ^ 24 + c.status * 2 ^ 24 + c.level * 2 ^ 26 + (if lmis then 2 ^ 28 else 0))

/-- Lower a counter; at zero its parent falls by one and takes a status that is not OK, up the levels (R273). -/
def lowerCounter : Nat → Owner → Nat → Nat → Owner
  | 0, w, _, _ => w
  | fuel + 1, w, k, n =>
    let c := w.counter k
    let c' := { c with count := c.count - n }
    let w := w.setCounter k c'
    if c.count ≠ 0 ∧ c'.count = 0 then
      match c.parent with
      | none => w
      | some p =>
        let d := w.counter p
        lowerCounter fuel (w.setCounter p { d with status := if c.status ≠ 0 ∧ d.status = 0 then c.status else d.status }) p 1
    else w

/-- Counters of a chain of parents at the most: there are 4,096 (R271). -/
def chainFuel : Nat := 4097

def Owner.lower (w : Owner) (k n : Nat) : Owner := lowerCounter chainFuel w k n
/-- Set the STATUS of a counter. -/
def Owner.setStatus (w : Owner) (k st : Nat) : Owner := w.setCounter k { w.counter k with status := st }

/-- Raise the counter one level above, by a launch (R273). -/
def Owner.raiseGraph (w : Owner) (g : Nat) : Owner :=
  let c := w.counter g
  w.setCounter g (if c.count = 0 then { c with status := 0, level := 1, count := 1 } else { c with count := c.count + 1 })

/-- The trap of a counter number that an instruction names (R271, R324). -/
def badCounter (s : State) (o k : Nat) : Bool :=
  match s.owner? o with
  | some w => decide (4095 < k ∨ w.orec.ctrq ≤ k)
  | none => true

/-! ### JOIN (R282, R283, R409) -/

/-- Is a counter the strand's own launch counter, or reached from it by PARENT as the table stood at the end of the previous index (R273)? -/
def reaches (w : Owner) (k : Nat) : Nat → Nat → Bool
  | 0, _ => false
  | fuel + 1, c => c == k || (match (w.before c).parent with
    | some p => reaches w k fuel p
    | none => false)

def execJoin (x : XOps) (s : State) : Host.Outcome State Fault Refusal :=
  issueWith (.join x) 1 (fun c s =>
    let o := c.cur.strand.owner
    let k := c.n0 x.a
    if badCounter s o k then .trapAll 0x08 0 (BitVec.ofNat 64 k)
    else match s.owner? o, s.group? c.t.grp with
      | some w, some g =>
        if reaches w k chainFuel g.comp then .trapAll 0x09 0 (BitVec.ofNat 64 k)
        else if (w.before k).count = 0 then .result s 4 (c.fill x.d [(w.before k).word false])
        else .wait s [BitVec.ofNat 64 k]
      | _, _ => .plain s) s

/-- The counter that a strand's JOIN waits for. -/
def Strand.join? (t : Strand) : Option (Nat × Nat × Nat) :=
  match t.ctl.wait with
  | some ⟨.join _, id, k :: _, since⟩ => some (k.toNat, id, since)
  | _ => none

/-- JOIN_OBSERVE_ZERO: a resident strand's JOIN sees a change from the next index on. -/
def execJoinObserveZero (i : StrandId) (s : State) : Host.Outcome State Fault Refusal :=
  match s.strand? i, waitOf s ⟨i, none⟩, s.owner? i.owner with
  | some t, some ⟨.join x, _, [k], _⟩, some w =>
    if t.res ≠ .here ∨ (w.before k.toNat).count ≠ 0 then .fault .notEnabled
    else .next (s.complete ⟨i, none⟩ (some 4) fun c => c.fill x.d [(w.before k.toNat).word false])
  | _, _, _ => .fault .notEnabled

/-- JOIN_SWAP_OUT (R283); a JSWAP written in this index counts from the next one on (R449). -/
def execJoinSwapOut (i : StrandId) (s : State) : Host.Outcome State Fault Refusal :=
  match s.strand? i, s.owner? i.owner with
  | some t, some w =>
    match t.join? with
    | some (k, id, since) =>
      if w.jswap = 0 ∨ t.res ≠ .here ∨ s.lcNow i.owner i.lcore < since + w.jswap.toNat ∨ (w.before k).count = 0 ∨
          32 ≤ s.swapped i.owner i.lcore ∨ ¬ s.quietAt t (some id) ∨ t.quietBy.isSome ∨ (w.jswapAt.isSome ∧ w.jswapAt = s.ownerNow i.owner)
      then .fault .notEnabled
      else .next (s.beginLeave t true)
    | none => .fault .notEnabled
  | _, _ => .fault .notEnabled

/-- JOIN_SWAP_IN: the distributor restores a strand whose counter reached zero; it keeps the word it is to write (R278,
R283). -/
def execJoinSwapIn (i : StrandId) (s : State) : Host.Outcome State Fault Refusal :=
  match s.strand? i, s.owner? i.owner, s.ownerNow i.owner with
  | some t, some w, some now =>
    match t.join? with
    | some (k, _, _) =>
      if t.res ≠ .out ∨ ¬ t.joinOut ∨ (w.before k).count ≠ 0 ∨ now < w.dist.next ∨ ¬ s.roomFor t then .fault .notEnabled
      else
        let word := ((w.before k).word false).setWidth 64
        .next ((s.modStrand i fun t => { t with ctl := { t.ctl with
          wait := t.ctl.wait.map fun x => { x with vals := [BitVec.ofNat 64 k, word] } } }).beginReturn t |>.modOwner i.owner
            (·.stepTaken now))
    | none => .fault .notEnabled
  | _, _, _ => .fault .notEnabled

/-- STRAND_SWAP_IN_END: the strand is resident again, the youngest (R47, R54); a swapped JOIN observes zero (R283). The count
of the watchdog goes on from where it stopped (R430), and a RALLOC keeps its rank (R51). [DEDUCED: notes/assumptions/52.md] -/
def execStrandSwapInEnd (i : StrandId) (s : State) : Host.Outcome State Fault Refusal :=
  match s.strand? i, s.lcore? i.owner i.lcore with
  | some t, some l =>
    let now := s.lcNow i.owner i.lcore
    match t.res with
    | .back till =>
      if now < till then .fault .notEnabled
      else
        let s := s.modStrand i fun t => { t with
          res := .here, age := l.nextAge, joinOut := false
          ctl := { t.ctl with wait := t.ctl.wait.map fun x => { x with since := x.since + (now - t.leftNow) } } }
        let s := s.modLcore i.owner i.lcore fun l => { l with nextAge := l.nextAge + 1 }
        .next (match waitOf s ⟨i, none⟩ with
          | some ⟨.join x, _, [_, v], _⟩ => s.complete ⟨i, none⟩ (some 4) fun c => c.fill x.d [v.lo]
          | _ => s)
    | _ => .fault .notEnabled
  | _, _ => .fault .notEnabled

/-! ### CNTRD (R284) -/

def execCntrd (x : XOps) (level : CLevel) (s : State) : Host.Outcome State Fault Refusal :=
  issueWith (.cntrd x level) 1 (fun c s =>
    let o := c.cur.strand.owner
    let k := c.n0 x.a
    if badCounter s o k then .trapAll 0x08 0 (BitVec.ofNat 64 k)
    else match s.owner? o with
      | some w =>
        let y := w.before k
        let par := match y.parent with | some p => BitVec.ofNat 32 (p + 4096) | none => 0
        .result s 4 (c.fill x.d [y.word (y.count != 0 && y.level != level.code), par])
      | none => .result s 4 []) s

/-! ### The deterministic adds of a launch (R246) -/

/-- The pending DET records of a launch in their order: group number, strand index, lane, issue (R246). -/
def detBefore (a b : DetRec) : Bool :=
  decide (a.group < b.group ∨ (a.group = b.group ∧ (a.index < b.index ∨ (a.index = b.index ∧ (a.lane < b.lane ∨
    (a.lane = b.lane ∧ a.seq ≤ b.seq))))))

def detInsert (d : DetRec) : List DetRec → List DetRec
  | [] => [d]
  | e :: l => if detBefore e d then e :: detInsert d l else d :: e :: l

/-- Where the word of a deterministic add lies now: its owner frame may have moved since the act (R215); behind a frame that is unusable, where
it lay then. [DEDUCED: notes/assumptions/34.md] -/
def State.detPlace (s : State) (d : DetRec) : Nat × Bool :=
  match s.placeIn d.owner d.page d.va with
  | .ok (.dev pa commons) => (pa, commons)
  | _ => (d.pa, false)

/-- One deterministic add (R149, R246). -/
def State.applyDet (s : State) (d : DetRec) : State :=
  let at_ := s.detPlace d
  let v := f32Add .rne (BitVec.ofNat 32 (s.num at_.1 4)) d.addend
  s.store d.owner d.va at_.1 (numBytes 4 v.toNat) none at_.2 none

/-- DET_RECORDS_APPLY: after a launch's last strand ends its records are applied in order, as one act. [DEDUCED: notes/assumptions/34.md] -/
def State.applyDets (s : State) (launch : Nat) : State :=
  let mine := (s.dets.filter fun d => d.launch == launch).foldl (fun l d => detInsert d l) []
  mine.foldl State.applyDet { s with dets := s.dets.filter fun d => d.launch != launch }

/-! ### CANCEL (R285, R286) -/

/-- Has a launch a group that has not ended? -/
def State.launchLives (s : State) (launch : Nat) : Bool := s.groups.any fun g => g.launch == launch

/-- Cancel a launch counter: the groups not placed, and those to be placed again, leave COUNT at once, the strands placed are to stop. A
launch of which no group is left ends with it: its DET records are applied first (R246). One that stands cancelled already goes on stopping.
The distributor, which works on the state at the end of the previous index, keeps it until the index ends (R273, R278). -/
def State.cancelLaunch (s : State) (o k : Nat) : State :=
  match s.owner? o with
  | none => s
  | some w =>
    let t := s.modOwner o fun w => w.setStatus k 1
    match w.launches.find? fun l => l.lrec.comp == k && l.cancelled.isNone with
    | none =>
      if w.launches.any fun l => l.lrec.comp == k && s.launchLives l.id then t
      else t.modOwner o fun w => w.lower k (w.counter k).count   -- in the overflow list: nothing of it is placed
    | some l =>
      let lives := s.launchLives l.id
      let t := if lives then t else t.applyDets l.id
      let again := (w.dist.again.filter fun x => x.1 == l.id).length
      let at_ := (s.ownerNow o).getD 0
      let s := t.modOwner o fun w => { (w.lower k (l.lrec.groups - l.placed + again)) with
        launches := (modWhere w.launches (fun x => x.id == l.id) fun x => { x with cancelled := some at_ }).filter fun x =>
          x.id != l.id || lives || l.queue.isSome }
      let mine (t : Strand) : Bool := t.id.owner == o && ((s.group? t.grp).map fun g => g.launch == l.id).getD false
      { s with strands := modWhere s.strands mine fun t => { t with
        quietBy := some (s.lcNow t.id.owner t.id.lcore + w.qtimeout.toNat) } }

/-- Some counters with every counter beneath them, parents first: `done` and those beneath `front` (R286: whatever their COUNT). -/
def Owner.beneath (w : Owner) : Nat → List Nat → List Nat → List Nat
  | 0, done, _ => done
  | fuel + 1, done, front =>
    if front.isEmpty then done
    else
      let seen := done ++ front
      w.beneath fuel seen ((w.counters.filter fun x => (x.2.parent.map front.contains).getD false && !seen.contains x.1).map (·.1))

/-- The STATUS of a counter that reached zero in this index goes up to its parents anew: changes of an index precede any test (R273). -/
def Owner.statusUp : Nat → Owner → Nat → Owner
  | 0, w, _ => w
  | fuel + 1, w, k =>
    let c := w.counter k
    match c.parent with
    | some p =>
      if c.count = 0 ∧ (w.before k).count ≠ 0 ∧ c.status ≠ 0 ∧ (w.counter p).status = 0 then Owner.statusUp fuel (w.setStatus p c.status) p
      else w
    | none => w

/-- Cancel a counter and every counter beneath it (R286). -/
def State.cancelTree (s : State) (o k : Nat) : State :=
  match s.owner? o with
  | none => s
  | some w =>
    let all := w.beneath chainFuel [] [k]
    let s := s.modOwner o fun w => (all.filter fun c => (w.counter c).level != 0).foldl (fun w c => w.setStatus c 1) w
    ((all.filter fun c => (w.counter c).level == 0).foldl (fun s c => s.cancelLaunch o c) s).modOwner o
      fun w => all.foldl (Owner.statusUp chainFuel) w

/-- CANCEL of a counter at a level: its state after and its status. A member that ended in the same index counts as not yet
ended (R295). [DEDUCED: notes/assumptions/33.md] -/
def State.cancel (s : State) (o level k : Nat) : State × Nat :=
  match s.owner? o with
  | none => (s, 1)
  | some w =>
    let c := w.counter k
    if c.count = 0 ∧ (w.before k).count = 0 then (s, 1)
    else if c.level ≠ level then (s, 2)
    else (s.cancelTree o k, 0)

def execCancel (x : XOps) (level : CLevel) (s : State) : Host.Outcome State Fault Refusal :=
  issueWith (.cancel x level) 1 (fun c s =>
    let o := c.cur.strand.owner
    let k := c.n0 x.a
    if badCounter s o k then .trapAll 0x08 0 (BitVec.ofNat 64 k)
    else
      let (s', v) := s.cancel o level.code k
      .result s' 4 (c.fill x.d [BitVec.ofNat 32 v])) s

/-- A strand stops for good at a quiet point: both streams, as after EXIT and END. -/
def State.stopStrand (s : State) (i : StrandId) : State :=
  s.modStrand i fun t => { t with
    cst := .exited, ctl := t.ctl.stopped, sets := t.sets.map fun g => { g with st := .stopped, str := g.str.stopped } }

/-- CANCEL_STRAND_STOP: a cancelled strand stops at its next quiet point; one not yet resident, at its start.
[DEDUCED: notes/assumptions/33.md] -/
def execCancelStrandStop (i : StrandId) (s : State) : Host.Outcome State Fault Refusal :=
  match s.strand? i with
  | some t =>
    if t.quietBy.isSome ∧ ¬ t.killed ∧ t.cst = .run ∧ t.res = .here ∧ s.quietAt t none then .next (s.stopStrand i)
    else .fault .notEnabled
  | none => .fault .notEnabled

/-- CANCEL_QTIMEOUT_KILL: a cancelled strand that is not quiet within QTIMEOUT is killed. [DEDUCED: notes/assumptions/33.md] -/
def execCancelQtimeoutKill (i : StrandId) (s : State) : Host.Outcome State Fault Refusal :=
  match s.strand? i with
  | some t =>
    match t.quietBy with
    | some d =>
      if s.lcNow i.owner i.lcore < d ∨ t.killed ∨ (t.cst = .exited ∧ t.sets.all (·.st == .stopped)) then .fault .notEnabled
      else .next (s.killStrand i)
    | none => .fault .notEnabled
  | none => .fault .notEnabled

end Sys2Proof.Machine
end

