-- ==== Sys2Proof/Machine/Control.lean ====
section
/-!
DEFINITION. Control flow (spec/02 R89; spec/10 R299, R302, R303; the entries of BRA, BRC, CALL, JMP, EXIT, YIELD, TRAP, ERET,
NOP): branches, the return from a handler and the disposal of a queued trap.
-/

namespace Sys2Proof.Machine

/-- NOP (R424). -/
def execNop (s : State) : Host.Outcome State Fault Refusal := issueWith .nop 1 (fun _ s => .plain s) s

/-- Is a byte address inside the instruction store of a strand's owner (R89)?
[DEDUCED: notes/assumptions/40.md; DEDUCED: notes/assumptions/48.md] -/
def storeAddr (s : State) (i : StrandId) (a : Int) : Bool :=
  match s.owner? i.owner with
  | some w => decide (0 ≤ a ∧ a < 0x40000 ∧ a < w.orec.isq)
  | none => false

/-- A branch target: the address of the branch's first word and a word offset (R368). [DEDUCED: notes/assumptions/48.md] -/
def branchTarget (c : Ctx) (off : Int) : Int := (c.str.pc.toNat : Int) + 4 * off

/-- Go to a target, or raise the address trap at the branch (R368). -/
def jumpTo (c : Ctx) (s : State) (a : Int) (writes : List (Nat × Nat × Word)) (lat : Option Nat) : Eff :=
  if storeAddr s c.cur.strand a then .done s lat writes (some (BitVec.ofInt 32 a))
  else .trapAll 0x08 0 (BitVec.ofInt 64 a)

def execBra (off : BitVec 21) (s : State) : Host.Outcome State Fault Refusal :=
  issueWith (.bra off) 1 (fun c s => jumpTo c s (branchTarget c off.toInt) [] none) s

/-- BRC tests lane 0 of A (R69, R368). -/
def execBrc (cond : Cond) (a : Src) (off : Word) (s : State) : Host.Outcome State Fault Refusal :=
  issueWith (.brc cond a off) 1 (fun c s =>
    if condHolds cond (c.src a 0) then jumpTo c s (branchTarget c off.toInt) [] none else .plain s) s

/-- CALL writes the return address in all four lanes (R372). -/
def execCall (d : Dst) (off : Word) (s : State) : Host.Outcome State Fault Refusal :=
  issueWith (.call d off) 1 (fun c s =>
    jumpTo c s (branchTarget c off.toInt) (c.fill d [c.str.pc + 8]) (some 4)) s

/-- The effect of JMP: alignment, then the store's end (R408). -/
def jumpReg (a : Src) (c : Ctx) (s : State) : Eff :=
  let t := c.lane0 a
  if t.toNat % 4 ≠ 0 then .trapAll 0x06 0 (t.setWidth 64) else jumpTo c s t.toNat [] none

def execJmp (a : Src) (s : State) : Host.Outcome State Fault Refusal := issueWith (.jmp a) 1 (jumpReg a) s
def execJmpLit (a : Src) (s : State) : Host.Outcome State Fault Refusal := issueWith (.jmpLit a) 1 (jumpReg a) s

/-- YIELD: the control pipe passes over the strand in the next owner cycle (R475). -/
def execYield (s : State) : Host.Outcome State Fault Refusal :=
  issueWith .yield 1 (fun c s => .plain (s.modLcore c.cur.strand.owner c.cur.strand.lcore fun l =>
    { l with yielded := some (c.cur.strand, l.ocyc) })) s

/-- TRAP raises cause 0x12 with its code in TADDR (R457). A gang's TRAP issues once its pending results are written. -/
def execTrap (code : BitVec 14) (s : State) : Host.Outcome State Fault Refusal :=
  issueWith (.trap code) 1 (fun _ _ => .trapAll 0x12 0 (code.setWidth 64)) s

/-! ### ERET (R302, R303) -/

/-- The in-place form. -/
def execEret (x : XOps) (s : State) : Host.Outcome State Fault Refusal :=
  issueWith (.eret x) 1 (fun c s =>
    if c.t.depth = 0 then
      .done (s.modStream c.cur fun q => { q with replay := none }) none [] (some (c.str.pc + 12))
    else .done (s.modStrand c.cur.strand (·.eretInPlace c.now)) none [] (some c.t.tpc)) s

/-- Bytes of the instruction at an address, by its LEN field (R58). -/
def instrBytes (s : State) (o : Nat) (pc : Word) : Nat :=
  4 * lenWords (((s.owner? o).map fun w => tblGet 0 w.code (pc.toNat / 4)).getD 0)

/-- The open windows of a stream end: what is not yet written holds the next instruction back (R40, R303). -/
def Stream.closeWindows (x : Stream) : Stream := { x with res := x.res.map fun r => { r with left := 0 } }

/-- The streams of a strand. -/
def Strand.streamKeys (t : Strand) : List (Option Nat) := none :: t.sets.map fun g => some g.key

/-- The stream of an owner that a record names and that waits for ERET (R302). -/
def awaiting (s : State) (o : Nat) (tstrand tpc : Word) : Option (Cur × Trap) :=
  s.strands.findSome? fun t =>
    if t.id.owner = o then
      t.streamKeys.findSome? fun k =>
        match t.stream? k with
        | some x => match x.trap with
          | some ⟨tr, .await, _, _⟩ => if t.tstrandOf k = tstrand ∧ t.tpcOf k = tpc then some (⟨t.id, k⟩, tr) else none
          | _ => none
        | none => none
    else none

/-- Does a gang set stand idle, so that its trap came from a token (R477)? -/
def idleSet (s : State) (c : Cur) : Bool :=
  match s.strand? c.strand, c.set with
  | some t, some k => match t.set? k with
    | some g => g.st == .idle
    | none => false
  | _, _ => false

/-- Take slices off a token, and the entry away once every slice has taken it (R20). -/
def dropSlices (l : List Token) (id : Nat) (slices : List Nat) : List Token :=
  (modWhere l (fun k => k.id == id) fun k => { k with left := k.left.filter fun i => !slices.contains i }).filter
    (!·.left.isEmpty)

/-- The first token that names a slice of a set (R21). -/
def Strand.tokenOf (t : Strand) (g : GSet) : Option Token := t.flume.find? fun k => k.left.any g.slices.contains

/-- RETRY (R302, R303, R477). An idle set may take a token at once. [DESIGN CHOICE: notes/assumptions/72.md] -/
def disposeRetry (s : State) (c : Cur) (tr : Trap) : State :=
  let now := s.lcNow c.strand.owner c.strand.lcore
  s.modStream c fun x =>
    if idleSet s c then { x with trap := none }
    else { x.closeWindows with trap := none, wait := none, replay := some tr.mask, ready := now + 2, stood := now + 2 }

/-- NEXT (R302, R477). An idle set may take its next token at once. [DEDUCED: notes/assumptions/40.md; DESIGN CHOICE: notes/assumptions/72.md] -/
def disposeNext (s : State) (c : Cur) : State :=
  let now := s.lcNow c.strand.owner c.strand.lcore
  if idleSet s c then
    (s.modStream c fun x => { x with trap := none }).modStrand c.strand fun t =>
      match (c.set.bind t.set?) with
      | some g => match t.tokenOf g with
        | some k => { t with flume := dropSlices t.flume k.id g.slices }
        | none => t
      | none => t
  else s.modStream c fun x =>
    { x.closeWindows with trap := none, wait := none, replay := none, ready := now + 2, stood := now + 2,
                          pc := x.pc + BitVec.ofNat 32 (instrBytes s c.strand.owner x.pc) }

/-- KILL, counted as by the SUPER handler (R302, R281). -/
def disposeKill (s : State) (c : Cur) : State :=
  match s.strand? c.strand with
  | some t => (s.faultGroup t.grp).killStrand c.strand
  | none => s

/-- Note on a strand who disposed of one of its streams, and in which owner cycle; of those of this one (R323). -/
def noteDispose (s : State) (i by_ : StrandId) : State :=
  let now := s.lcNow i.owner i.lcore
  s.modStrand i fun t => { t with disposed := (t.disposed.filter fun d => d.2.2 == now) ++ [(by_, s.nextId, now)] }

/-- The dispose form, by a strand's ERET: the state after it and its status. -/
def dispose (s : State) (by_ : StrandId) (tstrand tpc action : Word) : State × Word :=
  match awaiting s by_.owner tstrand tpc with
  | none => (s, 1)
  | some (c, tr) =>
    if action = 0 then (noteDispose (disposeRetry s c tr) c.strand by_, 0)
    else if action = 1 then (noteDispose (disposeNext s c) c.strand by_, 0)
    else if action = 2 then (disposeKill s c, 0)
    else (s, 2)

def execEretDispose (x : XOps) (s : State) : Host.Outcome State Fault Refusal :=
  issueWith (.eretDispose x) 1 (fun c s =>
    let (s', v) := dispose s c.cur.strand (c.lane0 x.a) (c.lane0 x.b) (c.lane0 x.c)
    .result s' 4 (c.fill x.d [v])) s

/-- TRAP_IN_PLACE_ENTRY: a trapped control stream whose pending results are written enters its handler (R299). -/
def execTrapInPlaceEntry (i : StrandId) (s : State) : Host.Outcome State Fault Refusal :=
  match s.strand? i with
  | some t =>
    match t.ctl.trap with
    | some ⟨tr, .entry, _, _⟩ => if t.ctl.res.all (·.written) then .next (s.trapEntry i tr) else .fault .notEnabled
    | _ => .fault .notEnabled
  | none => .fault .notEnabled

end Sys2Proof.Machine
end

