-- ==== Sys2Proof/Machine/Flume.lean ====
section
/-!
DEFINITION. The flume, vector blocks and the return queue (spec/01_strands.md R17 to R36, R477; spec/10 R292; the entries of
FRUN, FTRIP, FMASK, FVAL, REGANG, EXIT, VEND, VLEND, VLOOP, VPOP, VSEND, FRECV) with the steps by which gang sets take tokens.
-/

namespace Sys2Proof.Machine

/-! ### Sending tokens (R18 to R20, R36) -/

/-- Put a token into the flume: its stamp is the clock of the control stream, its horizon counts when it is released. -/
def State.send (s : State) (c : Ctx) (kind : TokKind) (payload : Word) (mask : List Nat) (rel : Bool) : State :=
  let k : Token := ⟨s.nextId, kind, payload, mask, mask, c.now, c.t.lclk,
    if rel then s.horizon c.cur.strand [8] s.nextId else .none⟩
  (s.modStrand c.cur.strand fun t => { t with flume := t.flume ++ [k] }).fresh

/-- A flume instruction: misuse when its mask is wrong (R19), a wait at issue when the flume is full (R20). -/
def sendEff (kind : TokKind) (a : Src) (mask : BitVec 8) (rel : Bool) (c : Ctx) (s : State) : Eff :=
  if mask = 0 ∨ c.t.slices ≤ Nat.log2 mask.toNat then .trapAll 0x05 0 0
  else if c.t.flume.length ≥ 16 then .stall
  else .plain (s.send c kind (c.lane0 a) (bitsOf 8 mask.toNat) rel)

def execFrun (x : XOps) (mask : BitVec 8) (rel : Bool) (s : State) : Host.Outcome State Fault Refusal :=
  issueWith (.frun x mask rel) 1 (sendEff .run x.a mask rel) s
def execFtrip (x : XOps) (mask : BitVec 8) (s : State) : Host.Outcome State Fault Refusal :=
  issueWith (.ftrip x mask) 1 (sendEff .trip x.a mask false) s
def execFmask (x : XOps) (mask : BitVec 8) (s : State) : Host.Outcome State Fault Refusal :=
  issueWith (.fmask x mask) 1 (sendEff .mask x.a mask false) s
def execFval (x : XOps) (mask : BitVec 8) (rel : Bool) (s : State) : Host.Outcome State Fault Refusal :=
  issueWith (.fval x mask rel) 1 (sendEff .val x.a mask rel) s
def execRegang (x : XOps) (mask : BitVec 8) (s : State) : Host.Outcome State Fault Refusal :=
  issueWith (.regang x mask) 1 (sendEff .regang .zero mask false) s

/-- EXIT sends END to every slice and stops the control stream (R36). It issues once every pending control result is
written. -/
def execExit (s : State) : Host.Outcome State Fault Refusal :=
  issueWith .exit 1 (fun c s =>
    if c.t.flume.length ≥ 16 then .stall
    else .plain ((s.send c .fin 0 (List.range c.t.slices) false).modStrand c.cur.strand fun t => { t with cst := .exited })) s

/-- FLUME_SEND_RESUME: a flume instruction or EXIT that waited on a full flume issues (R20). -/
def execFlumeSendResume (i : StrandId) (s : State) : Host.Outcome State Fault Refusal :=
  let cur : Cur := ⟨i, none⟩
  match (waitOf s cur).map Wait.instr with
  | some (.frun x m r) => resumeWith cur (execFrun x m r) s
  | some (.ftrip x m) => resumeWith cur (execFtrip x m) s
  | some (.fmask x m) => resumeWith cur (execFmask x m) s
  | some (.fval x m r) => resumeWith cur (execFval x m r) s
  | some (.regang x m) => resumeWith cur (execRegang x m) s
  | some .exit => resumeWith cur execExit s
  | _ => .fault .notEnabled

/-! ### Loops and the end of a block (R26 to R28, R461) -/

/-- A word of an owner's instruction store; none at or beyond its end (R83, R89). [DESIGN CHOICE: notes/assumptions/10.md] -/
def codeWord (s : State) (o : Nat) (a : Nat) : Option Word :=
  match s.owner? o with
  | some w => if a < 0x40000 ∧ a < w.orec.isq then some (tblGet 0 w.code (a / 4)) else none
  | none => none

/-- Up to `n` words from an address, as far as the store reaches. -/
def codeWords (s : State) (o a : Nat) : Nat → List Word
  | 0 => []
  | n + 1 => match codeWord s o a with
    | some w => w :: codeWords s o (a + 4) n
    | none => []

/-- The matching VLEND from an address: VLOOPs and VLENDs are counted up to the block's VEND, over at most `fuel`
instructions. -/
def findVlend (s : State) (o : Nat) : Nat → Nat → Nat → Option Nat
  | 0, _, _ => none
  | fuel + 1, nest, a =>
    match codeWords s o a 5 with
    | [] => none
    | w :: ws =>
      let next := a + 4 * lenWords w
      match decode (w :: ws) with
      | .ok (.vend, _) => none
      | .ok (.vlend, _) => if nest = 0 then some a else findVlend s o fuel (nest - 1) next
      | .ok (.vloop .., _) => findVlend s o fuel (nest + 1) next
      | _ => findVlend s o fuel nest next

/-- Change the gang set of a stream. -/
def State.modSetOf (s : State) (c : Cur) (f : GSet → GSet) : State :=
  s.modStrand c.strand fun t => match c.set with
    | some k => t.modSet k f
    | none => t

/-- The gang set of a context. -/
def Ctx.set? (c : Ctx) : Option GSet := c.cur.set.bind c.t.set?

/-- VEND: the set is idle from the next owner cycle on (R26, R462). It issues once its pending results are written. -/
def execVend (s : State) : Host.Outcome State Fault Refusal :=
  issueWith .vend 1 (fun c s =>
    match c.set? with
    | none => .plain s
    | some g =>
      if g.loops.isEmpty then
        .plain (s.modSetOf c.cur fun g => { g with st := .idle, lastVend := c.str.pc, str := { g.str with res := [] } })
      else .trapAll 0x04 0 0) s

/-- VLEND (R28). -/
def execVlend (s : State) : Host.Outcome State Fault Refusal :=
  issueWith .vlend 1 (fun c s =>
    match c.set?.map (·.loops) with
    | some (l :: ls) =>
      let n := l.count - 1
      if n = 0 then .plain (s.modSetOf c.cur fun g => { g with loops := ls })
      else .free (s.modSetOf c.cur fun g => { g with loops := { l with count := n } :: ls }) l.body
    | _ => .trapAll 0x04 0 0) s

/-! ### In-block tokens (R24) -/

/-- What a gang finds at VPOP or VLOOP: nothing yet, one token for every slice, or misuse. -/
inductive Found
  | nothing
  | token (k : Token)
  | misuse
  deriving DecidableEq, Repr

/-- The token a gang finds: each slice's next one among those that have arrived (R21, R24). -/
def findToken (t : Strand) (g : GSet) (now : Nat) : Found :=
  let next (i : Nat) : Option Token := t.flume.find? fun k => k.left.contains i && decide (k.sent + 2 ≤ now)
  match next g.key with
  | none => if g.slices.any fun i => (next i).isSome then .misuse else .nothing
  | some k => if g.slices.all fun i => (next i).map (·.id) == some k.id then .token k else .misuse

/-- Take an in-block token for a whole gang; taking a released one is an acquire (R236, R247). -/
def State.takeToken (s : State) (c : Ctx) (k : Token) (slices : List Nat) : State :=
  let s := s.modStrand c.cur.strand fun t => { t with flume := dropSlices t.flume k.id slices }
  if k.hz = .none then s else s.modStream c.cur (·.takeHz slices k.hz)

/-- VPOP writes the payload in every lane of the gang, whatever the block mask (R29, R465). -/
def execVpop (d : Dst) (s : State) : Host.Outcome State Fault Refusal :=
  issueWith (.vpop d) 1 (fun c s =>
    match c.set? with
    | none => .plain s
    | some g =>
      match findToken c.t g c.now with
      | .nothing => .stall
      | .misuse => .trapAll 0x05 0 0
      | .token k =>
        if k.kind = .val then
          .result (s.takeToken c k g.slices) 4 ((replayLanes c.str.replay c.all).flatMap fun l => dstOuts d l [k.payload])
        else .trapAll 0x05 0 0) s

/-- Open a loop of `n` passes, or skip it (R27). -/
def openLoop (c : Ctx) (i : Instr) (last : Nat) (n : Word) (s : State) : Eff :=
  if n = 0 then .done s none [] (some (BitVec.ofNat 32 (last + 4)))
  else .plain (s.modSetOf c.cur fun g => { g with
    loops := ⟨n, c.str.pc + BitVec.ofNat 32 (4 * i.words), BitVec.ofNat 32 last⟩ :: g.loops })

/-- VLOOP (R27, R461). -/
def execVloop (x : XOps) (ft : Bool) (s : State) : Host.Outcome State Fault Refusal :=
  let i : Instr := .vloop x ft
  issueWith i 1 (fun c s =>
    match c.set? with
    | none => .plain s
    | some g =>
      if g.loops.length ≥ 3 then .trapAll 0x04 0 0
      else match findVlend s c.cur.strand.owner 256 0 (c.str.pc.toNat + 4 * i.words) with
        | none => .trapAll 0x04 0 0
        | some last =>
          if ft then
            match findToken c.t g c.now with
            | .nothing => .stall
            | .misuse => .trapAll 0x05 0 0
            | .token k =>
              if k.kind = .trip then openLoop c i last k.payload (s.takeToken c k g.slices) else .trapAll 0x05 0 0
          else openLoop c i last (c.src x.a (c.all.headD 0)) s) s

/-- VPOP_TAKES_VAL: a VPOP that waited on the flume issues. -/
def execVpopTakesVal (i : StrandId) (k : Nat) (s : State) : Host.Outcome State Fault Refusal :=
  let cur : Cur := ⟨i, some k⟩
  match (waitOf s cur).map Wait.instr with
  | some (.vpop d) => resumeWith cur (execVpop d) s
  | _ => .fault .notEnabled

/-- VLOOP_TAKES_TRIP: a VLOOP with FT that waited on the flume issues. -/
def execVloopTakesTrip (i : StrandId) (k : Nat) (s : State) : Host.Outcome State Fault Refusal :=
  let cur : Cur := ⟨i, some k⟩
  match (waitOf s cur).map Wait.instr with
  | some (.vloop x ft) => resumeWith cur (execVloop x ft) s
  | _ => .fault .notEnabled

/-! ### Idle gang sets take tokens (R21 to R25, R477) -/

/-- Insert a set, sets ascending by lowest slice. -/
def putSet (l : List GSet) (g : GSet) : List GSet :=
  match l with
  | [] => [g]
  | h :: t => if g.key < h.key then g :: h :: t else h :: putSet t g

/-- The sets of a strand after a token took the named slices out of a set: `f` says what becomes of them (R23).
[DEDUCED: notes/assumptions/49.md] -/
def splitSets (l : List GSet) (g : GSet) (named : List Nat) (f : GSet → GSet) : List GSet :=
  let others := l.filter fun h => h.key != g.key
  let rest := g.slices.filter fun i => !named.contains i
  let l := if rest.isEmpty then others else putSet others { g with slices := rest, str := g.str.onlyOf rest }
  putSet l (f { g with slices := named, str := g.str.onlyOf named })

/-- An idle gang set and its next token, arrived (R21). -/
def idleToken (s : State) (i : StrandId) (k : Nat) : Option (Strand × GSet × Token × Nat) :=
  match s.strand? i with
  | none => none
  | some t =>
    let now := s.lcNow i.owner i.lcore
    match t.set? k with
    | none => none
    | some g =>
      match t.tokenOf g with
      | none => none
      | some e =>
        if g.st = .idle ∧ g.str.trap.isNone ∧ g.str.ready ≤ now ∧ e.sent + 2 ≤ now ∧ ¬ t.killed then some (t, g, e, now)
        else none

/-- Flume misuse of an idle gang set: the token stays (R22, R477). [DEDUCED: notes/assumptions/49.md] -/
def idleMisuse (s : State) (t : Strand) (g : GSet) : State :=
  let lanes := g.slices.flatMap fun i => [4 * i, 4 * i + 1, 4 * i + 2, 4 * i + 3]
  s.takeTrap ⟨t.id, some g.key⟩ ⟨0x05, 0, 0, BitVec.ofNat 32 (maskOf (lanes.filter fun l => t.bmask.toNat.testBit l))⟩ false

/-- What an idle set does with its next token: its own kind of step, or misuse for a token it may not meet. [DEDUCED: notes/assumptions/49.md] -/
def takeIdle (i : StrandId) (k : Nat) (kind : TokKind) (f : Strand → GSet → Token → List Nat → Nat → Strand) (s : State) :
    Host.Outcome State Fault Refusal :=
  match idleToken s i k with
  | none => .fault .notEnabled
  | some (t, g, e, now) =>
    if e.kind = .trip ∨ e.kind = .val then .next (idleMisuse s t g)
    else if e.kind = kind then .next (s.modStrand i fun t => f t g e (g.slices.filter e.left.contains) now)
    else .fault .notEnabled

/-- SLICE_TAKES_RUN: the named slices part from their set and stand at the block (R23, R25). An address beyond 32 bits
stands as one that no store reaches, so that its fetch traps. [DEDUCED: notes/assumptions/48.md] -/
def execSliceTakesRun (i : StrandId) (k : Nat) (s : State) : Host.Outcome State Fault Refusal :=
  takeIdle i k .run (fun t g e named now =>
    let a := t.vbase.toNat + 4 * e.payload.toNat
    let f (h : GSet) : GSet := { h with
      st := .block, loops := [], clock := e.stamp
      str := ({ h.str with pc := if a < 2 ^ 32 then BitVec.ofNat 32 a else 0xFFFFFFFC, ready := now + 1, stood := now + 1, res := [],
                           replay := none } : Stream).takeHz h.slices e.hz }
    { t with sets := splitSets t.sets g named f, flume := dropSlices t.flume e.id named }) s

/-- SLICE_TAKES_MASK: four bits of block mask for each named slice; no set parts (R22, R23). The set stays ready, so that a
RUN that has arrived may follow in the same owner cycle. [DESIGN CHOICE: notes/assumptions/63.md] -/
def execSliceTakesMask (i : StrandId) (k : Nat) (s : State) : Host.Outcome State Fault Refusal :=
  takeIdle i k .mask (fun t _ e named _ =>
    let m := BitVec.ofNat 32 (maskOf (named.flatMap fun i => [4 * i, 4 * i + 1, 4 * i + 2, 4 * i + 3]))
    { t with bmask := (t.bmask &&& ~~~m) ||| (e.payload &&& m), flume := dropSlices t.flume e.id named }) s

/-- Fuse the sets that wait at a REGANG once every named slice is there (R23).
[DEDUCED: notes/assumptions/49.md; DESIGN CHOICE: notes/assumptions/63.md] -/
def fuse (t : Strand) (e : Token) : Strand :=
  let here := t.sets.filter fun g => g.st == .regang e.id
  let union := (List.range 8).filter fun i => here.any (·.slices.contains i)
  if union = e.mask then
    match here with
    | [] => t
    | g :: gs =>
      { t with
        sets := putSet (t.sets.filter fun h => !(h.st == .regang e.id)) { g with
          slices := union, st := .idle, str := gs.foldl (fun x h => x.joinHz h.str) g.str }
        flume := dropSlices t.flume e.id e.mask }
  else t

/-- SLICE_TAKES_REGANG: the named slices leave their set and wait at the token until all are there (R23, R432). -/
def execSliceTakesRegang (i : StrandId) (k : Nat) (s : State) : Host.Outcome State Fault Refusal :=
  takeIdle i k .regang (fun t g e named _ =>
    fuse { t with sets := splitSets t.sets g named fun h => { h with st := .regang e.id } } e) s

/-- SLICE_TAKES_END: the slices stop for the strand's life (R22, R36). -/
def execSliceTakesEnd (i : StrandId) (k : Nat) (s : State) : Host.Outcome State Fault Refusal :=
  takeIdle i k .fin (fun t g e named _ =>
    { t with sets := splitSets t.sets g named fun h => { h with st := .stopped }, flume := dropSlices t.flume e.id named }) s

/-! ### The return queue (R31 to R35) -/

/-- The value of a VSEND and its push; it waits at issue while all 8 places are taken (R33). -/
def vsendEff (m : SendMode) (a : Src) (c : Ctx) (s : State) : Eff :=
  if c.t.rq.length ≥ 8 then .stall
  else
    let hz := s.horizon c.cur.strand (s.agentsOf c.cur) s.nextId
    let e : RqEntry := ⟨sendValue m (c.lanes.map fun l => (l, c.src a l)), c.now + 4, false, hz⟩
    .plain (s.modStrand c.cur.strand fun t => { t with rq := t.rq ++ [e] })

def execVsend (m : SendMode) (a : Src) (s : State) : Host.Outcome State Fault Refusal :=
  issueWith (.vsend m a) 1 (vsendEff m a) s
def execVsendLit (m : SendMode) (a : Src) (s : State) : Host.Outcome State Fault Refusal :=
  issueWith (.vsendLit m a) 1 (vsendEff m a) s

/-- VSEND_PUSH_RESUME: a VSEND that waited on a full return queue issues (R33). -/
def execVsendPushResume (i : StrandId) (k : Nat) (s : State) : Host.Outcome State Fault Refusal :=
  let cur : Cur := ⟨i, some k⟩
  match (waitOf s cur).map Wait.instr with
  | some (.vsend m a) => resumeWith cur (execVsend m a) s
  | some (.vsendLit m a) => resumeWith cur (execVsendLit m a) s
  | _ => .fault .notEnabled

/-- RETURN_QUEUE_ENTRY_ARRIVE: the oldest entry in transit enters (R33). -/
def execReturnQueueEntryArrive (i : StrandId) (s : State) : Host.Outcome State Fault Refusal :=
  match s.strand? i with
  | some t =>
    match t.rq.findIdx? fun e => !e.here && decide (e.enters ≤ s.lcNow i.owner i.lcore) with
    | some n => .next (s.modStrand i fun t => { t with rq := t.rq.modify n fun e => { e with here := true } })
    | none => .fault .notEnabled
  | none => .fault .notEnabled

/-- FRECV pops the oldest entry, an acquire; it waits while the queue is empty (R32, R236). -/
def execFrecv (d : Dst) (s : State) : Host.Outcome State Fault Refusal :=
  issueWith (.frecv d) 1 (fun c s =>
    match c.t.rq with
    | [] => .stall
    | e :: rest =>
      if e.here then
        .result (s.modStrand c.cur.strand fun t => { t with
            rq := rest, ctl := t.ctl.takeHz [8] e.hz }) 4 (c.fill d [e.val])
      else .stall) s

/-- FRECV_POP: an FRECV that waited issues. -/
def execFrecvPop (i : StrandId) (s : State) : Host.Outcome State Fault Refusal :=
  match (waitOf s ⟨i, none⟩).map Wait.instr with
  | some (.frecv d) => resumeWith ⟨i, none⟩ (execFrecv d) s
  | _ => .fault .notEnabled

/-- The trap mask of a control stream that waits: all four lanes. -/
def ctlMask : Word := 0xF

/-- RETURN_QUEUE_STARVATION (R34). [DEDUCED: notes/assumptions/56.md] -/
def execReturnQueueStarvation (i : StrandId) (s : State) : Host.Outcome State Fault Refusal :=
  match s.strand? i with
  | some t =>
    let still (g : GSet) : Bool :=
      g.st == .stopped || g.str.trap.isSome || (g.st == .idle && (t.tokenOf g).isNone)
    match t.ctl.wait.map Wait.instr with
    | some (.frecv _) =>
      if t.rq.isEmpty && t.sets.all still then .next (s.takeTrap ⟨i, none⟩ ⟨0x13, 0, 0, ctlMask⟩ false) else .fault .notEnabled
    | _ => .fault .notEnabled
  | none => .fault .notEnabled

/-- Does a set wait at a REGANG, or at a VSEND on a full return queue (R35)? -/
def GSet.stuck (g : GSet) (full : Bool) : Bool :=
  match g.st, g.str.wait.map Wait.instr with
  | .regang _, _ => true
  | .block, some (.vsend ..) | .block, some (.vsendLit ..) => full
  | _, _ => false

/-- Is the instruction a flume send or EXIT? -/
def sends : Instr → Bool
  | .frun .. | .ftrip .. | .fmask .. | .fval .. | .regang .. | .exit => true
  | _ => false

/-- FLUME_DEADLOCK (R35). [DEDUCED: notes/assumptions/56.md] -/
def execFlumeDeadlock (i : StrandId) (s : State) : Host.Outcome State Fault Refusal :=
  match s.strand? i with
  | some t =>
    if (t.ctl.wait.map fun w => sends w.instr).getD false && decide (16 ≤ t.flume.length) &&
        t.sets.all (·.stuck (decide (8 ≤ t.rq.length))) then
      .next (s.takeTrap ⟨i, none⟩ ⟨0x05, 1, 0, ctlMask⟩ false)
    else .fault .notEnabled
  | none => .fault .notEnabled

end Sys2Proof.Machine
end

