-- ==== Sys2Proof/Machine/Work.lean ====
section
/-!
DEFINITION. Launches and work lists (spec/09 R274 to R281, R287 to R295; R389, R470; spec/07 R246): the launch record, LAUNCH,
the distributor, the start and the end of strands and groups, WLPUT, WLGET, LCSYNC, and the termination detector.
-/

namespace Sys2Proof.Machine

/-! ### The launch record (R274, R275) -/

def wordAt (bs : List Byte) (i : Nat) : Word := BitVec.ofNat 32 (ofBytesLE ((bs.drop i).take 4))

/-- The fields of a record. -/
def launchRecOf (bs : List Byte) : LaunchRec :=
  let w (i : Nat) : Word := wordAt bs (4 * i)
  let b (x : Word) (i : Nat) (v : Nat) : List Nat := if x.getLsbD i then [v] else []
  { centry := w 0, ventry := w 1, argn := field (w 2) 31 24, groups := field (w 2) 23 0, tq := field (w 3) 26 16
    regs := field (w 3) 14 8, slices := field (w 3) 6 4 + 1, strands := field (w 3) 3 0 + 1
    argbase := ofBytesLE ((bs.drop 16).take 8), comp := field (w 6) 11 0
    graph := if (w 7).getLsbD 26 then some (field (w 6) 23 12) else none
    waits := b (w 7) 24 (field (w 7) 11 0) ++ b (w 7) 25 (field (w 7) 23 12)
    idem := (w 7).getLsbD 28, det := (w 7).getLsbD 27 }

/-- Is a reserved bit of a record set? -/
def launchReserved (bs : List Byte) : Bool :=
  let w (i : Nat) : Word := wordAt bs (4 * i)
  field (w 3) 31 27 != 0 || (w 3).getLsbD 15 || (w 3).getLsbD 7 || field (w 6) 31 24 != 0 || field (w 7) 31 29 != 0 ||
  ((bs.drop 32).take 24).any (· != 0)

/-- Result 2 of R275. -/
def launchRefused (w : Owner) (bs : List Byte) : Bool :=
  let r := launchRecOf bs
  let badEntry (e : Word) : Bool := e.toNat % 4 != 0 || decide (0x40000 ≤ e.toNat)
  launchReserved bs || (r.comp :: r.graph.toList ++ r.waits).any (fun k => decide (w.orec.ctrq ≤ k)) || r.groups == 0 ||
  decide (16 < r.argn) || decide (r.regs < 8 ∨ 120 < r.regs) || decide (r.regs < r.argn) || decide (1024 < r.tq) ||
  badEntry r.centry || badEntry r.ventry

/-- Result 3 of R275. -/
def launchCounter (w : Owner) (r : LaunchRec) : Bool :=
  (w.counter r.comp).count != 0 || (r.graph.toList ++ r.waits).contains r.comp ||
  (match r.graph with
   | some g => ((w.counter g).count != 0 && (w.counter g).level != 1) || (w.counter g).count == 0xFFFFFF
   | none => false)

/-- The result of the checks: 0, 2 or 3. -/
def launchStatus (w : Owner) (bs : List Byte) : Nat :=
  if launchRefused w bs then 2 else if launchCounter w (launchRecOf bs) then 3 else 0

/-- Arm COMP and raise GRAPH (R273). -/
def Owner.arm (w : Owner) (r : LaunchRec) : Owner :=
  let w := w.setCounter r.comp ⟨0, 0, r.groups, r.graph, (w.counter r.comp).hold⟩
  match r.graph with
  | some g => w.raiseGraph g
  | none => w

/-- Cancel a launch none of whose groups is placed: its counter reaches zero at once (R286). -/
def Owner.cancelWhole (w : Owner) (comp : Nat) : Owner :=
  let w := w.setStatus comp 1
  w.lower comp (w.counter comp).count

/-- Does a launch name a graph that stands cancelled (R276)? -/
def Owner.graphCancelled (w : Owner) (r : LaunchRec) : Bool :=
  match r.graph with
  | some g => (w.counter g).status == 1
  | none => false

/-- Append a record to the overflow list (R276). -/
def State.overflow (s : State) (o addr : Nat) : State :=
  match s.owner? o with
  | none => s
  | some w =>
    let link (s : State) (a v : Nat) : State := (s.hwStore o (a + 56) (numBytes 8 v)).getD s
    let s := link s addr 0
    let s := if w.lovf = 0 then s else link s w.lovfTail addr
    s.modOwner o fun w => { w with
      lovf := if w.lovf = 0 then BitVec.ofNat 64 addr else w.lovf, lovfTail := addr
      lovfAt := if w.lovf = 0 then s.ownerNow o else w.lovfAt }

/-! ### LAUNCH (R276) -/

/-- Lanes of the control slice that an access's result goes to. -/
def Acc.resultLanes (a : Acc) : List Nat := (a.lanes.map fun l => bitsOf 4 (wordsNat (l.data.take 1))).headD []

def execLaunch (x : XOps) (s : State) : Host.Outcome State Fault Refusal :=
  issueWith (.launch x) 1 (fun c s =>
    let h := c.lane0 x.a
    let off := c.n0 x.b
    match windowOf s c.t.grp c.now h with
    | none => .trapAll 0x07 0 (h.setWidth 64)
    | some w =>
      let va := w.base + off
      if off % 64 ≠ 0 then .trapAll 0x06 0 (BitVec.ofNat 64 va)
      else if va + 64 > 2 ^ 56 then .trapAll 0x08 0 (BitVec.ofNat 64 va)
      else
        let i := c.cur.strand
        let u := s.untimed i.owner
        let due := c.now + (if off + 64 ≤ w.limit then 400 else 2000) + (if u then Config.untimedDelay s.freeN else 0)
        let acc : Acc := ⟨s.nextId, i, none, c.t.grp, c.str.pc, 0, .launch x,
          [⟨0, va, [BitVec.ofNat 32 (maskOf c.lanes)], .todo, [], 0, due, 0, []⟩], some w, decide (1 ≤ c.t.priv), due,
          if u then 1 else 0, false, false, false, c.now⟩
        let s := s.bindFor i.owner i.lcore c.now 64
        .later { s with accs := s.accs ++ [s.ordered acc], freeN := if u then s.freeN + 1 else s.freeN }) s

/-- The page checks of a record at its act: device memory with W. -/
def launchPlace (s : State) (a : Acc) (l : LaneAcc) : Except Att Nat :=
  let o := a.strand.owner
  let ad := BitVec.ofNat 64 l.va
  let page : Except XErr Page := match a.win with
    | some w => if w.page.base ≤ l.va ∧ l.va + 64 ≤ w.base + w.limit then .ok w.page else s.pageOf o l.va
    | none => s.pageOf o l.va
  match page with
  | .error .malformed => .error (.err 0x08 ad)
  | .error .notRes => .error (.err 0x0A ad)
  | .error (.escalate f) => .error (s.unusable o f l.va ad)
  | .ok p =>
    if p.kind ≠ 1 ∨ p.table ∨ ¬ p.w ∨ (p.sup ∧ ¬ a.sup) then .error (.err 0x09 ad)
    else match s.placeIn o p l.va with
      | .ok (.dev pa _) => if anyPoison s pa 64 then .error (.err 0x16 ad) else .ok pa
      | .ok _ => .error (.err 0x09 ad)
      | .error f => .error (s.unusable o f l.va ad)

/-- Take an accepted record: arm its counters, and queue it, append it to the overflow list, or cancel it with its graph
(R276). Answers the state and d. [DEDUCED: notes/assumptions/32.md] -/
def State.acceptLaunch (s : State) (o lc now addr : Nat) (bs : List Byte) : State × Nat :=
  match s.owner? o with
  | none => (s, 2)
  | some w =>
    let st := launchStatus w bs
    let r := launchRecOf bs
    if st ≠ 0 then (s, st)
    else
      let w1 := w.arm r
      if w1.graphCancelled r then (s.modOwner o fun w => (w.arm r).cancelWhole r.comp, 0)
      else
        let s := s.modOwner o (·.arm r)
        if (w.launches.filter fun l => l.queue == some lc).length < 4 then
          let l : Launch := ⟨s.nextId, r, false, some lc, now, 0, none, none⟩
          ((s.modOwner o fun w => { w with launches := w.launches ++ [l] }).fresh, 0)
        else (s.overflow o addr, 1)

/-- LAUNCH_ACT. -/
def execLaunchAct (id : Nat) (s : State) : Host.Outcome State Fault Refusal :=
  match s.accs.find? fun a => a.id == id with
  | none => .fault .notEnabled
  | some a =>
    match a.instr, a.lanes with
    | .launch x, [l] =>
      let o := a.strand.owner
      let now := s.lcNow o a.strand.lcore
      if a.need ≠ 0 ∨ ¬ (a.due ≤ now) ∨ ¬ s.accFree a then .fault .notEnabled
      else match launchPlace s a l with
        | .error (.err cause ad) => failAct a cause ad a.resultLanes s
        | .error (.esc f va) => .next (s.escalate o f va)
        | .error _ => .fault .notEnabled
        | .ok pa =>
          let (s', d) := s.acceptLaunch o a.strand.lcore ((s.ownerNow o).getD 0) l.va (s.bytes pa 64)
          .next ((s'.endAct a x.d a.resultLanes (BitVec.ofNat 32 d)).actedAt a l now)
    | _, _ => .fault .notEnabled

/-! ### Placement (R279, R280) -/

/-- Reserved tile capacity of a logical core. -/
def State.tilesFree (s : State) (o lc : Nat) : Nat :=
  2 * 2 ^ 20 - ((s.groups.filter fun g => g.owner == o && g.lcore == lc).map (·.quota)).sum

/-- Does a strand of a logical core come before any new group there (R53, R283): one that waits in RALLOC for granules, one swapped out for
such a waiter, one swapped out in a JOIN whose counter has reached zero? -/
def State.strandFirst (s : State) (o lc : Nat) : Bool :=
  (s.strandsOf o lc).any fun t => s.wantsMore t || (t.res == .out && (!t.joinOut || (match t.join?, s.owner? o with
    | some (k, _, _), some w => (w.before k).count == 0
    | _, _ => false)))

/-- Can a logical core take a group of a launch? -/
def State.canTake (s : State) (o lc : Nat) (r : LaunchRec) : Bool :=
  !s.strandFirst o lc &&
  decide (r.strands ≤ (s.slotsFree o lc).length ∧ r.strands * r.slices * granules r.regs ≤ s.vectorFree o lc ∧
    r.strands * granules r.regs ≤ s.controlFree o lc ∧ r.tq * 2048 ≤ s.tilesFree o lc)

/-- Does the first logical core come before the second in the distributor's choice? -/
def State.better (s : State) (o a b : Nat) : Bool :=
  let k (lc : Nat) : List Nat := [(s.slotsFree o lc).length, s.vectorFree o lc, s.tilesFree o lc]
  match k a, k b with
  | [x, y, z], [x', y', z'] =>
    decide (x > x' ∨ (x = x' ∧ (y > y' ∨ (y = y' ∧ (z > z' ∨ (z = z' ∧ a < b))))))
  | _, _ => false

/-- The logical core a group goes to. [DEDUCED: notes/assumptions/32.md] -/
def State.pickCore (s : State) (o : Nat) (r : LaunchRec) : Option Nat :=
  let can := ((s.lcores.filter fun l => l.owner == o && l.resident).map (·.num)).filter fun lc => s.canTake o lc r
  can.find? fun a => can.all fun b => b == a || s.better o a b

def stream0 : Stream := ⟨0, 0, 0, [], none, none, none, [], [], [], false, false⟩

/-- A strand of a group at its start (R14, R88); its arguments come when it becomes resident. Strands of owner 0 run at HYPER:
they are the part's only software that may. [DEDUCED: notes/assumptions/17.md] -/
def strandAt (i : StrandId) (grp index : Nat) (l : Launch) : Strand :=
  { id := i, grp := grp, index := index, age := 0, res := .coming, joinOut := false, leftAt := 0, leftNow := 0
    n := l.lrec.regs, slices := l.lrec.slices, priv := if i.owner = 0 then 2 else if l.sup then 1 else 0, tpriv := 0, depth := 0
    tcause := 0, tpc := 0, tmask := 0, taddr := 0, tstrand := 0, entryPc := 0, batch := 0, lclk := 0
    cbase := l.lrec.centry, vbase := l.lrec.ventry
    ctl := { stream0 with pc := l.lrec.centry }, cst := .run, acted := 0, cregs := [], vregs := [], bmask := 0xFFFFFFFF
    sets := [⟨List.range l.lrec.slices, .idle, stream0, [], 0xFFFFFFFF, 0⟩]
    flume := [], rq := [], pends := [], wlset := [], killed := false, refusals := [], disposed := [], spilled := none, quietBy := none }

/-- Place a group of a launch on a logical core at index `now`: its strands take the lowest free slots and become resident
64 indices later (R280). [DEDUCED: notes/assumptions/32.md] -/
def State.placeGroup (s : State) (o lc now : Nat) (l : Launch) (number : Nat) : State :=
  let r := l.lrec
  let g : Group := ⟨s.nextId, o, lc, l.id, number, r.comp, r.tq * 2048, ⟨r.idem, r.det, l.sup⟩, false, false, false, none,
    now + 64, []⟩
  let slots := (s.slotsFree o lc).take r.strands
  let ts := ((List.range r.strands).zip slots).map fun x => strandAt ⟨o, lc, x.2⟩ g.id x.1 l
  ({ s with groups := s.groups ++ [g], strands := s.strands ++ ts }).fresh

/-- GROUP_STRANDS_START: 64 indices after its placement a group's strands become resident, in order of their index, with
the launch's arguments in v0 on (R280). An argument word that is not there to read is a free value. [DESIGN CHOICE: notes/assumptions/16.md] -/
def execGroupStrandsStart (g : Nat) (s : State) : Host.Outcome State Fault Refusal :=
  match s.group? g with
  | none => .fault .notEnabled
  | some x =>
    match (s.owner? x.owner).bind fun w => w.launches.find? fun l => l.id == x.launch, s.lcore? x.owner x.lcore with
    | some l, some c =>
      let now := s.lcNow x.owner x.lcore
      let coming := s.strands.filter fun t => t.grp == g && t.res == .coming
      if coming.isEmpty ∨ now < x.start then .fault .notEnabled
      else
        let arg (k : Nat) : Word := match s.hwRead x.owner (l.lrec.argbase + 4 * k) 4 with
          | some bs => wordAt bs 0
          | none => Config.freeWord (s.freeN + k)
        let regs : List (Nat × Word) := (List.range l.lrec.argn).flatMap fun k =>
          (List.range 4).map fun lane => (k * 4 + lane, arg k)
        let f (t : Strand) : Strand := { t with
          res := .here, age := c.nextAge + t.index, cregs := tblSets 0 t.cregs regs
          ctl := { t.ctl with ready := now, stood := now }
          sets := t.sets.map fun q => { q with str := { q.str with ready := now, stood := now } } }
        let s : State := { s with
          freeN := s.freeN + l.lrec.argn, strands := modWhere s.strands (fun t => t.grp == g && t.res == .coming) f }
        .next (s.modLcore x.owner x.lcore fun c => { c with nextAge := c.nextAge + 16 })
    | _, _ => .fault .notEnabled

/-! ### The distributor (R277, R278) -/

/-- The launch with an identity. -/
def Owner.launch? (w : Owner) (id : Nat) : Option Launch := w.launches.find? fun l => l.id == id

/-- Is a launch eligible, on the counters of the end of the previous index? -/
def Owner.eligible (w : Owner) (r : LaunchRec) : Bool := r.waits.all fun k => (w.before k).count == 0
/-- Does a wait counter of it stand at zero with a status that is not OK? -/
def Owner.waitFailed (w : Owner) (r : LaunchRec) : Bool :=
  r.waits.any fun k => (w.before k).count == 0 && (w.before k).status != 0

/-- What the distributor can do in its step. -/
inductive DistAct
  | discard (launch : Nat)
  | again (launch number lc : Nat)
  | place (launch lc : Nat)
  | choose (launch : Nat)
  | read (addr : Nat)
  deriving DecidableEq, Repr

/-- The queues in the order in which they are served: from the one after the core served last. [DESIGN CHOICE: notes/assumptions/9.md] -/
def serveOrder (lcs : List Nat) (last : Nat) : List Nat :=
  lcs.filter (fun k => decide (last < k)) ++ lcs.filter fun k => decide (k ≤ last)

/-- The oldest eligible launch of the first queue in order that has one; queued in an earlier index, and not cancelled in one.
[DEDUCED: notes/assumptions/32.md] -/
def Owner.queuePick (w : Owner) (lcs : List Nat) (now : Nat) : Option Launch :=
  (serveOrder lcs w.dist.served).findSome? fun lc => w.launches.find? fun l =>
    l.queue == some lc && l.cancelled.all (decide <| now ≤ ·) && decide (l.queued < now) && w.eligible l.lrec

/-- The record at the head of the overflow list, when its bytes can be read. [DEDUCED: notes/assumptions/32.md] -/
def State.overflowHead (s : State) (w : Owner) : Option (List Byte) :=
  let a := w.lovf.toNat
  if 2 ^ 56 < a + 64 ∨ s.hwPoison w.id a 64 then none else s.hwRead w.id a 64

/-- The distributor's action at index `now`, after any strand to restore. What a CANCEL of this index took from it is a step in which nothing
is placed (R273, R278). [DEDUCED: notes/assumptions/32.md] -/
def State.distAct (s : State) (w : Owner) (now : Nat) : Option DistAct :=
  let lcs := (s.lcores.filter fun l => l.owner == w.id && l.resident).map (·.num)
  let spot (id : Nat) : Option Nat := (w.launch? id).bind fun l => if l.cancelled.isSome then none else s.pickCore w.id l.lrec
  match w.dist.again.findSome? fun x => (spot x.1).map fun lc => DistAct.again x.1 x.2 lc with
  | some a => some a
  | none =>
    if !w.dist.again.isEmpty then none
    else match w.dist.cur with
      | some id => (spot id).map (.place id)
      | none =>
        if w.dist.read.isSome then none
        else match w.launches.find? fun l => l.queue.isSome && l.cancelled.any (decide <| · < now) with
        | some l => some (.discard l.id)
        | none =>
        match w.queuePick (List.range 512) now with
          | some l => if lcs.isEmpty ∨ l.cancelled.isSome then none else some (.choose l.id)
          | none =>
            if w.lovf = 0 ∨ w.dist.stuck ∨ w.lovfAt = some now then none
            else match s.overflowHead w with
              | some bs => if w.eligible (launchRecOf bs) then some (.read w.lovf.toNat) else none
              | none => some (.read w.lovf.toNat)

/-- Place the next group of the current launch, if a logical core can take it. -/
def State.placeNext (s : State) (o now id : Nat) : State :=
  match (s.owner? o).bind (·.launch? id) with
  | none => s
  | some l =>
    match s.pickCore o l.lrec with
    | none => s
    | some lc =>
      let last := decide (l.placed + 1 = l.lrec.groups)
      (s.placeGroup o lc now l l.placed).modOwner o fun w => { w with
        launches := modWhere w.launches (fun x => x.id == id) fun x => { x with
          placed := x.placed + 1, queue := if last then none else x.queue }
        dist := if last then { w.dist with cur := none } else w.dist }

/-- A launch reached with a wait counter that is not OK is cancelled whole (R286). -/
def State.dropLaunch (s : State) (o id : Nat) : State :=
  s.modOwner o fun w => match w.launch? id with
    | some l => { w.cancelWhole l.lrec.comp with launches := w.launches.filter fun x => x.id != id }
    | none => w

/-- A cancelled launch loses its queue place; it is over when no group of it is left. [DEDUCED: notes/assumptions/33.md] -/
def Owner.discard (w : Owner) (id : Nat) (alive : Bool) : Owner :=
  let f (x : Launch) : Launch := { x with queue := none }
  { w with launches := (modWhere w.launches (fun x => x.id == id) f).filter fun x => alive || x.id != id }

/-- Has the distributor anything before it: launches, groups to place again, an overflow list? -/
def Owner.distWork (w : Owner) : Bool := !w.launches.isEmpty || !w.dist.again.isEmpty || w.lovf != 0

/-- An index ends: the distributor has no more to do with launches that are over or cancelled. [DEDUCED: notes/assumptions/32.md] -/
def Owner.tidyDist (w : Owner) : Owner :=
  let goes (id : Nat) : Bool := (w.launch? id).any fun l => l.cancelled.isNone
  { w with dist := { w.dist with cur := w.dist.cur.filter goes, again := w.dist.again.filter fun x => goes x.1 } }

/-- DISTRIBUTOR_STEP: once in an index, on the state at the end of the previous one: one that finds nothing it can do is over too (R278).
Cancelled launches give up their queue places when the distributor reaches them, without a step. [DEDUCED: notes/assumptions/32.md] -/
def execDistributorStep (o : Nat) (s : State) : Host.Outcome State Fault Refusal :=
  match s.owner? o, s.ownerNow o with
  | some w, some now =>
    if now < w.dist.next then .fault .notEnabled
    else match s.distAct w now with
      | none => if w.distWork then .next (s.modOwner o (·.stepTaken now)) else .fault .notEnabled
      | some a =>
        let t := s.modOwner o (·.stepTaken now)
        .next (match a with
          | .discard id => s.modOwner o (·.discard id (s.groups.any fun g => g.launch == id))
          | .again id number lc =>
            match w.launch? id with
            | some l => (t.placeGroup o lc now l number).modOwner o fun w => { w with
                dist := { w.dist with again := w.dist.again.filter fun x => x != (id, number) } }
            | none => t
          | .place id _ => t.placeNext o now id
          | .choose id =>
            match w.launch? id with
            | some l =>
              if w.waitFailed l.lrec then s.dropLaunch o id
              else (t.modOwner o fun w => { w with
                dist := { w.dist with cur := some id, served := l.queue.getD w.dist.served } }).placeNext o now id
            | none => t
          | .read a => t.modOwner o fun w => { w with dist := { w.dist with read := some (a, now + 400) } })
  | _, _ => .fault .notEnabled

/-- OVERFLOW_RECORD_READ: 400 indices after the choice (R277, R278): the record is checked again, on the counters of the end of the previous
index, LOVF takes its LINK, and its first group is placed, unless the index's step went to a strand or a group to place again goes first (R281).
The record of a cancelled launch, or of one that a wait counter at zero and not OK cancels here, is discarded without a step (R286); of one
that this index cancelled nothing is placed. [DEDUCED: notes/assumptions/32.md; DESIGN CHOICE: notes/assumptions/71.md] -/
def execOverflowRecordRead (o : Nat) (s : State) : Host.Outcome State Fault Refusal :=
  match s.owner? o, s.ownerNow o with
  | some w, some now =>
    match w.dist.read with
    | none => .fault .notEnabled
    | some (a, due) =>
      if now < due then .fault .notEnabled
      else
        let t := s.modOwner o fun w => { w with dist := { w.dist with read := none } }
        if w.lovf.toNat ≠ a then .next t
        else match s.overflowHead w with
          | none => .next (t.modOwner o fun w => { w with dist := { w.dist with stuck := true } })
          | some bs =>
            let r := launchRecOf bs
            let link := ofBytesLE ((bs.drop 56).take 8)
            let sup := (w.staged.find? fun x => x.1 == a).map (·.2) |>.getD false
            let t := t.modOwner o fun w => { w with
              lovf := BitVec.ofNat 64 link, lovfAt := some now, staged := w.staged.filter fun x => x.1 != a }
            let c := w.before r.comp
            let n := (w.counter r.comp).count
            let free := decide (w.dist.next ≤ now) && w.dist.again.isEmpty
            let u := t
            let t := if free then t.modOwner o (·.stepTaken now) else t
            if c.count = 0 ∧ c.status = 1 then .next u
            else if launchRefused w bs ∨ c.level ≠ 0 ∨ c.count ≠ r.groups then
              .next (if r.comp < w.orec.ctrq ∧ c.level = 0 ∧ c.count ≠ 0 ∧ n ≠ 0 then
                t.modOwner o fun w => (w.setStatus r.comp 3).lower r.comp n
              else t)
            else if n = 0 then .next t
            else if w.waitFailed r then .next (u.modOwner o (·.cancelWhole r.comp))
            else
              let l : Launch := ⟨s.nextId, r, sup, none, now, 0, none, none⟩
              let t := t.fresh.modOwner o fun w => { w with launches := w.launches ++ [l], dist := { w.dist with cur := some l.id } }
              .next (if free then t.placeNext o now l.id else t)
  | _, _ => .fault .notEnabled

/-! ### The end of a strand, a group, a launch (R36, R281, R389) -/

/-- GROUP_END: tiles become DRAINING, windows and the clause hold go, the launch counter falls (R281, R389); a group that an
error killed with IDEM is placed again. When it was the launch's last, its DET records are applied first (R246). The distributor, which
works on the state at the end of the previous index, has its room from the next index on (R278). [DEDUCED: notes/assumptions/55.md] -/
def State.endGroup (s : State) (x : Group) : State :=
  let now := s.lcNow x.owner x.lcore
  let s := s.modLcore x.owner x.lcore fun l => { l with tiles := l.tiles.map fun e =>
    (e.1, if e.2.st == .allocated && e.2.grp == x.id then { e.2 with st := .draining, since := now } else e.2) }
  let s := s.roomFreed x.owner now
  let s : State := { s with
    groups := s.groups.filter fun g => g.id != x.id
    clauses := s.clauses.map fun e => (e.1, if e.2.holder == some x.id then { e.2 with holder := none } else e.2) }
  let l := (s.owner? x.owner).bind (·.launch? x.launch)
  if x.again ∧ ¬ (l.any fun l => l.cancelled.isSome) then
    s.modOwner x.owner fun w => { w with dist := { w.dist with again := w.dist.again ++ [(x.launch, x.number)] } }
  else
    let isOver : Bool := match l with
      | some l => !(s.groups.any fun g => g.launch == x.launch) && (l.cancelled.isSome || (l.placed == l.lrec.groups &&
          !((s.owner? x.owner).any fun w => w.dist.again.any fun y => y.1 == x.launch)))
      | none => false
    let s := if isOver then s.applyDets x.launch else s
    s.modOwner x.owner fun w =>
      let w := if x.fault ∧ (w.counter x.comp).status = 0 then w.setStatus x.comp 3 else w
      let w := w.lower x.comp 1
      if isOver then { w with launches := w.launches.filter fun l => l.id != x.launch } else w

/-- May a strand end (R36, R389): exited, every slice stopped, nothing of it outstanding, its kill recorded (R300)?
[DEDUCED: notes/assumptions/55.md] -/
def State.ended (s : State) (t : Strand) : Bool :=
  t.cst == .exited && t.sets.all (·.st == .stopped) && t.pends.isEmpty && !(s.accs.any fun a => a.strand == t.id) &&
  (match s.lcore? t.id.owner t.id.lcore with
   | some l => !(l.copies.any fun c => c.strand == t.id && c.grp == t.grp) &&
       !((l.mats ++ l.held).any fun m => m.strand == t.id && m.grp == t.grp) &&
       !(l.trecs.any fun r => r.strand == t.id && r.grp == t.grp && !r.put)
   | none => true) &&
  !(s.clauses.any fun x => x.2.cmds.any fun m => m.strand == t.id && m.grp == t.grp) &&
  !((s.owner? t.id.owner).any fun w => w.opens.any fun q => q.cmd.strand == t.id && q.cmd.grp == t.grp)

/-- STRAND_END: its granules and slot return to the pool; the last strand of a group ends it. [DEDUCED: notes/assumptions/55.md] -/
def execStrandEnd (i : StrandId) (s : State) : Host.Outcome State Fault Refusal :=
  match s.strand? i with
  | some t =>
    if ¬ s.ended t then .fault .notEnabled
    else
      let s := ({ s with strands := s.strands.filter fun u => u.id != i } : State).modLcore i.owner i.lcore (·.forget i)
      .next (match s.group? t.grp with
        | some g => if s.strands.any fun u => u.grp == g.id
          then (s.gsyncCheck g.id).roomFreed i.owner ((s.ownerNow i.owner).getD 0) else s.endGroup g
        | none => s)
  | none => .fault .notEnabled

/-! ### Work lists (R287 to R289, R470) -/

def Owner.wlist (w : Owner) (k : Nat) : List Word := tblGet [] w.lists k

/-- Lists of the set of a WLGET: the aligned block of 2^k lists that contains a list. -/
def wlSet (list k : Nat) : List Nat := (List.range (2 ^ k)).map (list / 2 ^ k * 2 ^ k + ·)

/-- Issue of WLPUT or WLGET: `data` are the lanes' items. -/
def issueWl (i : Instr) (list code : Ctx → Nat) (data : Ctx → Nat → List Word) (f : Ctx → State → State) (s : State) :
    Host.Outcome State Fault Refusal :=
  issueWith i 1 (fun c s =>
    let a := list c   -- both from the lowest active lane
    if c.lanes.isEmpty then .result (f c s) 480 []
    else if 1023 < a then .trapAll 0x08 0 (BitVec.ofNat 64 a)
    else if 10 < code c then .trapAll 0x08 0 (BitVec.ofNat 64 (code c))
    else
      let u := s.untimed c.cur.strand.owner
      let due := c.now + 480 + (if u then Config.untimedDelay s.freeN else 0)
      let acc : Acc := ⟨s.nextId, c.cur.strand, c.cur.set, c.t.grp, c.str.pc, (s.turn.map (·.slot)).getD 0, i,
        c.lanes.map fun l => ⟨l, a, data c l, .todo, [], code c, due, 0, []⟩, none, decide (1 ≤ c.t.priv),
        due, 0, false, false, false, c.now⟩
      .later (f c { s with accs := s.accs ++ [s.ordered acc], freeN := if u then s.freeN + 1 else s.freeN })) s

/-- WLPUT. -/
def execWlput (x : XOps) (s : State) : Host.Outcome State Fault Refusal :=
  issueWl (.wlput x) (fun c => (c.low x.a).toNat) (fun _ => 0) (fun c l => [c.src x.b l]) (fun _ s => s) s

/-- WLGET: at issue the strand stops holding (R289). [DEDUCED: notes/assumptions/33.md] -/
def execWlget (x : XOps) (s : State) : Host.Outcome State Fault Refusal :=
  issueWl (.wlget x) (fun c => (c.low x.a).toNat) (fun c => (c.low x.b).toNat) (fun _ _ => [])
    (fun c s => s.modStrand c.cur.strand fun t => { t with wlset := [] }) s

/-- A list access is over: its lanes' destinations are written, unless its strand was killed. -/
def State.endWl (s : State) (a : Acc) (d : Dst) (vals : Nat → List Word) : State :=
  let cur := a.curNow s
  let s := (s.tickAct a)
  let s : State := { s with accs := s.accs.filter fun b => b.id != a.id }
  if a.killed then s
  else (s.modStrand a.strand fun t => a.lanes.foldl (fun t l =>
    (dstOuts d l.lane (vals l.lane)).foldl (fun t w => t.setReg a.set.isNone w.1 w.2.1 w.2.2) t) t).modStream cur (·.wrote a.id)

/-- Append items in ascending lane order while the list has room: the list, and the lanes appended. [DESIGN CHOICE: notes/assumptions/60.md] -/
def putItems (cap : Nat) (q : List Word) : List LaneAcc → List Word × List Nat
  | [] => (q, [])
  | l :: ls =>
    if q.length < cap then
      let (q', ok) := putItems cap (q ++ l.data.take 1) ls
      (q', l.lane :: ok)
    else (q, [])

/-- WLPUT_ACT. -/
def execWlputAct (id : Nat) (s : State) : Host.Outcome State Fault Refusal :=
  match s.accs.find? fun a => a.id == id with
  | none => .fault .notEnabled
  | some a =>
    match a.instr, s.owner? a.strand.owner with
    | .wlput x, some w =>
      if ¬ (a.due ≤ a.now s) ∨ ¬ s.accFree a then .fault .notEnabled
      else
        let k := (a.lanes.map (·.va)).headD 0
        let (q, ok) := putItems w.orec.wlcap (w.wlist k) a.lanes
        let s := a.lanes.foldl (fun s l => s.actedAt a l (a.now s)) s
        .next ((s.modOwner w.id fun w => { w with lists := tblSet [] w.lists k q }).endWl a x.d
          fun l => [if ok.contains l then 1 else 0])
    | _, _ => .fault .notEnabled

/-- Is a set quiescent (R289)? -/
def State.quiescent (s : State) (w : Owner) (ls : List Nat) : Bool :=
  ls.all (fun k => (w.wlist k).isEmpty) &&
  !(s.strands.any fun t => t.id.owner == w.id && t.wlset.any fun x => (wlSet x.1 x.2).any ls.contains) &&
  !(s.accs.any fun b => b.strand.owner == w.id && (match b.instr with
    | .wlput _ => b.lanes.any fun l => ls.contains l.va
    | _ => false))

/-- WLGET_ATTEMPT: at T and every 64 owner cycles after it; the attempt that ends it is its act (R247). A killed strand's makes its first
attempt only, and holds nothing. [DEDUCED: notes/assumptions/33.md] -/
def execWlgetAttempt (id : Nat) (s : State) : Host.Outcome State Fault Refusal :=
  match s.accs.find? fun a => a.id == id with
  | none => .fault .notEnabled
  | some a =>
    match a.instr, s.owner? a.strand.owner, a.lanes with
    | .wlget x, some w, l0 :: _ =>
      let now := a.now s
      if ¬ (a.due ≤ now) ∨ ¬ s.accFree a then .fault .notEnabled
      else
        let q := w.wlist l0.va
        let acted (s : State) : State := a.lanes.foldl (fun s l => s.actedAt a l now) s
        if !q.isEmpty then
          let n := min q.length a.lanes.length
          let got := (a.lanes.map (·.lane)).zip q
          let s := s.modOwner w.id fun w => { w with lists := tblSet [] w.lists l0.va (q.drop n) }
          let s := if a.killed then s else s.modStrand a.strand fun t => { t with wlset := t.wlset ++ [(l0.va, l0.status)] }
          .next ((acted s).endWl a x.d fun l => [((got.find? fun g => g.1 == l).map (·.2)).getD 0, BitVec.ofNat 32 n])
        else if s.quiescent w (wlSet l0.va l0.status) then .next ((acted s).endWl a x.d fun _ => [0, 0x10000])
        else if a.killed then .next { acted s with accs := (acted s).accs.filter fun b => b.id != id }
        else .next { s with accs := modWhere s.accs (fun b => b.id == id) fun b => { b with
          due := now + 64, lanes := b.lanes.map fun l => { l with st := .retry (now + 64) 1 } } }
    | _, _, _ => .fault .notEnabled

/-- LCSYNC performs no access and has no effect beyond its issue (R294). -/
def execLcsync (x : XOps) (s : State) : Host.Outcome State Fault Refusal := issueWith (.lcsync x) 1 (fun _ s => .plain s) s

/-! ### The termination detector (R290, R291) -/

/-- Addresses on which a strand's lanes are parked. -/
def State.parkedAt (s : State) (t : Strand) : List Nat :=
  (s.accs.filter fun a => a.strand == t.id).flatMap fun a => a.lanes.filterMap fun l =>
    match l.st with
    | .parked va _ => some va
    | _ => none

/-- The instruction that stands next in a stream. -/
def State.nextInstr (s : State) (i : StrandId) (pc : Word) : Option Instr :=
  match s.owner? i.owner with
  | none => none
  | some w =>
    let ws := (List.range 5).map fun k => tblGet 0 w.code (pc.toNat / 4 + k)
    match decode ws with
    | .ok (j, _) => some j
    | _ => none

/-- Is a strand parked (R290)? [DEDUCED: notes/assumptions/56.md] -/
def State.isParked (s : State) (t : Strand) : Bool :=
  let parkedLane (a : Acc) : Bool := a.lanes.any fun l => match l.st with | .parked .. => true | _ => false
  let atParked (set : Option Nat) (x : Stream) : Bool :=
    match x.wait with
    | some w => s.accs.any fun a => a.id == w.id && parkedLane a
    | none =>
      match s.nextInstr t.id x.pc with
      | some (.fence _ m) => fencePending s t.id (s.agentsOf ⟨t.id, set⟩) m.order && (s.accs.any fun a => a.strand == t.id && parkedLane a &&
          a.lanes.any fun l => (s.agentsOf ⟨t.id, set⟩).contains (a.agent l))
      | _ => false
  !(s.parkedAt t).isEmpty && t.res == .here &&
  (t.cst == .exited || (t.ctl.trap.isNone && atParked none t.ctl)) &&
  t.sets.all fun g => match g.st with
    | .stopped => true
    | .idle => g.str.trap.isNone && (t.tokenOf g).isNone
    | .block => g.str.trap.isNone && atParked (some g.key) g.str
    | .regang _ => false

/-- At the end of an index: since when every live strand of a launch whose groups are all placed is parked. [DEDUCED: notes/assumptions/56.md] -/
def State.watchParked (s : State) (o now : Nat) : State :=
  s.modOwner o fun w => { w with launches := w.launches.map fun l =>
    let live := s.strands.filter fun t => t.id.owner == o && !t.killed && ((s.group? t.grp).map fun g => g.launch == l.id).getD false
    if l.placed = l.lrec.groups ∧ w.dist.again.all (fun x => x.1 != l.id) ∧ ¬ live.isEmpty ∧ live.all s.isParked then
      { l with parked := some (l.parked.getD now) }
    else { l with parked := none } }

/-- STRANDED_DETECT: every live strand of the launch with counter `comp` has been parked for 65,536 owner cycles: a record
for each strand, the kill, STATUS STRANDED (R291). -/
def execStrandedDetect (o comp : Nat) (s : State) : Host.Outcome State Fault Refusal :=
  match s.owner? o, s.ownerNow o with
  | some w, some now =>
    match w.launches.find? fun l => l.lrec.comp == comp && l.parked.isSome with
    | none => .fault .notEnabled
    | some l =>
      if now < l.parked.getD now + 65536 then .fault .notEnabled
      else
        let mine := s.strands.filter fun t => t.id.owner == o && !t.killed &&
          ((s.group? t.grp).map fun g => g.launch == l.id).getD false
        let one (s : State) (t : Strand) : State :=
          let va := (s.parkedAt t).headD 0
          let stamp := ((s.lcore? o t.id.lcore).map (·.ocyc)).getD 0
          let slices := maskOf (t.sets.flatMap (·.slices))
          (s.logRecord o 3 0 stamp [(tstrandWord t.id slices false).toNat, 0, va % 2 ^ 32, va / 2 ^ 32]).killStrand t.id
        let s := mine.foldl one s
        .next (s.modOwner o fun w => { (w.setStatus comp 2) with
          launches := w.launches.map fun x => if x.id = l.id then { x with parked := none } else x })
  | _, _ => .fault .notEnabled

end Sys2Proof.Machine
end

