-- ==== Sys2Proof/Machine/Rota.lean ====
section
/-!
DEFINITION. The core rota, the fabric rota, the check that guards them, and the map of logical cores (spec/03 R100 to R108, R113,
R135; spec/11 R326).
-/

namespace Sys2Proof.Machine

/-! ### Demand and supply (R107) -/

/-- Demand of an owner in one core's table. -/
def rotaDemand (v : DWord) (x : Nat) : Nat := (rotaHeld v x).length * 8 / rotaLen v

/-- The table a swap makes: the named positions hold another owner, their ARR bits as they are (R133). -/
def swapTable (v : DWord) (mask inown : Nat) : DWord :=
  BitVec.ofNat 64 ((List.range 8).foldl (fun t p =>
    if mask.testBit p then t - rotaPos v p * 2 ^ (6 * p) + inown * 2 ^ (6 * p) else t) v.toNat)

/-- The tables of a core that can be in force: the one in force, a pending one, the one a swap in progress makes. -/
def Core.tables (c : Core) : List DWord :=
  c.rotac :: (c.pend.map (·.1)).toList ++ (c.swap.map fun w => swapTable c.rotac w.mask w.inown).toList

/-- Can a swap end before a device cycle (R129)? None stands for good. [DEDUCED: notes/assumptions/26.md] -/
def State.swapEndsBy (s : State) (c : Core) (w : Swap) (till : Option Nat) : Bool :=
  till.all fun d => decide (98304 ≤ w.turns.getD 0 +
    ((List.range (d - s.dcyc)).filter fun i => w.mask.testBit ((s.dcyc + i) % rotaLen c.rotac)).length)

/-- The tables of a core that can be in force before a device cycle (R107). -/
def State.tablesBy (s : State) (c : Core) (till : Option Nat) : List DWord :=
  if c.swap.all (s.swapEndsBy c · till) then c.tables else { c with swap := none }.tables

/-- The greatest demand of an owner in some tables. -/
def worstDemand (ts : List DWord) (x : Nat) : Nat := (ts.map fun v => rotaDemand v x).foldl max 0

/-- u of an owner until a device cycle, with the tables of one core given. -/
def State.demand (s : State) (p : Nat) (ts : List DWord) (till : Option Nat) (x : Nat) : Nat :=
  worstDemand ts x + ((s.cores.filter fun c => c.1 != p).map fun c => worstDemand (s.tablesBy c.2 till) x).sum

/-- The inequality of R107 for one fabric table with its length code. -/
def supplies (t : List Nat) (flen u x : Nat) : Bool :=
  decide (2 ^ flen * u ≤ ((t.take (2 ^ flen)).filter (· == x)).length * 4096)

/-- The fabric tables that can be in force, with their length codes: the one in force, until a pending one takes its place; that one. -/
def Fabric.tables (f : Fabric) : List (List Nat × Nat × Option Nat) :=
  (f.table, f.flen, f.pend.map (·.2.2)) :: (f.pend.map fun x => (x.1, x.2.1, none)).toList

/-- Does R107 hold for every owner, with the tables of core `p` and the fabric tables given? The table that a swap makes is held against
those that can be in force when it is. -/
def State.fabricOk (s : State) (p : Nat) (ts : List DWord) (fs : List (List Nat × Nat × Option Nat)) : Bool :=
  (List.range 63).all fun x => fs.all fun f => supplies f.1 f.2.1 (s.demand p ts f.2.2 x) x

/-! ### ROTAC (R101, R102, R106) -/

/-- The form of a table: reserved bits, positions beyond L, ARR on 63, at most four owners with ARR. -/
def rotaFormOk (v : DWord) : Bool :=
  v.toNat / 2 ^ 58 == 0 &&
  (List.range 8).all (fun p => decide (p < rotaLen v) || rotaPos v p == 63) &&
  (List.range 8).all (fun p => !v.getLsbD (48 + p) || rotaPos v p != 63) &&
  decide (((List.range 63).filter fun o => rotaArr v o).length ≤ 4)

/-- Do the owners placed on a core keep what they need, the outgoing owner of a swap apart? -/
def State.keepsPlaces (s : State) (p : Nat) (old v : DWord) (out : Option Nat) : Bool :=
  s.lcores.all fun l => !(l.placed && l.core == p) || out == some l.owner ||
    ((rotaHeld old l.owner).isEmpty || !(rotaHeld v l.owner).isEmpty) &&
    (l.latch.isNone || !rotaArr old l.owner || rotaArr v l.owner)

/-- The check of a ROTAC write or a ROTA command on core `p`. -/
def State.rotacOk (s : State) (p : Nat) (v : DWord) : Bool :=
  let c := s.core p
  rotaFormOk v && s.keepsPlaces p c.rotac v none && c.swap.isNone && c.pend.isNone && !c.absent && decide (p < 512) &&
  s.fabricOk p [c.rotac, v] s.dev.fabric.tables

/-- The first core cycle at a multiple of 8, at least 64 after the write (R102). -/
def rotacDue (dcyc : Nat) : Nat := (dcyc + 64 + 7) / 8 * 8

/-- Write ROTAC of a core: a refused write changes nothing. -/
def State.writeRotac (s : State) (p : Nat) (v : DWord) : State :=
  if s.rotacOk p v then s.setCore p { s.core p with pend := some (v, rotacDue s.dcyc) } else s

/-- ROTAC_WRITE. -/
def execRotacWrite (p : Nat) (v : DWord) (s : State) : Host.Outcome State Fault Refusal := .next (s.writeRotac p v)

/-- ROTAC_TAKES_EFFECT: at its boundary an accepted table is the one in force. -/
def execRotacTakesEffect (p : Nat) (s : State) : Host.Outcome State Fault Refusal :=
  match (s.core p).pend with
  | some (v, due) => if s.dcyc < due then .fault .notEnabled else .next (s.setCore p { s.core p with rotac := v, pend := none })
  | none => .fault .notEnabled

/-- What a read of ROTAC returns (R102). -/
def State.readRotac (s : State) (p : Nat) : DWord :=
  match (s.core p).pend with
  | some (v, _) => v ||| BitVec.ofNat 64 (2 ^ 63)
  | none => (s.core p).rotac

/-- OTURN (R113). [DEDUCED: notes/assumptions/54.md] -/
def State.oturn (s : State) (o lc : Nat) : Word :=
  match s.lcore? o lc with
  | none => 0
  | some l =>
    let v := (s.core l.core).rotac
    let n := (s.lcores.filter fun k => k.owner == o && k.placed && k.core == l.core).length
    BitVec.ofNat 32 ((n - 1) * 2 ^ 16 + (v >>> 56).toNat % 4 * 2 ^ 8 + maskOf (rotaHeld v o))

/-! ### ROTAF (R104, R105) -/

def dfield (v : DWord) (hi lo : Nat) : Nat := v.toNat / 2 ^ lo % 2 ^ (hi + 1 - lo)

/-- Is a ROTAF write refused whole? -/
def rotafBad (v : DWord) : Bool :=
  dfield v 61 19 != 0 || dfield v 15 12 != 0 || dfield v 7 6 != 0 || (v.getLsbD 63 && decide (5 ≤ dfield v 18 16))

/-- Is the staged table accepted with a length code? -/
def State.rotafOk (s : State) (stage : List Nat) (flen : Nat) : Bool :=
  s.dev.fabric.pend.isNone && decide (flen ≤ s.dev.fmax) && s.fabricOk 512 [] [(stage, flen, none)]

/-- The port after a write (R104). One refused whole leaves the staged table as it stood. [DESIGN CHOICE: notes/assumptions/64.md] -/
def State.rotafAfter (s : State) (v : DWord) : Fabric :=
  let f := { s.dev.fabric with pos := dfield v 11 8 }
  if rotafBad v then { f with refused := true }
  else
    let f := if v.getLsbD 62 then { f with stage := f.stage.set (dfield v 11 8) (dfield v 5 0) } else f
    if !v.getLsbD 63 then f
    else if s.rotafOk f.stage (dfield v 18 16) then
      { f with pend := some (f.stage, dfield v 18 16, s.dcyc + 1024), refused := false }
    else { f with refused := true, stage := (f.pend.map (·.1)).getD f.table }

def State.writeRotaf (s : State) (v : DWord) : State := { s with dev := { s.dev with fabric := s.rotafAfter v, portWas := none } }

/-- A write of the port by an SWR of owner-cycle index `now`: those of lower logical cores in that index leave nothing (R87, R104).
[DEDUCED: notes/assumptions/54.md] -/
def State.swrRotaf (s : State) (now : Nat) (v : DWord) : State :=
  let f := match s.dev.portWas with
    | some (n, f) => if n = now then f else s.dev.fabric
    | none => s.dev.fabric
  let s : State := { s with dev := { s.dev with fabric := f } }
  { s with dev := { s.dev with fabric := s.rotafAfter v, portWas := some (now, f) } }

/-- ROTAF_STAGE: a write that does not commit. -/
def execRotafStage (v : DWord) (s : State) : Host.Outcome State Fault Refusal :=
  if v.getLsbD 63 then .fault .notEnabled else .next (s.writeRotaf v)

/-- ROTAF_COMMIT. -/
def execRotafCommit (v : DWord) (s : State) : Host.Outcome State Fault Refusal :=
  if v.getLsbD 63 then .next (s.writeRotaf v) else .fault .notEnabled

/-- The pending table, once it is due, is the one in force. -/
def Fabric.due (f : Fabric) (dcyc : Nat) : Fabric :=
  match f.pend with
  | some (t, flen, due) => if dcyc < due then f else { f with table := t, flen := flen, pend := none }
  | none => f

/-- ROTAF_TABLE_IN_FORCE: 1,024 core cycles after its commit (R105). -/
def execRotafTableInForce (s : State) : Host.Outcome State Fault Refusal :=
  match s.dev.fabric.pend with
  | some (_, _, due) =>
    if s.dcyc < due then .fault .notEnabled
    else .next { s with dev := { s.dev with
      fabric := s.dev.fabric.due s.dcyc, portWas := s.dev.portWas.map fun x => (x.1, x.2.due s.dcyc) } }
  | none => .fault .notEnabled

/-- What a read of ROTAF returns. -/
def Fabric.read (f : Fabric) : DWord :=
  BitVec.ofNat 64 ((if f.pend.isSome then 2 ^ 33 else 0) + (if f.refused then 2 ^ 32 else 0) + f.flen * 2 ^ 16 + f.pos * 2 ^ 8 +
    (f.table[f.pos]?).getD 63)

/-! ### LCMAP (R326) -/

/-- Distinct owners with a logical core placed on a physical core. -/
def State.placedOwners (s : State) (p : Nat) : List Nat :=
  (List.range 64).filter fun o => s.lcores.any fun l => l.owner == o && l.placed && l.core == p

def State.isqOf (s : State) (o : Nat) : Nat := ((s.owner? o).map (·.orec.isq)).getD 0

/-- Is a write of LCMAP accepted? [DEDUCED: notes/assumptions/30.md; DESIGN CHOICE: notes/assumptions/51.md] -/
def State.lcmapOk (s : State) (v : DWord) : Bool :=
  let o := dfield v 5 0; let lc := dfield v 14 6; let p := dfield v 25 17; let share := dfield v 35 32
  let valid := v.getLsbD 31
  match s.owner? o with
  | none => false
  | some w =>
    let others := (s.placedOwners p).filter (· != o)
    let shares := (others.map fun x => tblGet 0 (s.core p).shares x).sum
    dfield v 63 36 == 0 && dfield v 30 26 == 0 && dfield v 16 15 == 0 && decide (lc < 2 ^ w.orec.shape) && !(s.core p).absent &&
    !((s.lcore? o lc).map (·.resident)).getD false &&
    (w.orec.untimed || !(rotaHeld (s.core p).rotac o).isEmpty) &&
    (if valid then
      decide ((others.map s.isqOf).sum + w.orec.isq ≤ 2 ^ 18) && decide (1 ≤ share ∧ share ≤ 8) && decide (shares + share ≤ 8)
     else share == 0)

/-- Give up the share of an owner on a core where none of its logical cores is placed any more. -/
def State.dropShare (s : State) (o p : Nat) : State :=
  if s.lcores.any fun l => l.owner == o && l.placed && l.core == p then s
  else s.setCore p { s.core p with shares := tblSet 0 (s.core p).shares o 0, dealt := tblSet 0 (s.core p).dealt o 0 }

/-- Take a logical core off its physical core. -/
def State.unplace (s : State) (o lc : Nat) : State :=
  match s.lcore? o lc with
  | none => s
  | some l => (s.modLcore o lc fun l => { l with placed := false }).dropShare o l.core

/-- Place a logical core, with its owner's share of the physical core. -/
def State.place (s : State) (o lc p share : Nat) : State :=
  let s := s.unplace o lc
  let s : State := if (s.lcore? o lc).isSome then s else { s with lcores := s.lcores ++ [lcoreNew o lc p] }
  let s := s.modLcore o lc fun l => { l with placed := true, core := p }
  s.setCore p { s.core p with shares := tblSet 0 (s.core p).shares o share }

/-- A write of LCMAP: a refused one changes nothing (R326). [DEDUCED: notes/assumptions/30.md] -/
def State.writeLcmap (s : State) (v : DWord) : State :=
  if s.lcmapOk v then
    let s : State := { s with dev := { s.dev with lcmap := v } }
    if v.getLsbD 31 then s.place (dfield v 5 0) (dfield v 14 6) (dfield v 25 17) (dfield v 35 32)
    else s.unplace (dfield v 5 0) (dfield v 14 6)
  else s

/-- LCMAP_WRITE. -/
def execLcmapWrite (v : DWord) (s : State) : Host.Outcome State Fault Refusal := .next (s.writeLcmap v)

/-- What a read of LCMAP returns: the entry of the last accepted write as it now stands. -/
def State.readLcmap (s : State) : DWord :=
  let o := dfield s.dev.lcmap 5 0; let lc := dfield s.dev.lcmap 14 6
  match s.lcore? o lc with
  | some l =>
    BitVec.ofNat 64 (o + lc * 2 ^ 6 + l.core * 2 ^ 17 +
      (if l.placed then 2 ^ 31 + tblGet 0 (s.core l.core).shares o * 2 ^ 32 else 0))
  | none => BitVec.ofNat 64 (o + lc * 2 ^ 6 + dfield s.dev.lcmap 25 17 * 2 ^ 17)

end Sys2Proof.Machine
end

