-- ==== Sys2Proof/Machine/Sys.lean ====
section
/-!
DEFINITION. The system registers and INTR (spec/02 R86, R87; spec/14 R442; spec/15 R449; spec/13 R404, R405): SRD, SWR, the
writes that do more than take a value, and the INTR record.
-/

namespace Sys2Proof.Machine

/-! ### SRD (R86, R442) -/

/-- The value of a system register as a strand reads it; a 32-bit one in the low word. [DEDUCED: notes/assumptions/54.md] -/
def State.sysRead (s : State) (t : Strand) (n : Nat) : DWord :=
  let o := t.id.owner; let lc := t.id.lcore
  let l (f : LCore → Nat) : DWord := BitVec.ofNat 64 (((s.lcore? o lc).map f).getD 0)
  let w (f : Owner → DWord) : DWord := ((s.owner? o).map f).getD 0
  let z (x : Word) : DWord := x.setWidth 64
  match n with
  | 0x000 => l (·.ocyc)
  | 0x002 => l (·.ostolen)
  | 0x004 => BitVec.ofNat 64 t.lclk
  | 0x006 => z (s.oturn o lc)
  | 0x007 => BitVec.ofNat 64 o
  | 0x008 => BitVec.ofNat 64 t.priv
  | 0x010 => w fun w => z w.tvec
  | 0x011 => z t.tcause
  | 0x012 => z t.tpc
  | 0x013 => z t.tmask
  | 0x014 => t.taddr
  | 0x016 => z t.tstrand
  | 0x020 => w (·.parkbase)
  | 0x022 => w (·.lovf)
  | 0x024 => w fun w => z w.jswap
  | 0x025 => w fun w => z w.qtimeout
  | 0x026 => w fun w => z w.rtmo
  | 0x030 => l fun l => maskOf ((l.tags.filter fun x => x.2.bit).map (·.1))
  | 0x032 => z t.batch
  | 0x040 => z t.cbase
  | 0x041 => z t.vbase
  | 0x100 => ((s.lcore? o lc).map fun l => s.readRotac l.core).getD 0
  | 0x102 => s.dev.fabric.read
  | 0x104 => s.readLcmap
  | 0x106 => BitVec.ofNat 64 s.dcyc
  | 0x110 => z s.dev.intdrop
  | _ => 0

/-- Is a register a pair? -/
def sysPair (n : Nat) : Bool := ((sysReg n).map (·.pair)).getD false

def execSrd (x : XOps) (n : BitVec 12) (s : State) : Host.Outcome State Fault Refusal :=
  issueWith (.srd x n) 1 (fun c s =>
    let v := s.sysRead c.t n.toNat
    .result s 4 (c.fill x.d (if sysPair n.toNat then [v.lo, v.hi] else [v.lo]))) s

/-! ### Writes of owner-held registers (R449) -/

/-- LOVF: zero empties the overflow list, and the staging places of host launches in it are free again (R277, R330); a record read in progress
is abandoned. [DESIGN CHOICE: notes/assumptions/71.md] -/
def State.writeLovf (s : State) (o : Nat) (v : DWord) : State :=
  if v = 0 then s.modOwner o fun w => { w with lovf := 0, staged := [], dist := { w.dist with read := none, stuck := false } } else s

/-- QTIMEOUT: values above 4,096 are taken as 4,096 (R309). [DEDUCED: notes/assumptions/54.md] -/
def State.writeQtimeout (s : State) (o : Nat) (v : Word) : State :=
  s.modOwner o fun w => { w with qtimeout := if 4096 < v.toNat then 4096 else v }

/-- JSWAP: JOINs compare with the new value from the next index on (R283). -/
def State.writeJswap (s : State) (o : Nat) (v : Word) : State := s.modOwner o fun w => { w with jswap := v, jswapAt := s.ownerNow o }

/-- INTDROP: any write sets it to 0 (R337). -/
def State.writeIntdrop (s : State) : State := { s with dev := { s.dev with intdrop := 0 } }

/-- TAKE of an owner's trap queue (R300), when its page can be read. -/
def State.trapTake (s : State) (w : Owner) : Option Nat :=
  (s.devPa w.id (w.parkbase.toNat + 0x40000 + 64) false false).map fun pa => s.num pa 4

/-- Has the trap queue an unconsumed record, stored or on its way (R449)? -/
def State.trapsLeft (s : State) (w : Owner) : Bool :=
  w.parkbase != 0 && (s.trapTake w).getD 0 != w.tput ||
  s.lcores.any fun l => l.owner == w.id && l.trecs.any fun r => !r.put

/-- PARKBASE: refused writes change nothing. [DEDUCED: notes/assumptions/46.md] -/
def State.writeParkbase (s : State) (o : Nat) (v : DWord) : State :=
  match s.owner? o with
  | none => s
  | some w =>
    let parked : Bool := s.accs.any fun a => a.strand.owner == o && a.lanes.any fun l => match l.st with
      | .parked .. => true
      | _ => false
    if v.toNat % 65536 ≠ 0 ∨ 2 ^ 56 ≤ v.toNat ∨ parked ∨ s.trapsLeft w then s
    else s.modOwner o fun w => { w with parkbase := v }

/-- LOVF_WRITE. -/
def execLovfWrite (o : Nat) (v : DWord) (s : State) : Host.Outcome State Fault Refusal :=
  if (s.owner? o).isSome then .next (s.writeLovf o v) else .fault .notEnabled
/-- PARKBASE_WRITE. -/
def execParkbaseWrite (o : Nat) (v : DWord) (s : State) : Host.Outcome State Fault Refusal :=
  if (s.owner? o).isSome then .next (s.writeParkbase o v) else .fault .notEnabled
/-- QTIMEOUT_WRITE. -/
def execQtimeoutWrite (o : Nat) (v : Word) (s : State) : Host.Outcome State Fault Refusal :=
  if (s.owner? o).isSome then .next (s.writeQtimeout o v) else .fault .notEnabled
/-- JSWAP_WRITE. -/
def execJswapWrite (o : Nat) (v : Word) (s : State) : Host.Outcome State Fault Refusal :=
  if (s.owner? o).isSome then .next (s.writeJswap o v) else .fault .notEnabled
/-- INTDROP_WRITE. -/
def execIntdropWrite (s : State) : Host.Outcome State Fault Refusal := .next s.writeIntdrop

/-! ### SWR (R87, R449) -/

/-- Write a register of a strand, or one that its owner, its core or the device holds. The bits of TCAUSE and TSTRAND that R297 calls
zero stay zero. [DEDUCED: notes/assumptions/54.md] -/
def State.sysWrite (s : State) (t : Strand) (n : Nat) (v : DWord) : State :=
  let o := t.id.owner
  let own (f : Strand → Strand) : State := s.modStrand t.id f
  match n with
  | 0x010 => s.modOwner o fun w => { w with tvec := v.lo }
  | 0x011 => own fun t => { t with tcause := v.lo &&& 0x0000FFFF }
  | 0x012 => own fun t => { t with tpc := v.lo }
  | 0x013 => own fun t => { t with tmask := v.lo }
  | 0x014 => own fun t => { t with taddr := v }
  | 0x016 => own fun t => { t with tstrand := v.lo &&& 0xFFFFFE00 }
  | 0x020 => s.writeParkbase o v
  | 0x022 => s.writeLovf o v
  | 0x024 => s.writeJswap o v.lo
  | 0x025 => s.writeQtimeout o v.lo
  | 0x026 => s.modOwner o fun w => { w with rtmo := v.lo }
  | 0x100 => ((s.lcore? o t.id.lcore).map fun l => s.writeRotac l.core v).getD s
  | 0x102 => s.swrRotaf (s.lcNow o t.id.lcore) v
  | 0x104 => s.writeLcmap v
  | 0x110 => s.writeIntdrop
  | _ => s

/-- Is a register held by the owner or reached through one port, so that writes of one index are ordered (R87, R104)? -/
def ownerWide (n : Nat) : Bool := [0x010, 0x020, 0x022, 0x024, 0x025, 0x026, 0x102, 0x104].contains n

/-- Has a higher logical core written the register in this index (R87), though its write was refused or ignored?
[DEDUCED: notes/assumptions/54.md] -/
def State.outwritten (s : State) (t : Strand) (n : Nat) : Bool :=
  ownerWide n && (match s.owner? t.id.owner with
    | some w =>
      let last := tblGet 0 w.swrAt n - 1
      decide (last / 512 = s.lcNow t.id.owner t.id.lcore ∧ t.id.lcore < last % 512)
    | none => false)

/-- Note the write. [DEDUCED: notes/assumptions/54.md] -/
def State.noteSwr (s : State) (t : Strand) (n : Nat) : State :=
  if ownerWide n then
    let at_ := s.lcNow t.id.owner t.id.lcore * 512 + t.id.lcore + 1
    s.modOwner t.id.owner fun w => { w with swrAt := tblSet 0 w.swrAt n at_ }
  else s

/-- An index of the owner is over: what was noted of the writes in it is too (R87, R449, R278). -/
def Owner.indexOver (w : Owner) (now : Nat) : Owner := { w with
  swrAt := w.swrAt.filter fun e => decide (now < (e.2 - 1) / 512)
  jswapAt := w.jswapAt.filter (decide <| now < ·)
  lovfAt := w.lovfAt.filter (decide <| now < ·) }

/-- A logical core comes back at an owner cycle: what was noted of its own writes in that index and later ones is of a run that is gone (R317),
and the distributor waits for no index past the one that follows. [DEDUCED: notes/assumptions/54.md] -/
def Owner.cameBack (w : Owner) (lc now : Nat) : Owner := { w with
  swrAt := w.swrAt.filter fun e => decide ((e.2 - 1) % 512 ≠ lc ∨ (e.2 - 1) / 512 < now)
  dist := { w.dist with next := min w.dist.next (now + 1) } }

/-- The fabric rota's earlier state is kept for as long as a note says which index wrote the port (R104). -/
def State.keepPort (s : State) : State :=
  if (s.owner? 0).any fun w => tblGet 0 w.swrAt 0x102 ≠ 0 then s else { s with dev := { s.dev with portWas := none } }

/-- SWR. -/
def execSwr (x : XOps) (n : BitVec 12) (s : State) : Host.Outcome State Fault Refusal :=
  issueWith (.swr x n) 1 (fun c s =>
    let v := if sysPair n.toNat then c.pair0 x.a else (c.lane0 x.a).setWidth 64
    .plain (if s.outwritten c.t n.toNat then s else (s.noteSwr c.t n.toNat).sysWrite c.t n.toNat v)) s

/-! ### INTR (R404, R405) -/

/-- INTR: its record is stored 400 owner cycles later, after every earlier access of the control slice (R405).
[DEDUCED: notes/assumptions/18.md; DEDUCED: notes/assumptions/46.md] -/
def execIntr (x : XOps) (s : State) : Host.Outcome State Fault Refusal :=
  issueWith (.intr x) 1 (fun c s =>
    let i := c.cur.strand
    let r : IntrRec := ⟨s.nextId, i, max (c.now + 400) ((s.horizon i [8] s.nextId).upTo + 1),
      ((s.owner? i.owner).map (·.ogen)).getD 0, field (c.lane0 x.a) 15 0, c.ocyc, c.lane0 x.b, false⟩
    .plain { s with intrs := s.intrs ++ [r] }) s

/-- Has an earlier access of the control slice still to act (R405)? [DEDUCED: notes/assumptions/46.md] -/
def State.intrHeld (s : State) (r : IntrRec) : Bool :=
  s.accs.any fun a => a.strand == r.strand && decide (a.id < r.id) && !ordersNothing a.instr && a.lanes.any fun l => a.agent l == 8 && !l.acted

/-- INTR_RECORD_STORE: the record 400 owner cycles after issue, unless the log is full or its owner was reset since; PUT and the
interrupt message one owner cycle later. A store that meets a fault leaves the record to the owner-0 side (R334).
[DEDUCED: notes/assumptions/46.md] -/
def execIntrRecordStore (id : Nat) (s : State) : Host.Outcome State Fault Refusal :=
  match s.intrs.find? fun r => r.id == id with
  | none => .fault .notEnabled
  | some r =>
    let gone : State := { s with intrs := s.intrs.filter fun q => q.id != id }
    let o := r.strand.owner
    let l : LogRec := ⟨o, 9, r.code, r.ogen, r.stamp, [r.value.toNat]⟩
    let now := s.lcNow o r.strand.lcore
    if now < r.due then .fault .notEnabled
    else if r.put then
      match gone.logPublish o with
      | .ok t => .next t
      | .error a => .next (s.logFault o a)
    else if s.intrHeld r then .fault .notEnabled
    else if s.log.any fun q => q.owner == o then .next (gone.logEvent l)
    else match gone.logPlace l with
      | .ok (t, true) => .next { t with intrs := t.intrs ++ [{ r with put := true, due := now + 1 }] }
      | .ok (t, false) => .next t
      | .error _ => .next (gone.logEvent l)

end Sys2Proof.Machine
end

