-- ==== Sys2Proof/Machine/Image.lean ====
section
/-!
DEFINITION. Context images (spec/10 R313 to R317; R224, R269): taking the image of a logical core, its bytes, the checks of a
restore, and bringing an image back.
-/

namespace Sys2Proof.Machine

/-! ### Frozen owners (R116, R117) -/

/-- Is an owner frozen: for a reason of its own, or while one of its logical cores is descheduled? A logical core of the shape that was
never placed is not descheduled; one that was placed and was unplaced is. [DESIGN CHOICE: notes/assumptions/64.md] -/
def State.frozen (s : State) (o : Nat) : Bool :=
  (match s.owner? o with
   | some w => !w.freezes.isEmpty
   | none => true) || s.lcores.any fun l => l.owner == o && !l.resident

/-! ### The bytes of an image (R314) -/

/-- Bytes of a tile with its companion rows (R165). -/
def Tile.bytes (e : Tile) : Nat := if e.st = .free then 0 else shapeRows e.shape * (shapeRB e.shape + shapeComp e.shape)

/-- Size of a section: where R315 gives a largest size only, some size up to it. An empty image holds no section but clause state.
[DESIGN CHOICE: notes/assumptions/14.md] -/
def Image.sectionLen (m : Image) (k : Nat) : Nat :=
  if k = 9 then (if m.arrays.isEmpty then 0 else 1061904)
  else if m.empty then 0
  else match k with
    | 0 => 512 * m.strands.length
    | 1 => 256 * m.groups.length
    | 2 => min 589824 (Config.sectionSize m.body k)
    | 3 => 32768
    | 4 => min 2097152 ((m.lc.tiles.filter fun e => e.2.level == 0).map fun e => e.2.bytes).sum
    | 5 => min 40960 (Config.sectionSize m.body k)
    | 6 => min 21504 (64 * m.lc.copies.length + Config.sectionSize m.body k)
    | 7 => min 18432 (4 * (m.strands.flatMap fun t => t.pends.flatMap fun p => (p.writes.map (·.1)).eraseDups).length)
    | _ => min 34816 (Config.sectionSize m.body k)

/-- The contents of a section (R315). [DESIGN CHOICE: notes/assumptions/14.md] -/
def Image.section_ (m : Image) (k : Nat) : List Byte := (List.range (m.sectionLen k)).map (Config.imageBody m.body k)

/-- Bytes of the sections 0 to 9. [DESIGN CHOICE: notes/assumptions/14.md] -/
def Image.sections (m : Image) : List Byte := (List.range 10).flatMap m.section_

/-- SIZE. -/
def Image.size (m : Image) : Nat := 256 + ((List.range 10).map m.sectionLen).sum

/-- DIR: offset and length of each section; they stand one after another behind the header. [DESIGN CHOICE: notes/assumptions/14.md] -/
def Image.dir (m : Image) : List Byte :=
  (List.range 10).flatMap fun k => numBytes 4 (256 + ((List.range k).map m.sectionLen).sum) ++ numBytes 4 (m.sectionLen k)

/-- The 256 bytes of the header. -/
def Image.header (m : Image) : List Byte :=
  let b (x : Bool) (v : Nat) : Nat := if x then v else 0
  let flags := b (!m.arrays.isEmpty) 1 + b m.forced 2 + b m.stopped 4 + b m.empty 8
  let crc := (crcStep 0xFFFFFFFF m.sections ^^^ 0xFFFFFFFF).toNat
  numBytes 2 1 ++ numBytes 2 1 ++ numBytes 1 m.owner ++ numBytes 1 flags ++ numBytes 2 m.lcore ++ numBytes 4 m.shape ++
  numBytes 4 m.ogen ++ numBytes 8 m.lc.ocyc ++ numBytes 8 m.lc.ostolen ++ numBytes 8 m.lc.igen ++
  numBytes 4 m.size ++ numBytes 4 crc ++ m.dir ++ List.replicate 128 0

def Image.bytes (m : Image) : List Byte := m.header ++ m.sections

/-! ### Saving (R131, R224, R269) -/

/-- The clause arrays of an owner, those that nothing has touched yet among them (R254). -/
def State.ownArrays (s : State) (o : Nat) : List (Nat × ClauseArray) :=
  (List.range (((s.owner? o).map (·.orec.caq)).getD 0)).map fun k => (o * 64 + k, s.clause o k)

/-- The clause arrays saved with a logical core: those its groups hold, and those no group holds that it held last, or that
nothing has held for logical core 0 (R269). -/
def State.arraysOf (s : State) (o lc : Nat) : List (Nat × ClauseArray) :=
  (s.ownArrays o).filter fun x => match x.2.holder with
    | some g => s.groups.any fun y => y.id == g && y.owner == o && y.lcore == lc
    | none => x.2.lastLc.getD 0 == lc

/-- Arrays that a logical core held go with its state: what stays says only whose they are (R269). [DESIGN CHOICE: notes/assumptions/14.md] -/
def State.dropArrays (s : State) (lc : Nat) (gone : List (Nat × ClauseArray)) : State :=
  { s with clauses := gone.foldl (fun t x => tblSet clause0 t x.1 { clause0 with lastLc := if lc = 0 then none else some lc }) s.clauses }

/-- A lane of a WAITA that is parked: its record goes, and the image marks it (R224). -/
def markWaita (a : Acc) : Acc :=
  match a.instr with
  | .waita .. => { a with lanes := a.lanes.map fun l => match l.st with
      | .parked .. => { l with st := .marked }
      | _ => l }
  | _ => a

/-- Remove the records of a logical core's parked WAITA lanes. -/
def State.unparkWaitas (s : State) (o lc : Nat) : State :=
  (s.accs.filter fun a => a.strand.owner == o && a.strand.lcore == lc).foldl (fun s a =>
    match a.instr with
    | .waita .. => unpark s a
    | _ => s) s

/-- Does an owner wait for an effect of device memory that is late (R116)? -/
def State.isLate (s : State) (o : Nat) : Bool :=
  ((s.owner? o).map fun w => w.freezes.any fun f => match f with
    | .late _ => true
    | _ => false).getD false

/-- An access still outstanding is saved as an empty slot: one to host memory that Kwayr Link does not carry now, one whose effect was due
and is late (R131). -/
def State.emptySlot (s : State) (l : LCore) (a : Acc) : Acc :=
  { a with slot := s.accWaits a || (s.isLate l.owner && a.lanes.any fun x => x.st == .todo && decide (x.due ≤ l.ocyc)) }

/-- The drain of a save: copies go to the end of their chunk, the clause arrays to the end of a round, a column or a command; results, accesses
and steps of the array stand with their due owner cycles (R131, R270, R310). The logical core as it stands then.
[DEDUCED: notes/assumptions/27.md] -/
def State.drainCore (s : State) (o lc : Nat) : State × Option LCore :=
  let s := s.drainCopies o lc
  match s.lcore? o lc with
  | none => (s, none)
  | some l =>
    ({ s with clauses := (s.arraysOf o lc).foldl (fun t x => tblSet clause0 t x.1 x.2.drained) s.clauses }, some l)

/-! ### What stays outside an image (R313) -/

/-- The contents of tiles of levels 1 and 2, and the registers of strands in the spill area. -/
def State.keptOf (s : State) (l : LCore) : List Kept :=
  (l.tiles.filter fun e => e.2.st != .free && e.2.level != 0).map (fun e => ⟨l.owner, l.num, some e.1, 0, e.2.data, e.2.comp, [], []⟩) ++
  ((s.strandsOf l.owner l.num).filter fun t => t.res == .out).map fun t => ⟨l.owner, l.num, none, t.id.slot, [], [], t.cregs, t.vregs⟩

/-- They stay in place while the logical core is not there. -/
def State.keepOutside (s : State) (l : LCore) : State :=
  { s with kept := (s.kept.filter fun k => !(k.owner == l.owner && k.lcore == l.num)) ++ s.keptOf l }

/-- A tile as its image holds it: without contents where these lie outside. -/
def Tile.inImage (e : Tile) : Tile := if e.level = 0 then e else { e with data := [], comp := [] }

/-- A strand as its image holds it. -/
def Strand.inImage (t : Strand) : Strand := if t.res = .out then { t with cregs := [], vregs := [] } else t

/-- What was kept outside comes back to a logical core that is there again. -/
def State.takeOutside (s : State) (o lc : Nat) : State :=
  let mine := s.kept.filter fun k => k.owner == o && k.lcore == lc
  let s := s.modLcore o lc fun l => { l with
    tiles := l.tiles.map fun e => match mine.find? fun k => k.tile == some e.1 with
      | some k => if e.2.level = 0 then e else (e.1, { e.2 with data := k.data, comp := k.comp })
      | none => e }
  { s with
    strands := s.strands.map fun t =>
      if t.id.owner = o ∧ t.id.lcore = lc ∧ t.res = .out then
        match mine.find? fun k => k.tile.isNone && k.slot == t.id.slot with
        | some k => { t with cregs := k.cregs, vregs := k.vregs }
        | none => t
      else t
    kept := s.kept.filter fun k => !(k.owner == o && k.lcore == lc) }

/-- The image of a logical core as it stands; it is an empty one when it holds no strand and no tile and OCYC is 0 (R314).
[DEDUCED: notes/assumptions/27.md] -/
def State.imageOf (s : State) (l : LCore) (forced : Bool) : Image :=
  let o := l.owner
  let mine (i : StrandId) : Bool := i.owner == o && i.lcore == l.num
  let ts := s.strands.filter fun t => mine t.id
  let arrays := s.arraysOf o l.num
  { body := s.nextId, owner := o, lcore := l.num, shape := ((s.owner? o).map (·.orec.shape)).getD 0
    ogen := ((s.owner? o).map (·.ogen)).getD 0, forced := forced
    stopped := ts.any fun t => t.res == .here && !s.quietAt t none
    empty := ts.isEmpty && l.ocyc == 0 && l.tiles.all fun t => t.2.st == .free
    lc := { l with igen := l.igen + 1, placed := false, resident := false, tiles := l.tiles.map fun e => (e.1, e.2.inImage) }
    strands := ts.map (·.inImage)
    groups := s.groups.filter fun g => g.owner == o && g.lcore == l.num
    accs := (s.accs.filter fun a => mine a.strand).map fun a => markWaita (s.emptySlot l a)
    arrays := arrays
    opens := (((s.owner? o).map (·.opens)).getD []).filter fun q => q.cmd.strand.lcore == l.num
    savedAt := s.dcyc }

/-- A logical core's state leaves the part. -/
def State.clearCore (s : State) (o lc : Nat) (igen : Nat) : State :=
  let mine (i : StrandId) : Bool := i.owner == o && i.lcore == lc
  let s := s.modLcore o lc fun l => { lcoreNew o lc l.core with placed := l.placed, igen := igen }
  let s := s.modOwner o fun w => { w with opens := w.opens.filter fun q => q.cmd.strand.lcore != lc }
  { s with
    strands := s.strands.filter fun t => !mine t.id
    groups := s.groups.filter fun g => !(g.owner == o && g.lcore == lc)
    accs := s.accs.filter fun a => !mine a.strand }

/-- Discard a logical core's state: its park records, transfers and clause arrays too; what R313 leaves outside an image stays. INTR records
of an earlier generation of the owner count in INTDROP (R337). -/
def State.discardCore (s : State) (l : LCore) : State :=
  let o := l.owner
  let gone := s.arraysOf o l.num
  let s := (s.accs.filter fun a => a.strand.owner == o && a.strand.lcore == l.num).foldl unpark (s.keepOutside l)
  let mine (r : IntrRec) : Bool := r.strand.owner == o && r.strand.lcore == l.num
  let ogen := ((s.owner? o).map (·.ogen)).getD 0
  ({ s.intDrops (s.intrs.filter fun r => mine r && !r.put && decide (r.ogen < ogen)).length with
    clauses := s.clauses.filter fun x => !(gone.any fun y => y.1 == x.1)
    transfers := s.transfers.filter fun t => !(t.owner == o && t.lcore == l.num)
    dets := s.dets.filter fun d => !(d.owner == o && d.lcore == l.num)
    intrs := s.intrs.filter fun r => !mine r }).clearCore o l.num l.igen

/-- May a range of owner-0 addresses be read or written (R132)? Owner 0 addresses device memory as it lies. -/
def State.inDevice (s : State) (addr n : Nat) : Bool :=
  decide (addr + n ≤ deviceBytes) &&
  ((List.range ((addr % 65536 + n + 65535) / 65536)).all fun i => s.hasMemory (addr / 65536 * 65536 + 65536 * i))

/-- Save a logical core to owner-0 memory, and say whether the store met a fault: then nothing of the image is written and
the state is lost (R132). -/
def State.saveCore (s : State) (l : LCore) (addr : Nat) (forced : Bool) : State × Bool :=
  let m := s.imageOf l forced
  if s.inDevice addr m.size then
    let s := ((s.unparkWaitas l.owner l.num).store 0 addr addr m.bytes (some true) false none).keepOutside l
    ((({ s with images := s.images ++ [m] }.fresh).dropArrays l.num m.arrays).clearCore l.owner l.num (l.igen + 1), true)
  else (s.discardCore l, false)

/-! ### The checks of a restore (R316) -/

def hdrNum (bs : List Byte) (off n : Nat) : Nat := ofBytesLE ((bs.drop off).take n)

/-- The number, 1 to 7, of the first check that fails; 0 when none does. [DEDUCED: notes/assumptions/28.md] -/
def imageReason (w : Owner) (lc : Option Nat) (h : List Byte) (crcOk : Bool) (arrays : List Nat) : Nat :=
  let n := hdrNum h 6 2 % 512
  if hdrNum h 0 2 ≠ 1 ∨ hdrNum h 2 2 ≠ 1 then 1
  else if hdrNum h 4 1 % 64 ≠ w.id then 2
  else if hdrNum h 12 4 ≠ w.ogen then 3
  else if hdrNum h 8 1 % 16 ≠ w.orec.shape then 4
  else if 2 ^ w.orec.shape ≤ n ∨ lc.getD n ≠ n then 5
  else if !crcOk then 6
  else if arrays.any fun k => decide (w.orec.caq ≤ k) then 7
  else 0

end Sys2Proof.Machine

/-- What the sections of an image mean that another part wrote (R315 gives no layout). [DESIGN CHOICE: notes/assumptions/14.md] -/
opaque Sys2Proof.Config.imageContents : List Sys2Proof.Byte → Sys2Proof.Machine.Image

namespace Sys2Proof.Machine

/-- An identity within a logical core. -/
def idWithin (o lc : Nat) (i : StrandId) : StrandId := { i with owner := o, lcore := lc }

/-- An image that another part wrote: what its header states, and the contents that its bytes stand for (R314, R316, R319).
[DESIGN CHOICE: notes/assumptions/14.md; DEDUCED: notes/assumptions/28.md] -/
def foreignImage (w : Owner) (bs : List Byte) : Image :=
  let m := Config.imageContents bs
  let lc := hdrNum bs 6 2 % 512
  let flag (k : Nat) : Bool := (hdrNum bs 5 1).testBit k
  { m with
    owner := w.id, lcore := lc, shape := w.orec.shape, ogen := w.ogen, forced := flag 1, stopped := flag 2, empty := flag 3
    lc := { m.lc with
      owner := w.id, num := lc, ocyc := hdrNum bs 16 8, ostolen := hdrNum bs 24 8, igen := hdrNum bs 32 8
      tiles := if flag 3 then [] else m.lc.tiles }
    strands := if flag 3 then [] else m.strands.map fun t => { t with id := idWithin w.id lc t.id }
    groups := m.groups.map fun g => { g with owner := w.id, lcore := lc }
    accs := m.accs.map fun a => { a with strand := idWithin w.id lc a.strand }
    arrays := if flag 0 then m.arrays.map fun x => (w.id * 64 + x.1 % 64, x.2) else []
    opens := m.opens.map fun q => { q with cmd := { q.cmd with strand := idWithin w.id lc q.cmd.strand } } }

/-- The hardware empty image of a logical core: no strand, no tile, OCYC and OSTOLEN 0 (R330). [DEDUCED: notes/assumptions/28.md] -/
def emptyImage (w : Owner) (lc : Nat) : Image :=
  ⟨0, w.id, lc, w.orec.shape, w.ogen, false, false, true, lcoreNew w.id lc 0, [], [], [], [], [], 0⟩

/-- The image that owner-0 memory holds at an address, for an owner and, where it is given, a logical core; or the reason of
its refusal. [DESIGN CHOICE: notes/assumptions/14.md; DEDUCED: notes/assumptions/28.md] -/
def State.imageAt (s : State) (w : Owner) (lc : Option Nat) (addr : Nat) : Except Nat Image :=
  let h := s.bytes addr 256
  let size := hdrNum h 40 4
  let known := s.images.find? fun m => s.bytes addr m.bytes.length == m.bytes
  let crcOk := decide (256 ≤ size ∧ size ≤ 0x400000) &&
    (crcStep 0xFFFFFFFF (s.bytes (addr + 256) (size - 256)) ^^^ 0xFFFFFFFF).toNat == hdrNum h 44 4
  let other := foreignImage w (s.bytes addr size)
  let clean := !anyPoison s addr (max 256 (min size 0x400000))
  match known with
  | some m =>
    match imageReason w lc h clean (m.arrays.map fun x => x.1 % 64) with
    | 0 => .ok m
    | r => .error r
  | none =>
    match imageReason w lc h (crcOk && clean) (other.arrays.map fun x => x.1 % 64) with
    | 0 => .ok (if hdrNum h 5 1 % 16 / 8 = 1 ∧ hdrNum h 5 1 % 2 = 0 then emptyImage w (hdrNum h 6 2 % 512) else other)
    | r => .error r

/-! ### Restoring (R317) -/

/-- A window translated anew from its base; one that no longer translates is stale, and one that an XDROP emptied is empty (R473).
[DEDUCED: notes/assumptions/28.md] -/
def State.retranslate (s : State) (o : Nat) (w : WinSlot) : WinSlot :=
  if !w.used then w
  else if w.dropped.isSome then { w with used := false, dropped := none, gen := (w.gen + 1) % 4096 }
  else match s.pageOf o w.base with
    | .ok p => { w with page := p }
    | .error _ => { w with used := false, gen := (w.gen + 1) % 4096 }

/-- A marked lane returns SPURIOUS at the 64th owner cycle after the restore (R224). [DEDUCED: notes/assumptions/43.md] -/
def unmarkLane (due : Nat) (l : LaneAcc) : LaneAcc :=
  match l.st with
  | .marked => { l with st := .spurious due }
  | _ => l

/-- The steps of an MTILE that have not started count S anew from the restore (R202).
[DEDUCED: notes/assumptions/28.md; DEDUCED: notes/assumptions/38.md] -/
def MatCmd.restored (now : Nat) (m : MatCmd) : MatCmd := if m.macro_.isSome then { m with entered := now } else m

/-- Bring an image back on the logical core's place: it is resident from now on. [DEDUCED: notes/assumptions/28.md] -/
def State.installImage (s : State) (m : Image) (core : Nat) : State :=
  let o := m.owner
  let igen := ((s.lcore? o m.lcore).map (·.igen)).getD 0
  let now := if s.untimed o then s.dcyc else m.lc.ocyc
  let due := now + 64
  let away := if s.untimed o then s.dcyc - m.savedAt else 0
  let s := s.modLcore o m.lcore fun _ => { m.lc with
    igen := igen, placed := true, resident := true, core := core, doneAt := none, asked := none, mats := m.lc.mats.map (·.restored now) }
  let s : State := { s with
    strands := s.strands ++ m.strands.map (·.standStill away)
    groups := s.groups ++ m.groups.map fun g => { g with windows := g.windows.map fun x => (x.1, s.retranslate o x.2) }
    accs := s.accs ++ m.accs.map fun a => { a.standStill away with lanes := a.lanes.map (unmarkLane due) }
    clauses := m.arrays.foldl (fun t x => tblSet clause0 t x.1 x.2) s.clauses }
  let s := (s.modOwner o fun w => { w.cameBack m.lcore now with opens := w.opens ++ m.opens }).keepPort
  (s.takeOutside o m.lcore).sendHeld o

/-- DRAIN_SLOT_ARRIVAL: an access saved as an empty slot arrives, and its slot is full (R131): once Kwayr Link carries accesses and no effect
of its owner is late. -/
def execDrainSlotArrival (id : Nat) (s : State) : Host.Outcome State Fault Refusal :=
  let p (a : Acc) : Bool := a.id == id && a.slot && !s.isLate a.strand.owner
  let f (a : Acc) : Acc := { a with slot := false }
  if s.dev.link && (s.accs.any p || s.images.any fun m => m.accs.any p) then
    .next { s with
      accs := modWhere s.accs p f
      images := s.images.map fun m => { m with accs := modWhere m.accs p f } }
  else .fault .notEnabled

end Sys2Proof.Machine
end

