-- ==== Sys2Proof/Machine/Swap.lean ====
section
/-!
DEFINITION. The headgate swap (spec/03 R127 to R136; spec/13 R403): HGATE and its checks, the phases of a swap, and what its end
leaves. The turns of the named positions are counted in `Swap.turns` as they are dealt.
-/

namespace Sys2Proof.Machine

/-! ### The swap word and its checks (R127, R128) -/

/-- The owner a swap takes the positions from: the one that holds the first named position. -/
def swapOut (v : DWord) (mask : Nat) : Nat := (((bitsOf 8 mask).head?).map (rotaPos v)).getD 63

/-- Status 2: the mask. -/
def badMask (v : DWord) (mask : Nat) : Bool :=
  let out := swapOut v mask
  mask == 0 || (bitsOf 8 mask).any (fun p => decide (rotaLen v ≤ p)) || bitsOf 8 mask != rotaHeld v out

/-- Status 5: the rota that the swap makes fails R106 or R107. -/
def State.swapQuota (s : State) (p : Nat) (mask inown : Nat) : Bool :=
  let v := (s.core p).rotac
  let v' := swapTable v mask inown
  let fab := match s.dev.fabric.pend with
    | some (t, n, _) => [(t, n, none)]
    | none => [(s.dev.fabric.table, s.dev.fabric.flen, none)]
  !(rotaFormOk v' && s.keepsPlaces p v v' (some (swapOut v mask)) && s.fabricOk p [v'] fab)

/-- The status of a swap request: the lowest number whose condition holds; 0 accepts (R128). `own` is the core that carries the
issuer, when owner 0's own positions there are barred (R403). -/
def State.hgateStatus (s : State) (own : Option Nat) (w : Word) (b c : DWord) : Nat :=
  let p := field w 8 0; let mask := field w 23 16; let inown := field w 15 10
  let k := s.core p
  let out := swapOut k.rotac mask
  if k.absent then 1
  else if badMask k.rotac mask then 2
  else if k.swap.isSome ∨ k.pend.isSome ∨ (own = some p ∧ out = 0) then 3
  else if b.toNat % 65536 ≠ 0 ∨ c.toNat % 65536 ≠ 0 ∨ field w 31 26 ≠ 0 ∨ w.getLsbD 9 then 4
  else if s.swapQuota p mask inown then 5
  else if inown = out then 6
  else if 1 < (s.onCore out p).length ∨ 1 < (s.onCore inown p).length then 7
  else 0

/-- A swap not yet begun. -/
def swapOf (mask inown out : Nat) (nosave force : Bool) (save image start : Nat) (queue : Option Nat) (reset : Bool) : Swap :=
  { mask := mask, inown := inown, out := out, nosave := nosave, force := force, save := save, image := image, start := start
    turns := none, quiet := false, saved := false, loaded := none, read := false, bound := false, result := 0, queue := queue
    reset := reset }

/-- Schedule an accepted swap (R129): it begins at the first turn of the positions at least 256 core cycles later. -/
def State.schedule (s : State) (w : Word) (b c : DWord) (queue : Option Nat) : State :=
  let p := field w 8 0; let mask := field w 23 16
  let k := s.core p
  let x := swapOf mask (field w 15 10) (swapOut k.rotac mask) (w.getLsbD 25) (w.getLsbD 24) b.toNat c.toNat (s.dcyc + 256) queue
    false
  s.setCore p { k with swap := some x }

/-- HGATE. -/
def execHgate (x : XOps) (s : State) : Host.Outcome State Fault Refusal :=
  issueWith (.hgate x) 1 (fun c s =>
    let i := c.cur.strand
    let w := c.lane0 x.a
    let st := s.hgateStatus ((s.lcore? i.owner i.lcore).map (·.core)) w (c.pair0 x.b) (c.pair0 x.c)
    .result (if st = 0 then s.schedule w (c.pair0 x.b) (c.pair0 x.c) none else s) 4 (c.fill x.d [BitVec.ofNat 32 st])) s

/-! ### Phases (R129 to R132) -/

/-- Is the current core cycle of a core a turn of the positions a swap names? -/
def State.swapTurn (s : State) (p : Nat) (w : Swap) : Bool :=
  w.mask.testBit (s.dcyc % rotaLen (s.core p).rotac)

def State.setSwap (s : State) (p : Nat) (w : Swap) : State := s.setCore p { s.core p with swap := some w }

/-- Is the current core cycle of a core not dealt yet? -/
def State.notDealt (s : State) (p : Nat) : Bool :=
  match s.turn, s.atCore with
  | some t, _ => decide (t.core < p)
  | none, some q => decide (q ≤ p)
  | none, none => true

/-- Does the turn that is dealt next on a core bring a swap to j = k or later? -/
def State.swapReached (s : State) (p : Nat) (w : Swap) (k : Nat) : Bool :=
  (match w.turns with
   | some j => decide (k ≤ j)
   | none => false) && s.swapTurn p w && s.notDealt p

/-- SWAP_BEGIN: turn j = 0. With FORCE the outgoing owner freezes at once. [DEDUCED: notes/assumptions/26.md] -/
def execSwapBegin (p : Nat) (s : State) : Host.Outcome State Fault Refusal :=
  match (s.core p).swap with
  | some w =>
    if w.turns.isSome ∨ s.dcyc < w.start ∨ ¬ s.swapTurn p w then .fault .notEnabled
    else
      let s := s.setSwap p { w with turns := some 0, quiet := w.force }
      .next (if w.force then s.freeze w.out (.swap p) else s)
  | none => .fault .notEnabled

/-- Are all strands of an owner's logical cores on a core quiet? -/
def State.coreQuiet (s : State) (o p : Nat) : Bool :=
  (s.onCore o p).all fun l => (s.strandsOf o l.num).all fun t => t.res != .here || s.quietAt t none

/-- SWAP_QUIET_END: every strand is quiet, or j = 4,096; the outgoing owner freezes (R130). [DEDUCED: notes/assumptions/26.md] -/
def execSwapQuietEnd (p : Nat) (s : State) : Host.Outcome State Fault Refusal :=
  match (s.core p).swap with
  | some w =>
    if w.turns.isNone ∨ w.quiet ∨ ¬ (s.swapReached p w 4096 ∨ s.coreQuiet w.out p) then .fault .notEnabled
    else .next ((s.setSwap p { w with quiet := true }).freeze w.out (.swap p))
  | none => .fault .notEnabled

/-- SWAP_SAVE_PHASE: the drain is over, and the outgoing logical core is written to its image, or discarded (R131, R132).
[DEDUCED: notes/assumptions/26.md] -/
def execSwapSavePhase (p : Nat) (s : State) : Host.Outcome State Fault Refusal :=
  match (s.core p).swap with
  | some w =>
    if ¬ s.swapReached p w 6144 ∨ ¬ w.quiet ∨ w.saved then .fault .notEnabled
    else
      let (s', ok) := (s.onCore w.out p).foldl (fun (x : State × Bool) l =>
        match x.1.drainCore w.out l.num with
        | (s, none) => (s, x.2)
        | (s, some l) =>
          if w.nosave then (s.discardCore l, x.2)
          else
            let (y, ok) := s.saveCore l w.save w.force
            (y, x.2 && ok)) (s, true)
      .next (s'.setSwap p { w with saved := true, result := if ok then 0 else 1 })
  | none => .fault .notEnabled

/-- What the restore phase finds: the incoming image or a result that is not 0. -/
def State.swapLoad (s : State) (p : Nat) (w : Swap) : Except Nat (Option Image) :=
  if w.result ≠ 0 then .error w.result
  else if w.inown = 63 ∨ w.reset then .ok none
  else if ¬ s.inDevice w.image 256 then .error 2
  else
    let size := hdrNum (s.bytes w.image 256) 40 4
    match s.owner? w.inown with
    | none => .error 3
    | some o =>
      match s.imageAt o none w.image with
      | .error _ => .error (if s.inDevice w.image size then 3 else 2)
      | .ok m =>
        let taken : Bool := match s.lcore? m.owner m.lcore with
          | some l => l.resident || (l.placed && l.core != p)
          | none => false
        if ¬ s.inDevice w.image size then .error 2 else if taken then .error 3 else .ok (some m)

/-- SWAP_RESTORE_PHASE: the incoming image is read and checked (R132). [DEDUCED: notes/assumptions/26.md] -/
def execSwapRestorePhase (p : Nat) (s : State) : Host.Outcome State Fault Refusal :=
  match (s.core p).swap with
  | some w =>
    if ¬ s.swapReached p w 49835 ∨ ¬ w.saved ∨ w.read then .fault .notEnabled
    else match s.swapLoad p w with
      | .ok m => .next (s.setSwap p { w with read := true, loaded := m })
      | .error r => .next (s.setSwap p { w with read := true, result := r })
  | none => .fault .notEnabled

/-- SWAP_REBIND: the entries are rewritten; reads show them from the swap's end on (R133). [DEDUCED: notes/assumptions/26.md] -/
def execSwapRebind (p : Nat) (s : State) : Host.Outcome State Fault Refusal :=
  match (s.core p).swap with
  | some w =>
    if ¬ s.swapReached p w 93526 ∨ ¬ w.read ∨ w.bound then .fault .notEnabled else .next (s.setSwap p { w with bound := true })
  | none => .fault .notEnabled

/-! ### The end (R133) -/

/-- Shares of a core that no placed owner holds. [DEDUCED: notes/assumptions/26.md] -/
def State.freeShare (s : State) (p : Nat) : Nat :=
  8 - ((s.placedOwners p).map fun o => tblGet 0 (s.core p).shares o).sum

/-- Place the incoming logical core with the share the outgoing owner held.
[DEDUCED: notes/assumptions/26.md; DESIGN CHOICE: notes/assumptions/51.md] -/
def State.placeIncoming (s : State) (p : Nat) (share : Nat) (m : Image) : State :=
  (s.place m.owner m.lcore p share).installImage m p

/-- The logical cores of a reset owner on a core start from the hardware empty image, and a held interrupt message is dropped (R337).
[DEDUCED: notes/assumptions/29.md] -/
def State.resetCores (s : State) (o p : Nat) : State :=
  match s.owner? o with
  | none => s
  | some w => (s.onCore o p).foldl (fun s l => s.installImage (emptyImage w l.num) p) (s.modOwner o fun w => { w with held := false })

/-- The state at j = 98,304: the rota, whose ARR bits stay as they are, the placements, the share, the record.
[DEDUCED: notes/assumptions/26.md] -/
def State.endSwap (s : State) (p : Nat) (w : Swap) : State :=
  let k := s.core p
  let good : Bool := w.result == 0
  let share := if (s.onCore w.out p).isEmpty then s.freeShare p else tblGet 0 k.shares w.out
  let s := s.setCore p { k with rotac := swapTable k.rotac w.mask (if good then w.inown else 63), swap := none }
  let s := if w.reset then s.resetCores w.out p
    else
      let s := (s.onCore w.out p).foldl (fun s l => s.unplace w.out l.num) s
      match w.loaded with
      | some m => if good then s.placeIncoming p share m else s
      | none => s
  (s.thaw w.out (.swap p)).logRecord 0 2 w.result 0 [p, w.mask, w.out, w.inown]

end Sys2Proof.Machine
end

