-- ==== Sys2Proof/Machine/Queue.lean ====
section
/-!
DEFINITION. The queue port (spec/11 R328 to R333): commands and their forms, the queues and their slots, ENQUEUE, COMMAND_TAKE,
and the end of a command.
-/

namespace Sys2Proof.Machine

/-! ### Commands (R329, R330) -/

def cmdNum (c : Command) (off n : Nat) : Nat := ofBytesLE ((c.drop off).take n)
def cmdOp (c : Command) : Nat := cmdNum c 0 1
def cmdTag (c : Command) : Nat := cmdNum c 4 4
/-- NOTIFY. -/
def cmdNotify (c : Command) : Bool := (cmdNum c 0 4).testBit 8

/-- Bytes of the body that an OP uses, as ranges. -/
def cmdUses (c : Command) : Option (List (Nat × Nat)) :=
  match cmdOp c with
  | 0x01 => some [(8, 73)]
  | 0x02 => some [(8, 9), (12, 20)]
  | 0x03 => some [(12, 16)]
  | 0x04 => some [(8, 9), (12, 16)]
  | 0x10 => some [(8, 16)]
  | 0x11 | 0x12 | 0x17 | 0x18 | 0x1D => some [(8, 9)]
  | 0x13 => some [(8, 9), (12, 28)]
  | 0x14 | 0x15 => some [(8, 11), (16, 16 + 8 * cmdNum c 10 1)]
  | 0x16 => some [(8, 12), (16, 32)]
  | 0x19 => some [(8, 12), (16, 24)]
  | 0x1A => some [(8, 10), (16, 24)]
  | 0x1B => some [(8, 10)]
  | 0x1C => some [(16, 24)]
  | _ => none

/-- Is the form right: 128 bytes, a known OP, no reserved bit set, RESOLVE's answer one of the two there are?
[DEDUCED: notes/assumptions/31.md] -/
def cmdFormOk (c : Command) : Bool :=
  match cmdUses c with
  | none => false
  | some us =>
    c.length == 128 && cmdNum c 0 4 / 2 ^ 9 == 0 &&
    ((List.range 128).all fun i => decide (i < 8) || us.any (fun u => decide (u.1 ≤ i ∧ i < u.2)) || cmdNum c i 1 == 0) &&
    (match cmdOp c with
     | 0x01 => decide (cmdNum c 72 1 < 2)
     | 0x02 => cmdNum c 16 4 / 2 ^ 12 % 2 ^ 19 == 0
     | 0x1A => decide (cmdNum c 9 1 < 2)
     | _ => true)

/-- Commands that only owner 0 may give. -/
def ownerZeroOp (op : Nat) : Bool := decide (0x10 ≤ op)

/-! ### Slots (R332) -/

def State.queue? (s : State) (o q : Nat) : Option Queue := s.dev.queues.find? fun x => x.owner == o && x.num == q

def State.modQueue (s : State) (o q : Nat) (f : Queue → Queue) : State :=
  { s with dev := { s.dev with queues := modWhere s.dev.queues (fun x => x.owner == o && x.num == q) f } }

/-- The queue's record, made when it is first used. -/
def State.withQueue (s : State) (o q : Nat) : State :=
  if (s.queue? o q).isSome then s
  else { s with dev := { s.dev with queues := s.dev.queues ++ [⟨o, q, if o = 0 ∧ q < 4 then some q else none, [], 0, none, none⟩] } }

/-- A free slot for tenant queues. -/
def State.freeSlot (s : State) : Option Nat :=
  ((List.range 252).map (· + 4)).find? fun k => !(s.dev.queues.any fun x => x.slot == some k)

/-- The pre-emptible mapped queue whose last enqueue is oldest. -/
def State.victim (s : State) : Option Queue :=
  let can := s.dev.queues.filter fun x => x.owner != 0 && x.slot.isSome &&
    !(((s.owner? x.owner).map fun w => w.orec.npmask.testBit x.num).getD false)
  can.find? fun x => can.all fun y => decide (x.last ≤ y.last)

/-- Enter the pending set, once. -/
def State.pend (s : State) (o q : Nat) : State :=
  if s.dev.pending.contains (o, q) then s else { s with dev := { s.dev with pending := s.dev.pending ++ [(o, q)] } }

/-- Address of a queue's image, where owner-0 memory has its 4 KiB. -/
def State.queueImage (s : State) (o q : Nat) : Option Nat :=
  ((s.owner? o).map fun w => w.orec.qimg + 4096 * q).filter fun a => s.inDevice a 4096

/-- The bytes of a saved queue image. [DESIGN CHOICE: notes/assumptions/60.md] -/
def queueBytesOf (n : Nat) : List Byte := (List.range 4096).map (Config.queueBytes n)

/-- A queue is unmapped, and its image is saved. [DESIGN CHOICE: notes/assumptions/60.md] -/
def State.unmapQueue (s : State) (o q : Nat) : State :=
  let s := match s.queueImage o q with
    | some a => s.store 0 a a (queueBytesOf s.freeN) (some true) false none
    | none => s
  { s.modQueue o q fun x => { x with slot := none, img := some s.freeN } with freeN := s.freeN + 1 }

/-- The commands of a queue that is to be mapped, as its image gives them: those it held, unless the bytes of its image were changed.
[DESIGN CHOICE: notes/assumptions/60.md] -/
def State.queueRead (s : State) (x : Queue) : List Command :=
  match x.img, s.queueImage x.owner x.num with
  | some n, some a =>
    let bs := s.bytes a 4096
    if bs = queueBytesOf n then x.cmds else (Config.queueContents bs).take 16
  | _, _ => x.cmds

/-- Give a queue a slot, its image read. [DESIGN CHOICE: notes/assumptions/60.md] -/
def State.mapQueue (s : State) (o q slot : Nat) : State :=
  let s := s.modQueue o q fun x => { x with slot := some slot, cmds := s.queueRead x, img := none }
  { s with dev := { s.dev with pending := s.dev.pending.filter (· != (o, q)) } }

/-- A slot is free: the queue that entered the pending set first is mapped, and its owner's log says so. [DEDUCED: notes/assumptions/31.md] -/
def State.servePending (s : State) : State :=
  match s.dev.pending, s.freeSlot with
  | (o, q) :: _, some k => ((s.withQueue o q).mapQueue o q k).logRecord o 6 q 0 []
  | _, _ => s

/-! ### ENQUEUE (R328, R332, R333) -/

/-- Status 3. -/
def enqueueRejects (w : Option Owner) (q : Nat) (c : Command) : Bool :=
  match w with
  | none => true
  | some w => decide (w.orec.nq ≤ q) || !cmdFormOk c || (ownerZeroOp (cmdOp c) && w.id != 0) || w.reset

/-- Accept a command into a queue. -/
def State.accept (s : State) (o q : Nat) (c : Command) : State :=
  s.modQueue o q fun x => { x with cmds := x.cmds ++ [c], last := s.dcyc }

/-- An enqueue to a queue of a live owner: the state and the status. -/
def State.enqueueTo (s : State) (w : Owner) (q : Nat) (c : Command) : State × Nat :=
  let o := w.id
  let t := s.withQueue o q
  match t.queue? o q with
  | none => (s, 3)
  | some x =>
    if 16 ≤ x.cmds.length then (s, 1)
    else if x.slot.isSome then (t.accept o q c, 0)
    else match t.freeSlot with
      | some k => ((t.mapQueue o q k).accept o q c, 0)
      | none =>
        match t.victim with
        | some v =>
          match v.slot with
          | some k =>
            let t := t.unmapQueue v.owner v.num
            let t := if v.cmds.isEmpty then t else t.pend v.owner v.num
            ((t.mapQueue o q k).accept o q c, 0)
          | none => (s, 2)
        | none =>
          let t := t.pend o q
          (if w.orec.qpint then t.logRecord 0 5 q 0 [o] else t, 2)

/-- ENQUEUE. [DEDUCED: notes/assumptions/31.md; DESIGN CHOICE: notes/assumptions/50.md] -/
def execEnqueue (asid q : Nat) (c : Command) (s : State) : Host.Outcome State Fault Refusal :=
  let w := s.owners.find? fun w => w.orec.asid == asid
  let (t, st) : State × Nat :=
    if enqueueRejects w q c then (s, 3)
    else match w with
      | some w => s.enqueueTo w q c
      | none => (s, 3)
  if s.dev.on then .next { t with dev := { t.dev with status := t.dev.status ++ [st] } } else .fault .notEnabled

/-! ### COMMAND_TAKE (R331) -/

/-- Can the command at the head of a queue be taken: mapped, the one before it ended, a staging place free for a LAUNCH?
[DEDUCED: notes/assumptions/31.md] -/
def Queue.ready (x : Queue) (w : Owner) : Bool :=
  x.slot.isSome && x.taken.isNone && (match x.cmds with
    | [] => false
    | c :: _ => !(cmdOp c == 1) || decide (w.staged.length < 1024))

/-- The queue an owner's command unit serves next: round-robin by queue number. [DEDUCED: notes/assumptions/31.md] -/
def State.nextQueue (s : State) (w : Owner) : Option Queue :=
  let qs := s.dev.queues.filter fun x => x.owner == w.id && x.ready w
  let least (l : List Queue) : Option Queue := l.find? fun x => l.all fun y => decide (x.num ≤ y.num)
  match least (qs.filter fun x => decide (w.qcur < x.num)) with
  | some x => some x
  | none => least qs

/-- May an owner's command unit take a command now? Owner 0's queues are served in device cycles, a tenant's once per
owner-cycle index and not while it is frozen. [DEDUCED: notes/assumptions/31.md] -/
def State.mayTake (s : State) (w : Owner) : Bool :=
  s.dev.on && !w.reset && (w.id == 0 || (!s.frozen w.id && (match s.ownerNow w.id with
    | some n => w.qdone != some n
    | none => false)))

/-- COMMAND_TAKE. [DEDUCED: notes/assumptions/31.md] -/
def execCommandTake (o : Nat) (s : State) : Host.Outcome State Fault Refusal :=
  match s.owner? o with
  | none => .fault .notEnabled
  | some w =>
    match s.nextQueue w with
    | none => .fault .notEnabled
    | some x =>
      if ¬ s.mayTake w then .fault .notEnabled
      else
        let s := s.modQueue o x.num fun x => { x with taken := x.cmds.head?, cmds := x.cmds.tail }
        .next (s.modOwner o fun w => { w with qcur := x.num, qdone := s.ownerNow o })

/-! ### The end of a command -/

/-- A command ends: the next of its queue may be taken; with NOTIFY its owner's log has a COMMAND record (R329, R335). -/
def State.endCommand (s : State) (o q : Nat) (result : Nat) : State :=
  match s.queue? o q with
  | none => s
  | some x =>
    let s := s.modQueue o q fun x => { x with taken := none }
    match x.taken with
    | some c => if cmdNotify c then s.logRecord o 1 q 0 [cmdTag c, cmdOp c, result] else s
    | none => s

/-- The number of the queue whose taken command is `c`, with OP `op`. -/
def State.taken? (s : State) (o op : Nat) (c : Command) : Option Nat :=
  (s.dev.queues.find? fun x => x.owner == o && x.taken == some c && cmdOp c == op).map (·.num)

/-- A command that ends in its step: `f` gives the state and the result. -/
def hostStep (o op : Nat) (c : Command) (f : Owner → State × Nat) (s : State) : Host.Outcome State Fault Refusal :=
  match s.taken? o op c, s.owner? o with
  | some q, some w =>
    let (t, r) := f w
    .next (t.endCommand o q r)
  | _, _ => .fault .notEnabled

/-- A command of owner 0. -/
def zeroStep (op : Nat) (c : Command) (f : State × Nat) (s : State) : Host.Outcome State Fault Refusal :=
  hostStep 0 op c (fun _ => f) s

end Sys2Proof.Machine
end

