-- ==== Sys2Proof/Machine/Commands.lean ====
section
/-!
DEFINITION. The host commands (spec/11 R324, R327, R330, R333, R337, R342, R353) and the steps that end a swap, a reset or a
pre-emption (spec/03 R133; spec/10 R308 to R311).
-/

namespace Sys2Proof.Machine

/-! ### Commands of any owner (R330) -/

/-- The body of a host LAUNCH: checked, armed, staged, and appended to the overflow list. [DEDUCED: notes/assumptions/32.md] -/
def State.hostLaunch (s : State) (w : Owner) (c : Command) : State × Nat :=
  let bs := (c.drop 8).take 64
  let st := launchStatus w bs
  let r := launchRecOf bs
  if st ≠ 0 then (s, st)
  else if (w.arm r).graphCancelled r then (s.modOwner w.id fun w => (w.arm r).cancelWhole r.comp, 0)
  else
    let a := w.orec.wlbase + 4096 * w.orec.wlcap + 64 * (w.stageNext % 1024)
    let s := s.modOwner w.id fun w => { (w.arm r) with
      stageNext := w.stageNext + 1, staged := w.staged ++ [(a, (cmdNum c 72 1).testBit 0)] }
    (((s.hwStore w.id a bs).getD s).overflow w.id a, 0)

/-- HOST_LAUNCH. -/
def execHostLaunch (o : Nat) (c : Command) (s : State) : Host.Outcome State Fault Refusal :=
  hostStep o 0x01 c (fun w => s.hostLaunch w c) s

/-- Raise a parent that OPEN names (R273). -/
def Owner.raiseParent (w : Owner) (p level : Nat) : Owner :=
  let d := w.counter p
  w.setCounter p (if d.count = 0 then { d with status := 0, level := level, count := 1 } else { d with count := d.count + 1 })

/-- May OPEN open a counter at a level, beneath a parent? [DEDUCED: notes/assumptions/30.md] -/
def Owner.openOk (w : Owner) (k level : Nat) (parent : Option Nat) : Bool :=
  decide (1 ≤ level ∧ level ≤ 3 ∧ k < w.orec.ctrq) && (w.counter k).count == 0 &&
  (match parent with
   | none => true
   | some p => decide (p < w.orec.ctrq ∧ p ≠ k ∧ level < 3) && ((w.counter p).count == 0 ||
       ((w.counter p).level == level + 1 && (w.counter p).count != 0xFFFFFF)))

/-- OPEN. -/
def State.hostOpen (s : State) (w : Owner) (c : Command) : State × Nat :=
  let k := cmdNum c 12 4; let level := cmdNum c 8 1
  let parent := if (cmdNum c 16 4).testBit 31 then some (cmdNum c 16 4 % 2 ^ 12) else none
  if w.openOk k level parent then
    (s.modOwner w.id fun w =>
      let w := w.setCounter k ⟨level, 0, 1, parent, true⟩
      match parent with
      | some p => w.raiseParent p (level + 1)
      | none => w, 0)
  else (s, 3)

def execHostOpen (o : Nat) (c : Command) (s : State) : Host.Outcome State Fault Refusal :=
  hostStep o 0x02 c (fun w => s.hostOpen w c) s

/-- CLOSE removes the hold of OPEN. -/
def State.hostClose (s : State) (w : Owner) (c : Command) : State × Nat :=
  let k := cmdNum c 12 4
  if k < w.orec.ctrq ∧ (w.counter k).hold then
    (s.modOwner w.id fun w => (w.setCounter k { w.counter k with hold := false }).lower k 1, 0)
  else (s, 3)

def execHostClose (o : Nat) (c : Command) (s : State) : Host.Outcome State Fault Refusal :=
  hostStep o 0x03 c (fun w => s.hostClose w c) s

/-- HOST_CANCEL. [DEDUCED: notes/assumptions/30.md] -/
def execHostCancel (o : Nat) (c : Command) (s : State) : Host.Outcome State Fault Refusal :=
  hostStep o 0x04 c (fun w =>
    let k := cmdNum c 12 4
    if k < w.orec.ctrq then s.cancel w.id (cmdNum c 8 1) k else (s, 1)) s

/-! ### OCREATE (R324, R88) -/

/-- The fields of an owner record. -/
def ownerRecOf (bs : List Byte) : OwnerRec :=
  let n (off k : Nat) : Nat := ofBytesLE ((bs.drop off).take k)
  { owner := n 0 1 % 64, shape := n 1 1 % 16, asid := n 2 2, msien := (n 4 4).testBit 2, qpint := (n 4 4).testBit 1
    untimed := (n 4 4).testBit 0, root := n 8 8, grants := n 16 8, ngrant := n 24 4, ncommon := n 28 4, peers := n 32 8
    npeer := n 40 4, ctrq := n 44 4, logbase := n 48 8, logn := n 56 1, nq := n 57 1, caq := n 58 1, isq := n 60 4
    msiaddr := n 64 8, msidata := BitVec.ofNat 32 (n 72 4), poolq := n 76 4, dieq := n 80 4, wlcap := n 84 4, wlbase := n 88 8
    spill := n 96 8, qimg := n 104 8, npmask := n 112 8, cabind := n 120 8 }

/-- Are the fields of an owner record within their ranges? -/
def OwnerRec.ok (r : OwnerRec) (bs : List Byte) : Bool :=
  let n (off k : Nat) : Nat := ofBytesLE ((bs.drop off).take k)
  n 0 1 / 64 == 0 && n 1 1 / 16 == 0 && n 4 4 / 8 == 0 && n 59 1 == 0 &&
  decide (1 ≤ r.owner ∧ r.owner ≤ 62 ∧ r.shape ≤ 9 ∧ r.ngrant ≤ 0x8000000 ∧ r.npeer ≤ 65536 ∧ 1 ≤ r.ctrq ∧ r.ctrq ≤ 4096) &&
  r.logbase % 65536 == 0 && decide (6 ≤ r.logn ∧ r.logn ≤ 16 ∧ 1 ≤ r.nq ∧ r.nq ≤ 64 ∧ r.caq ≤ 64) &&
  r.isq % 4096 == 0 && decide (4096 ≤ r.isq ∧ r.isq ≤ 2 ^ 18) &&
  ((List.range 13).any fun k => r.wlcap == 2 ^ (k + 4)) && r.wlbase % 65536 == 0

def State.ocreate (s : State) (c : Command) : State × Nat :=
  let a := cmdNum c 8 8
  let bs := s.bytes a 128
  let r := ownerRecOf bs
  if a % 128 ≠ 0 ∨ ¬ s.inDevice a 128 ∨ anyPoison s a 128 ∨ ¬ r.ok bs ∨ (s.owner? r.owner).isSome ∨
      s.owners.any (fun w => w.orec.asid == r.asid) ∨ ¬ s.inDevice r.cabind r.caq ∨
      (s.bytes r.cabind r.caq).any fun b => decide (64 ≤ b.toNat) then (s, 4)
  else
    let w := { ownerNew r with clusters := (s.bytes r.cabind r.caq).map (·.toNat) }
    ({ s with owners := s.owners ++ [if s.dev.powerOff ∧ ¬ r.untimed then { w with freezes := [.power] } else w] }, 0)

/-- OCREATE. A timed owner made during a power fault is frozen by it (R356). [DEDUCED: notes/assumptions/30.md] -/
def execOcreate (c : Command) (s : State) : Host.Outcome State Fault Refusal := zeroStep 0x10 c (s.ocreate c) s

/-! ### ORESET (R337), and the end of a swap (R133) -/

/-- What a reset leaves of an owner. [DEDUCED: notes/assumptions/29.md] -/
def Owner.cleared (w : Owner) : Owner :=
  { w with
    counters := [], snap := [], launches := [], dist := ⟨511, none, none, [], false, 0⟩, lists := [], opens := [], lovf := 0
    lovfTail := 0, staged := [], preempt := none, reset := false, resetBy := none, lput := 0, llost := 0, held := false
    swrAt := [], jswapAt := none
    freezes := w.freezes.filter fun f => f == .paused || f == .power }

/-- A reset is over: counters, lists, heads and the log are cleared, and its command ends. [DEDUCED: notes/assumptions/29.md] -/
def State.finishReset (s : State) (o : Nat) : State :=
  match s.owner? o with
  | none => s
  | some w =>
    let zero (s : State) (off n : Nat) : State := (s.hwStore o (w.orec.logbase + off) (numBytes n 0)).getD s
    let s : State := { s.intDrops (s.log.filter fun r => r.owner == o).length with
      log := s.log.filter fun r => r.owner != o, dets := s.dets.filter fun d => d.owner != o
      kept := s.kept.filter fun k => k.owner != o }
    let s := (zero (zero s 0 8) 64 4).modOwner o Owner.cleared
    match w.resetBy with
    | some q => s.endCommand 0 q 0
    | none => s

/-- Does a core hold one of an owner's logical cores? -/
def State.coresOf (s : State) (o : Nat) : List Nat :=
  (List.range 512).filter fun p => s.lcores.any fun l => l.owner == o && l.placed && l.core == p

/-- Start the reset of one core: a swap over all positions of the owner there, or at once for an owner without positions.
[DEDUCED: notes/assumptions/29.md] -/
def State.resetCore (s : State) (o : Nat) (p : Nat) : State :=
  let k := s.core p
  let held := rotaHeld k.rotac o
  if held.isEmpty then
    ((s.onCore o p).foldl (fun s l => s.discardCore l) s).resetCores o p
  else s.setCore p { k with swap := some (swapOf (maskOf held) o o true false 0 0 s.dcyc none true) }

/-- Has a reset no swap left? -/
def State.resetDone (s : State) (o : Nat) : Bool :=
  !(s.cores.any fun c => match c.2.swap with
    | some w => w.reset && w.out == o
    | none => false)

/-- ORESET: OGEN advances, the owner's queues are emptied, and the swaps run at once. [DEDUCED: notes/assumptions/29.md] -/
def execOreset (c : Command) (s : State) : Host.Outcome State Fault Refusal :=
  let o := cmdNum c 8 1
  match s.taken? 0 0x11 c with
  | none => .fault .notEnabled
  | some q =>
    match s.owner? o with
    | none => .next (s.endCommand 0 q 4)
    | some w =>
      let ps := s.coresOf o
      if w.reset ∨ w.preempt.isSome ∨ ps.any fun p => (s.core p).swap.isSome || (s.core p).pend.isSome then .fault .notEnabled
      else
        let s := s.modOwner o fun w => { w with ogen := w.ogen + 1, reset := true, resetBy := some q, held := false }
        let s : State := { s with dev := { s.dev with
          queues := s.dev.queues.map fun x => if x.owner = o then { x with cmds := [] } else x
          pending := s.dev.pending.filter fun x => x.1 != o } }
        let s := ps.foldl (fun s p => s.resetCore o p) s
        .next (if s.resetDone o then s.finishReset o else s)

/-- SWAP_COMPLETE: at j = 98,304, the first turn of the incoming owner (R133). -/
def execSwapComplete (p : Nat) (s : State) : Host.Outcome State Fault Refusal :=
  match (s.core p).swap with
  | some w =>
    if ¬ s.swapReached p w 98304 ∨ ¬ w.bound then .fault .notEnabled
    else
      let t := s.endSwap p w
      .next (match w.queue with
        | some q => t.endCommand 0 q 0
        | none => if w.reset && t.resetDone w.out then t.finishReset w.out else t)
  | none => .fault .notEnabled

/-! ### ODESTROY, LOAD -/

/-- Does an owner hold a position of a core rota? -/
def State.holdsPositions (s : State) (o : Nat) : Bool := s.cores.any fun c => c.2.tables.any fun v => !(rotaHeld v o).isEmpty

/-- An owner leaves the part, and its queues free their slots (R332). -/
def State.removeOwner (s : State) (o : Nat) : State :=
  let slots := (s.dev.queues.filter fun x => x.owner == o && x.slot.isSome).length
  let s : State := { s with
    owners := s.owners.filter fun w => w.id != o, lcores := s.lcores.filter fun l => l.owner != o
    strands := s.strands.filter fun t => t.id.owner != o, groups := s.groups.filter fun g => g.owner != o
    accs := s.accs.filter fun a => a.strand.owner != o, dets := s.dets.filter fun d => d.owner != o
    log := s.log.filter fun r => r.owner != o, intrs := s.intrs.filter fun r => r.strand.owner != o
    clauses := s.clauses.filter fun x => x.1 / 64 != o, transfers := s.transfers.filter fun t => t.owner != o
    seqs := s.seqs.filter fun x => x.1 != o, images := s.images.filter fun m => m.owner != o
    kept := s.kept.filter fun k => k.owner != o, remotes := s.remotes.filter fun r => r.owner != o
    dev := { s.dev with
      queues := s.dev.queues.filter fun x => x.owner != o, pending := s.dev.pending.filter fun x => x.1 != o } }
  (List.range slots).foldl (fun s _ => s.servePending) s

def State.odestroy (s : State) (o : Nat) : State × Nat :=
  if o = 0 ∨ s.holdsPositions o ∨ s.lcores.any (fun l => l.owner == o && l.placed) then (s, 1)
  else (s.removeOwner o, 0)

/-- ODESTROY. [DEDUCED: notes/assumptions/30.md] -/
def execOdestroy (c : Command) (s : State) : Host.Outcome State Fault Refusal := zeroStep 0x12 c (s.odestroy (cmdNum c 8 1)) s

/-- Put a byte into the instruction store. -/
def putCode (t : Tbl Word) (a : Nat) (b : Byte) : Tbl Word :=
  let w := (tblGet 0 t (a / 4)).toNat
  let k := 2 ^ (8 * (a % 4))
  tblSet 0 t (a / 4) (BitVec.ofNat 32 (w - w / k % 256 * k + b.toNat * k))

def putCodes (t : Tbl Word) (a : Nat) : List Byte → Tbl Word
  | [] => t
  | b :: bs => putCodes (putCode t a b) (a + 1) bs

/-- Has an owner a live strand, on the part or in the image of a logical core that is not resident (R90, R327)? -/
def State.liveStrands (s : State) (o : Nat) : Bool :=
  (s.strands.any fun t => t.id.owner == o && !t.killed) ||
  (s.lcores.filter fun l => l.owner == o && !l.resident).any fun l =>
    match s.images.reverse.find? fun m => m.owner == o && m.lcore == l.num && m.ogen == ((s.owner? o).map (·.ogen)).getD 0 with
    | some m => decide (m.lc.igen = l.igen) && m.strands.any fun t => !t.killed
    | none => false

def State.loadCode (s : State) (c : Command) : State × Nat :=
  let o := cmdNum c 8 1; let off := cmdNum c 12 4; let src := cmdNum c 16 8; let n := cmdNum c 24 4
  match s.owner? o with
  | none => (s, 4)
  | some w =>
    if w.orec.isq < off + n ∨ ¬ s.inDevice src n then (s, 4)
    else if s.liveStrands o then (s, 1)
    else (s.modOwner o fun w => { w with code := putCodes w.code off (s.bytes src n) }, 0)

/-- LOAD. [DEDUCED: notes/assumptions/30.md] -/
def execLoad (c : Command) (s : State) : Host.Outcome State Fault Refusal := zeroStep 0x13 c (s.loadCode c) s

/-! ### PREEMPT, RESTORE (R308 to R311, R316, R330) -/

/-- The entries of a command: logical core and image address, and whether their form is right. -/
def cmdEntries (c : Command) : List (Nat × Nat) × Bool :=
  let es := (List.range (cmdNum c 10 1)).map fun i => cmdNum c (16 + 8 * i) 8
  (es.map fun e => (e % 512, e / 2 ^ 16 % 2 ^ 40 * 2 ^ 16), es.all fun e => e / 2 ^ 56 == 0 && e / 2 ^ 9 % 2 ^ 7 == 0)

/-- Is a logical core being taken by a pre-emption, or by a swap, to the swap's end or else until its save has ended (R330, R333)?
[DEDUCED: notes/assumptions/27.md] -/
def State.beingTaken (s : State) (w : Owner) (lc : Nat) (toEnd : Bool) : Bool :=
  (w.preempt.any fun p => p.entries.any fun e => e.1 == lc) ||
  (match s.lcore? w.id lc with
   | some l => l.placed && (match (s.core l.core).swap with
     | some x => x.out == w.id && (toEnd || !x.read)
     | none => false)
   | none => false)

/-- INVALID, for the form both commands share. -/
def State.badEntries (s : State) (w : Owner) (c : Command) : Bool :=
  let n := cmdNum c 10 1
  let (es, ok) := cmdEntries c
  decide (n < 1 ∨ 14 < n) || !ok || (es.map (·.1)).eraseDups.length != es.length ||
  es.any fun e => decide (2 ^ w.orec.shape ≤ e.1) || !(((s.lcore? w.id e.1).map (·.placed)).getD false)

def State.residentAt (s : State) (o lc : Nat) : Bool := ((s.lcore? o lc).map (·.resident)).getD false

/-- PREEMPT: the pre-emption starts, or the command ends with its result. A second pre-emption of an owner on other logical
cores waits for the first. [DEDUCED: notes/assumptions/27.md; DESIGN CHOICE: notes/assumptions/68.md] -/
def execPreempt (c : Command) (s : State) : Host.Outcome State Fault Refusal :=
  match s.taken? 0 0x14 c with
  | none => .fault .notEnabled
  | some q =>
    match s.owner? (cmdNum c 8 1) with
    | none => .next (s.endCommand 0 q 4)
    | some w =>
      let es := (cmdEntries c).1
      if w.preempt.any fun p => p.queue == q then .fault .notEnabled
      else if s.badEntries w c ∨ 1 < cmdNum c 9 1 ∨ es.any fun e => !s.residentAt w.id e.1 && !s.beingTaken w e.1 true then .next (s.endCommand 0 q 4)
      else if es.any fun e => s.beingTaken w e.1 true then .next (s.endCommand 0 q 1)
      else if w.preempt.isSome ∨ w.reset then .fault .notEnabled
      else
        let forced := cmdNum c 9 1 == 1
        let till := (s.ownerNow w.id).getD 0 + w.qtimeout.toNat
        let s : State := { s with freeN := s.freeN + 1 }
        let phase : PreemptPhase := if forced then .drain (min 2048 (Config.drainTurns s.freeN)) else .quiet till
        let s := s.modOwner w.id fun w => { w with preempt := some ⟨es, forced, phase, q⟩ }
        .next (if forced then s.freeze w.id .preempt else s)

/-- Are the strands of the named logical cores quiet? -/
def State.preemptQuiet (s : State) (o : Nat) (p : Preempt) : Bool :=
  p.entries.all fun e => (s.strandsOf o e.1).all fun t => t.res != .here || s.quietAt t none

/-- Is every resident logical core of an owner at one index, none of them in a turn? -/
def State.atIndexEnd (s : State) (o : Nat) : Bool :=
  (match s.ownerNow o with
   | some n => s.untimed o || s.lcores.all fun l => l.owner != o || !l.resident || l.ocyc == n
   | none => true) &&
  (match s.turn with
   | some t => t.owner != o
   | none => true)

/-- PREEMPT_QUIET_END: the owner freezes from the next owner-cycle index on (R309). [DESIGN CHOICE: notes/assumptions/15.md] -/
def execPreemptQuietEnd (o : Nat) (s : State) : Host.Outcome State Fault Refusal :=
  match s.owner? o with
  | some w =>
    match w.preempt with
    | some p =>
      match p.phase with
      | .quiet till =>
        if s.atIndexEnd o ∧ (s.preemptQuiet o p ∨ till ≤ (s.ownerNow o).getD till) then
          let s : State := { s with freeN := s.freeN + 1 }
          let n := min 2048 (Config.drainTurns s.freeN)
          .next ((s.modOwner o fun w => { w with preempt := some { p with phase := .drain n } }).freeze o .preempt)
        else .fault .notEnabled
      | _ => .fault .notEnabled
    | none => .fault .notEnabled
  | none => .fault .notEnabled

/-- Turns that the save of an image takes, at 96 bytes a turn (R310). -/
def Image.saveTurns (m : Image) : Nat := (m.size + 95) / 96

/-- More turns of a core. -/
def addTurns (l : List (Nat × Nat)) (p n : Nat) : List (Nat × Nat) :=
  if l.any fun x => x.1 == p then modWhere l (fun x => x.1 == p) fun x => (p, x.2 + n) else l ++ [(p, n)]

/-- The logical cores that a pre-emption names are saved, and the turns which that takes on each core that carries some: their images one
after another (R310, R311). [DESIGN CHOICE: notes/assumptions/15.md] -/
def State.saveEntries (s : State) (o : Nat) (p : Preempt) : State × List (Nat × Nat) :=
  p.entries.foldl (fun (x : State × List (Nat × Nat)) e => match x.1.drainCore o e.1 with
    | (s, some l) => ((s.saveCore l e.2 p.forced).1, addTurns x.2 l.core (s.imageOf l p.forced).saveTurns)
    | (_, none) => x) (s, [])

/-- PREEMPT_DRAIN_END: work in flight stands in its recorded state (R131, R310). The images take the state in which the save begins, and the
logical cores are resident no more. [DESIGN CHOICE: notes/assumptions/15.md; DEDUCED: notes/assumptions/27.md] -/
def execPreemptDrainEnd (o : Nat) (s : State) : Host.Outcome State Fault Refusal :=
  match s.owner? o with
  | some w =>
    match w.preempt with
    | some p =>
      match p.phase with
      | .drain left =>
        if left = 0 ∧ (s.atIndexEnd o ∨ p.forced) ∧ ¬ s.turn.any fun t => t.owner == o then
          let (s, n) := s.saveEntries o p
          .next (s.modOwner o fun w => { w with preempt := some { p with phase := .save n } })
        else .fault .notEnabled
      | _ => .fault .notEnabled
    | none => .fault .notEnabled
  | none => .fault .notEnabled

/-- PREEMPT_SAVE_END: the last byte of the images is written, and the command ends (R311). [DEDUCED: notes/assumptions/27.md] -/
def execPreemptSaveEnd (o : Nat) (s : State) : Host.Outcome State Fault Refusal :=
  match s.owner? o with
  | some w =>
    match w.preempt with
    | some p =>
      match p.phase with
      | .save left =>
        if left.any fun x => x.2 ≠ 0 then .fault .notEnabled
        else .next (((s.modOwner o fun w => { w with preempt := none }).thaw o .preempt).endCommand 0 p.queue 0)
      | _ => .fault .notEnabled
    | none => .fault .notEnabled
  | none => .fault .notEnabled

/-- Restore one entry: the state and whether it was refused. -/
def State.restoreEntry (s : State) (w : Owner) (e : Nat × Nat) : State × Bool :=
  let core := ((s.lcore? w.id e.1).map (·.core)).getD 0
  if e.2 = 0 then (s.installImage (emptyImage w e.1) core, false)
  else match s.imageAt w (some e.1) e.2 with
    | .ok m => (s.installImage m core, false)
    | .error r => (s.logRecord 0 4 r 0 [w.id, e.1], true)

/-- [DESIGN CHOICE: notes/assumptions/68.md] -/
def State.restore (s : State) (c : Command) : State × Nat :=
  match s.owner? (cmdNum c 8 1) with
  | none => (s, 4)
  | some w =>
    let es := (cmdEntries c).1
    if s.badEntries w c ∨ cmdNum c 9 1 ≠ 0 ∨ es.any fun e => s.residentAt w.id e.1 && !s.beingTaken w e.1 false then (s, 4)
    else if es.any fun e => s.beingTaken w e.1 false then (s, 1)
    else
      let (t, bad) := es.foldl (fun (x : State × Bool) e =>
        let (y, b) := x.1.restoreEntry w e
        (y, x.2 || b)) (s, false)
      (t, if bad then 6 else 0)

/-- RESTORE. [DESIGN CHOICE: notes/assumptions/50.md] -/
def execRestore (c : Command) (s : State) : Host.Outcome State Fault Refusal := zeroStep 0x15 c (s.restore c) s

/-! ### SWAP, PAUSE, RESUME, ROTA, RESOLVE, UNMAP, STATS, CLEARBOOT -/

/-- SWAP: the checks of R128; an accepted command ends with its swap (R136). -/
def execSwap (c : Command) (s : State) : Host.Outcome State Fault Refusal :=
  match s.taken? 0 0x16 c with
  | none => .fault .notEnabled
  | some q =>
    if s.cores.any fun k => (k.2.swap.any fun w => w.queue == some q) then .fault .notEnabled
    else
      let w := BitVec.ofNat 32 (cmdNum c 8 4)
      let b := BitVec.ofNat 64 (cmdNum c 16 8); let d := BitVec.ofNat 64 (cmdNum c 24 8)
      let st := s.hgateStatus none w b d
      .next (if st = 0 then s.schedule w b d (some q) else s.endCommand 0 q st)

/-- PAUSE freezes the owner, keeping its logical cores resident (R336). -/
def execPause (c : Command) (s : State) : Host.Outcome State Fault Refusal :=
  zeroStep 0x17 c (s.freeze (cmdNum c 8 1) .paused, 0) s

/-- RESUME ends the pause, and no other freeze (R333). -/
def execResume (c : Command) (s : State) : Host.Outcome State Fault Refusal :=
  zeroStep 0x18 c ((s.thaw (cmdNum c 8 1) .paused).sendHeld (cmdNum c 8 1), 0) s

/-- ROTA has the check of a ROTAC write. -/
def execRota (c : Command) (s : State) : Host.Outcome State Fault Refusal :=
  let p := cmdNum c 8 4; let v := BitVec.ofNat 64 (cmdNum c 16 8)
  zeroStep 0x19 c (s.writeRotac p v, if s.rotacOk p v then 0 else 5) s

/-- An answer for an owner frame: the freezes for it end; a refused frame raises the permission trap (R215). -/
def Owner.resolve (w : Owner) (frame : Nat) (refuse : Bool) : Owner :=
  { w with
    freezes := w.freezes.filter fun f => match f with
      | .escalate a _ => a != frame
      | _ => true
    refused := if refuse then natInsert w.refused frame else natErase w.refused frame }

/-- RESOLVE. -/
def execResolve (c : Command) (s : State) : Host.Outcome State Fault Refusal :=
  zeroStep 0x1A c (s.modOwner (cmdNum c 8 1) fun w => w.resolve (cmdNum c 16 8) (cmdNum c 9 1 == 1), 0) s

/-- UNMAP frees a queue's slot, its image saved; owner 0's queues stay in theirs. [DEDUCED: notes/assumptions/30.md] -/
def execUnmap (c : Command) (s : State) : Host.Outcome State Fault Refusal :=
  let o := cmdNum c 8 1; let q := cmdNum c 9 1
  let mapped : Bool := o != 0 && ((s.queue? o q).map (·.slot.isSome)).getD false
  zeroStep 0x1B c (if mapped then (s.unmapQueue o q).servePending else s, 0) s

/-- STATS copies the error counts to owner-0 memory (R342). -/
def execStats (c : Command) (s : State) : Host.Outcome State Fault Refusal :=
  let a := cmdNum c 16 8
  let bs := (List.range (8 * 32 * 16 * 4)).flatMap fun i => numBytes 4 (tblGet 0 s.dev.errs i)
  zeroStep 0x1C c (if s.inDevice a 65536 then s.store 0 a a bs (some true) false none else s, 0) s

/-- CLEARBOOT sets a step of the boot record back to 0 (R353). [DESIGN CHOICE: notes/assumptions/68.md] -/
def execClearboot (c : Command) (s : State) : Host.Outcome State Fault Refusal :=
  let k := cmdNum c 8 1
  zeroStep 0x1D c ({ s with dev := { s.dev with boot := if k = 0 then s.dev.boot else s.dev.boot.set (k - 1) 0 } }, 0) s

end Sys2Proof.Machine
end

