-- ==== Sys2Proof/Machine/Events.lean ====
section
/-!
DEFINITION. Results, the trap queue, the watchdog, storage errors, freezes, windows (spec/10 R300, R304 to R307; spec/03 R116, R120,
R123, R124) and what reaches the part from its memory stacks, links and rails (spec/11 R339 to R349, R352 to R356).
-/

namespace Sys2Proof.Machine

/-! ### Results (R40, R115, R124) -/

/-- Is a result due: at its owner cycle; for an untimed owner in a tailwater turn of its logical core, its steps done?
[DESIGN CHOICE: notes/assumptions/13.md] -/
def State.resultDue (s : State) (t : Strand) (p : Pend) : Bool :=
  decide (p.due ≤ s.lcNow t.id.owner t.id.lcore) &&
  (!s.untimed t.id.owner || (p.steps == 0 && (match s.turn with
    | some n => n.tail && n.owner == t.id.owner && n.lc == t.id.lcore
    | none => false)))

/-- Write a result in flight. -/
def Strand.writePend (t : Strand) (p : Pend) : Strand :=
  let t := p.writes.foldl (fun t w => t.setReg p.set.isNone w.1 w.2.1 w.2.2) t
  let key := p.set.bind fun k => (t.sets.find? fun g => g.slices.contains k).map (·.key)
  let t := { t with pends := t.pends.filter fun q => q.id != p.id }
  match p.set, key with
  | some _, none => t
  | _, k => t.modStream k (·.wrote p.id)

/-- RESULT_WRITEBACK. -/
def execResultWriteback (id : Nat) (s : State) : Host.Outcome State Fault Refusal :=
  match s.strands.findSome? fun t => (t.pends.find? fun p => p.id == id).map (t, ·) with
  | some (t, p) => if s.resultDue t p then .next (s.modStrand t.id (·.writePend p)) else .fault .notEnabled
  | none => .fault .notEnabled

/-! ### The trap queue (R300) -/

/-- Physical address in an owner's trap queue, when its page serves. -/
def State.queuePa (s : State) (w : Owner) (off : Nat) : Option Nat :=
  s.devPa w.id (w.parkbase.toNat + 0x40000 + off) true true

/-- The trapped streams of a logical core that wait for a record place, with what orders them: the owner cycle in which each began to
wait, then the order of R213. -/
def State.placeWaiters (s : State) (o lc : Nat) : List (List Nat × Cur × Trapped) :=
  (s.strandsOf o lc).flatMap fun t => t.streamKeys.filterMap fun k =>
    match (t.stream? k).bind (·.trap) with
    | some x => match x.phase with
      | .place _ => some ([x.since, x.port, k.getD 0], ⟨t.id, k⟩, x)
      | _ => none
    | none => none

/-- A place goes to the waiting trap that is first: one found at an act is taken, one found at issue lets its instruction issue again with
the place kept for it. -/
def State.placeOne (s : State) (o lc : Nat) : State :=
  let ws := s.placeWaiters o lc
  match ws.find? fun x => ws.all fun y => lexLe x.1 y.1 with
  | none => s
  | some (_, c, x) =>
    let s := s.modStream c fun y => { y with trap := none, place := true }
    match x.phase with
    | .place true => s.modStream c fun y => { y with ready := s.lcNow o lc }
    | _ => s.queueTrap c x.trap false

/-- TRAP_PLACE_FREE: the places that are free and kept for nobody go to the traps that wait, in order (R300). -/
def State.placeFree (s : State) (o lc : Nat) : State :=
  match s.lcore? o lc with
  | none => s
  | some l =>
    let kept := (((s.strandsOf o lc).flatMap (·.streams)).filter (·.place)).length
    (List.range (l.freePlaces - kept)).foldl (fun s _ => s.placeOne o lc) s

/-- Records of an owner that are stored and not yet counted in PUT. -/
def State.unpublished (s : State) (o : Nat) : Nat :=
  ((s.lcores.filter fun l => l.owner == o).map fun l => (l.trecs.filter (·.put)).length).sum

/-- Is the queue full? None: TAKE cannot be read. -/
def State.queueFull (s : State) (w : Owner) : Option Bool :=
  (s.queuePa w 64).map fun pa => decide (2044 ≤ (w.tput + 2 ^ 32 - s.num pa 4) % 2 ^ 32)

def LCore.modRec (l : LCore) (id : Nat) (f : TrapRec → TrapRec) : LCore :=
  { l with trecs := modWhere l.trecs (fun r => r.id == id) f }

/-- TRAP_RECORD_STORE: the record at trap + 400 or once the queue has room, PUT one owner cycle later; a fault of either
store escalates to HYPER. -/
def execTrapRecordStore (id : Nat) (s : State) : Host.Outcome State Fault Refusal :=
  match s.lcores.findSome? fun l => (l.trecs.find? fun r => r.id == id).map (l, ·) with
  | none => .fault .notEnabled
  | some (l, r) =>
    match s.owner? l.owner with
    | none => .fault .notEnabled
    | some w =>
      let now := s.lcNow l.owner l.num
      let va := w.parkbase.toNat + 0x40000
      if now < r.due ∨ ¬ l.resident ∨ w.freezes.contains (.record id) then .fault .notEnabled
      else if r.put then
        match s.queuePa w 0 with
        | none => .next (s.recordFault w.id id va)
        | some pa =>
          let v := (w.tput + 1 - s.unpublished w.id) % 2 ^ 32
          .next ((s.store w.id va pa (numBytes 4 v) (some true) false none).modLcore l.owner l.num fun l =>
            { l with trecs := l.trecs.filter fun q => q.id != id })
      else
        let off := 128 + 32 * (w.tput % 2044)
        match s.queueFull w, s.queuePa w off with
        | none, _ => .next (s.recordFault w.id id (va + 64))
        | some true, some _ => .fault .notEnabled
        | some false, some pa =>
          let s := s.store w.id (va + off) pa (r.words.flatMap fun x => numBytes 4 x.toNat) (some true) false none
          let s := s.modOwner w.id fun w => { w with tput := w.tput + 1 }
          let s := s.modLcore l.owner l.num fun l => l.modRec id fun r => { r with put := true, due := now + 1 }
          .next (s.placeFree l.owner l.num)
        | _, _ => .next (s.recordFault w.id id (va + off))

/-! ### The watchdog (R307) -/

def watchdogCycles : Nat := 2 ^ 24

/-- Has an access a parked lane? -/
def Acc.hasParked (a : Acc) : Bool := a.lanes.any fun l => match l.st with
  | .parked .. => true
  | _ => false

/-- Is the instruction a JOIN? -/
def isJoin : Instr → Bool
  | .join _ => true
  | _ => false

/-- Does a FENCE that stands next wait on parked lanes (R393)? -/
def State.fenceOnParked (s : State) (t : Strand) : Bool :=
  match s.nextInstr t.id t.ctl.pc with
  | some (.fence ..) => s.accs.any fun a => a.strand == t.id && a.set.isNone && a.hasParked
  | _ => false

/-- The control stream's WLGET whose attempts have gone on for too long, if any. -/
def State.longWlget (s : State) (t : Strand) (now : Nat) : Option Acc :=
  s.accs.find? fun a => a.strand == t.id && a.set.isNone && !a.killed && decide (a.born + watchdogCycles ≤ now) &&
    (match a.instr with
     | .wlget _ => true
     | _ => false)

/-- Has the instruction at which a control stream waits, or which stands next, waited for too long?
[DEDUCED: notes/assumptions/52.md; DEDUCED: notes/assumptions/56.md] -/
def State.longWait (s : State) (t : Strand) (now : Nat) : Bool :=
  match t.ctl.wait with
  | some w => decide (w.since + watchdogCycles ≤ now) && !isJoin w.instr && !(s.accs.any fun a => a.id == w.id && a.hasParked)
  | none => decide (t.ctl.stood + watchdogCycles ≤ now) && !s.fenceOnParked t && !(s.nextInstr t.id t.ctl.pc).any isJoin

/-- The waiting instruction is abandoned: its access and its result are gone. [DEDUCED: notes/assumptions/56.md] -/
def State.abandon (s : State) (i : StrandId) (id : Nat) : State :=
  let s : State := { s with accs := s.accs.filter fun a => a.id != id }
  s.modStream ⟨i, none⟩ fun x => { x with wait := none, res := x.res.filter fun r => r.id != id }

/-- WATCHDOG_TRAP. [DEDUCED: notes/assumptions/56.md] -/
def execWatchdogTrap (i : StrandId) (s : State) : Host.Outcome State Fault Refusal :=
  match s.strand? i with
  | none => .fault .notEnabled
  | some t =>
    let now := s.lcNow i.owner i.lcore
    let tr : Trap := ⟨0x15, 0, 0, ctlMask⟩
    if t.res ≠ .here ∨ t.killed ∨ t.cst ≠ .run ∨ t.ctl.trap.isSome then .fault .notEnabled
    else match s.longWlget t now with
      | some a => .next (((s.abandon i a.id).modStream ⟨i, none⟩ fun x => { x with pc := a.pc }).takeTrap ⟨i, none⟩ tr false)
      | none =>
        if ¬ s.longWait t now then .fault .notEnabled
        else .next (((t.ctl.wait.map fun w => s.abandon i w.id).getD s).takeTrap ⟨i, none⟩ tr false)

/-! ### Storage errors (R304, R305) -/

/-- CORRECTED_ERROR changes no value and no owner cycle. -/
def execCorrectedError (s : State) : Host.Outcome State Fault Refusal := .next s

/-- The group an error is charged to, with subcode and TADDR of its record. A weight bank's TADDR is not stated.
[DESIGN CHOICE: notes/assumptions/16.md; DEDUCED: notes/assumptions/41.md] -/
def State.chargedTo (s : State) (e : StorageErr) : Option Nat × Nat × DWord :=
  match e with
  | .tile o lc h row =>
    let g := (s.lcore? o lc).bind fun l => if (l.tile h).st = .free then none else some (l.tile h).grp
    (g, 0, BitVec.ofNat 64 (h % 4096 + row * 4096))
  | .bank o lc => (((s.lcore? o lc).bind (·.latch)).map (·.grp), 0, (Config.freeWord s.freeN).setWidth 64)
  | .reg i r => ((s.strand? i).map (·.grp), 1, BitVec.ofNat 64 r)

/-- Kill a group (R305): every strand by R39, one record, which names the control stream of the first strand that is left, with TMASK 0xF (R297);
the group is placed again when IDEM is set. [DEDUCED: notes/assumptions/41.md] -/
def State.killGroup (s : State) (g : Group) (sub : Nat) (addr : DWord) : State :=
  let ts := s.strands.filter fun t => t.grp == g.id
  let s := ts.foldl (fun s t => s.killStrand t.id) s
  let s := s.modGroup g.id fun g => { g with
    killed := true, again := g.flags.idem, fault := g.fault || !g.flags.idem }
  match ts, s.owner? g.owner with
  | t :: _, some w =>
    if w.parkbase = 0 then s
    else s.addRecord t.id g.id (trapWords ⟨0x14, sub, addr, ctlMask⟩ (flagCtl + flagKilled) t.ctl.pc (tstrandWord t.id 0 true) g.number g.comp)
  | _, _ => s

/-- STORAGE_ERROR_KILL: an error charged to a group that has ended kills nobody. [DEDUCED: notes/assumptions/41.md] -/
def execStorageErrorKill (e : StorageErr) (s : State) : Host.Outcome State Fault Refusal :=
  let (g, sub, addr) := s.chargedTo e
  match g.bind s.group? with
  | some g => if g.killed then .next s else .next { s.killGroup g sub addr with freeN := s.freeN + 1 }
  | none => .next s

/-! ### Memory stacks (R306, R339, R342, R343) -/

/-- Index of a bank's counter. -/
def errIndex (b : BankCounts) (k : Nat) : Nat := ((b.stack * 32 + b.channel) * 16 + b.bank) * 4 + k

/-- Take one bank's counts; an uncorrected count that rises writes an ERROR record. -/
def State.pollBank (s : State) (b : BankCounts) : State :=
  ((List.range 4).zip b.counts).foldl (fun s x =>
    let old := tblGet 0 s.dev.errs (errIndex b x.1)
    let s : State := { s with dev := { s.dev with errs := tblSet 0 s.dev.errs (errIndex b x.1) x.2 } }
    if old < x.2 ∧ (x.1 = 1 ∨ x.1 = 3) then s.logRecord 0 10 b.stack 0 [b.channel, b.bank, x.1, x.2] else s) s

/-- ERROR_COUNT_POLL: the counts of some banks and the words found uncorrectable, by physical address / 4. [DEDUCED: notes/assumptions/57.md] -/
def execErrorCountPoll (banks : List BankCounts) (poisoned : List Nat) (s : State) : Host.Outcome State Fault Refusal :=
  let s := banks.foldl State.pollBank s
  .next { s with poison := poisoned.foldl natInsert s.poison }

/-! ### Freezes (R116) -/

/-- Is an overdue effect ready now? -/
def State.overdueReady (s : State) (id : Nat) : Bool :=
  (match s.accs.find? fun a => a.id == id with
   | some a => !s.accWaits a
   | none => true) &&
  (match s.copy? id with
   | some (l, c) => match landUnit s l c (s.lcNow l.owner l.num) with
     | .error .late => false
     | _ => true
   | none => true)

/-- Store the records that wait in an owner's log, as far as its page serves. -/
def State.storeHeld (s : State) (o : Nat) : State :=
  let mine := s.log.filter fun r => r.owner == o
  mine.foldl (fun s r =>
    match s.log.find? fun q => q.owner == o with
    | some q => if q = r then
        match s.logStore q with
        | .ok t => { t with log := t.log.erase q }
        | .error _ => s
      else s
    | none => s) s

/-- Does a freeze end now of itself? -/
def State.freezeOver (s : State) (w : Owner) (f : Freeze) : Bool :=
  match f with
  | .overdue id => s.overdueReady id
  | .late till => decide (till ≤ s.dcyc)
  | .record 0 => match s.log.find? fun r => r.owner == w.id with
    | some r => (s.logStore r).toBool
    | none => (s.logPublish w.id).toBool
  | .record _ => (s.queuePa w 0).isSome
  | _ => false

/-- OWNER_FREEZE_END: the overdue effects are ready, or a record can be stored. [DEDUCED: notes/assumptions/25.md] -/
def execOwnerFreezeEnd (o : Nat) (s : State) : Host.Outcome State Fault Refusal :=
  match s.owner? o with
  | none => .fault .notEnabled
  | some w =>
    let ended := w.freezes.filter (s.freezeOver w)
    if ended.isEmpty then .fault .notEnabled
    else
      let s := if ended.contains (.record 0) then s.storeHeld o else s
      let keep (f : Freeze) : Bool := !ended.contains f || (f == .record 0 && s.log.any fun r => r.owner == o)
      .next (s.modOwner o fun w => { w with freezes := w.freezes.filter keep })

/-! ### Kwayr Link and fabric transport (R344 to R349) -/

/-- KWAYR_LINK_RETRAIN: the link stops carrying accesses, or carries them again. [DEDUCED: notes/assumptions/47.md] -/
def execKwayrLinkRetrain (up : Bool) (s : State) : Host.Outcome State Fault Refusal :=
  .next { s with dev := { s.dev with link := up } }

/-- Why a transfer is not performed at its target (R349). [DEDUCED: notes/assumptions/45.md] -/
def State.remotePlace (s : State) (w : Owner) (write : Bool) (va : Nat) : Except Nat Place :=
  match s.pageOf w.id va with
  | .error .notRes => .error 2
  | .error .malformed => .error 4
  | .error (.escalate _) => .error 2
  | .ok p =>
    if p.kind = 3 ∨ p.table ∨ p.sup ∨ (write ∧ ¬ p.w) then .error 3
    else match s.placeIn w.id p va with
      | .error _ => .error 2
      | .ok q => match q with
        | .dev pa _ => if !write && s.poisoned (pa / 4) then .error 5 else .ok q
        | .malformed => .error 4
        | q => .ok q

/-- The words of a transfer, each with its place; or the first cause. -/
def State.remotePlaces (s : State) (w : Owner) (write : Bool) : List Nat → Except Nat (List (Nat × Place))
  | [] => .ok []
  | va :: l =>
    match s.remotePlace w write va with
    | .error c => .error c
    | .ok q => match s.remotePlaces w write l with
      | .error c => .error c
      | .ok qs => .ok ((va, q) :: qs)

/-- The number of the peer entry that names an initiator (R347). -/
def State.peerOf (s : State) (w : Owner) (peer sown : Nat) : Option Nat :=
  (List.range w.orec.npeer).find? fun k => match s.peer w.id k with
    | some e => e.paddr == peer && e.powner == sown
    | none => false

/-- Answer a packet. [DEDUCED: notes/assumptions/45.md] -/
def State.answer (s : State) (p : Packet) (kind cause : Nat) (data : List Byte) : State :=
  { s with outbox := s.outbox ++ [(0, packet p.peer kind data.length p.seq p.sown p.down cause p.addr data)] }

/-- A transfer that is not performed: a REMOTE record and a NACK. [DESIGN CHOICE: notes/assumptions/16.md; DEDUCED: notes/assumptions/45.md] -/
def State.nack (s : State) (p : Packet) (cause : Nat) (entry : Word) : State :=
  (s.logRecord p.down 8 cause 0 [p.sown, entry.toNat, p.addr.lo.toNat, p.addr.hi.toNat]).answer p 5 cause []

/-! ### Released windows (R119, R120, R123) -/

/-- A request of a peer is carried out at its target (R347). [DESIGN CHOICE: notes/assumptions/16.md; DEDUCED: notes/assumptions/45.md] -/
def State.serveRemote (s : State) (p : Packet) : State :=
  match s.owner? p.down with
  | none => s.answer p 5 6 []
  | some w =>
    match s.peerOf w p.peer p.sown with
    | none => { s.nack p 1 (Config.freeWord s.freeN) with freeN := s.freeN + 1 }
    | some k =>
      let write := p.kind == 2
      let n := if write then p.data.length else p.len
      let vas := (List.range ((n + 3) / 4)).map fun i => p.addr.toNat + 4 * i
      if p.addr.toNat % 4 ≠ 0 ∨ 2 ^ 56 < p.addr.toNat + n then s.nack p 4 (BitVec.ofNat 32 k)
      else match s.remotePlaces w write vas with
        | .error c => s.nack p c (BitVec.ofNat 32 k)
        | .ok qs =>
          if write then
            let s := ((List.range qs.length).zip qs).foldl (fun s x =>
              putPlace s w.id x.2.1 x.2.2 ((p.data.drop (4 * x.1)).take 4) [true]) s
            s.answer p 4 0 []
          else s.answer p 3 0 ((qs.flatMap fun x => placeBytes s x.2 4).take n)

/-- Released windows that a request of a peer takes: one for each 96 bytes, as an untimed owner's access does (R347, R123).
[DESIGN CHOICE: notes/assumptions/13.md; DEDUCED: notes/assumptions/45.md] -/
def packetWindows (p : Packet) : Nat := max 1 (((if p.kind = 2 then p.data.length else p.len) + 95) / 96)

/-- The next request that waits for a released window: owners ascending, within one by issue (R123, R347). -/
def State.windowWaiters (s : State) : List (Nat × Nat) :=
  (s.remotes.map fun r => (r.owner, r.id)) ++
  (s.accs.filterMap fun a => if a.need = 0 then none else some (a.strand.owner, a.id)) ++
  s.lcores.flatMap fun l => l.copies.filterMap fun c => if c.need = 0 then none else some (l.owner, c.id)

def State.firstWaiter (s : State) : Option Nat :=
  let ws := s.windowWaiters
  (ws.find? fun x => ws.all fun y => decide (x.1 < y.1 ∨ (x.1 = y.1 ∧ x.2 ≤ y.2))).map (·.2)

/-- A window serves a request of a peer, which is carried out with its last one. -/
def State.windowRemote (s : State) (id : Nat) : State :=
  match s.remotes.find? fun r => r.id == id with
  | none => s
  | some r =>
    if r.need ≤ 1 then ({ s with remotes := s.remotes.filter fun q => q.id != id }).serveRemote r.pkt
    else { s with remotes := modWhere s.remotes (fun q => q.id == id) fun q => { q with need := q.need - 1 } }

/-- One released window serves a request. [DESIGN CHOICE: notes/assumptions/13.md] -/
def State.serveOne (s : State) : State :=
  match s.released, s.firstWaiter with
  | n + 1, some id =>
    let s := s.windowRemote id
    { s with
      released := n
      accs := modWhere s.accs (fun a => a.id == id) fun a => { a with need := a.need - 1 }
      lcores := s.lcores.map fun l => { l with copies := modWhere l.copies (fun c => c.id == id) fun c => { c with need := c.need - 1 } } }
  | _, _ => s

/-- Released windows serve what waits. -/
def State.serveReleased (s : State) : State :=
  if s.windowWaiters.isEmpty then s else (List.range s.released).foldl (fun s _ => s.serveOne) s

/-- Is an owner number the tailwater's: an untimed owner or none (R103, R122)? -/
def State.tailOwner (s : State) (o : Nat) : Bool := o == 63 || s.untimed o

/-- RFM_COMMAND: an owner's rolling count of activations of a bank, which the controller keeps, has reached its share of the threshold; the
tailwater, which untimed owners count for, takes a released window for its command (R339).
[DESIGN CHOICE: notes/assumptions/6.md; DEDUCED: notes/assumptions/57.md] -/
def execRfmCommand (bank o count : Nat) (s : State) : Host.Outcome State Fault Refusal :=
  let share := Config.rfmThreshold (bank / 512) / 2 ^ s.dev.fabric.flen
  let tail := s.tailOwner o
  let k := bank * 64 + if tail then 63 else o
  if count < share ∨ count < tblGet 0 s.dev.acts k ∨ (tail ∧ s.released = 0) then .fault .notEnabled
  else .next { s with
    dev := { s.dev with acts := tblSet 0 s.dev.acts k (count - share) }
    released := if tail then s.released - 1 else s.released }

/-- REMOTE_REQUEST_RECEIVE (R347): a READ or WRITE of a peer waits for released windows; one that fails its CRC is dropped, and one for an
owner that is not live is refused at once. [DEDUCED: notes/assumptions/45.md; DESIGN CHOICE: notes/assumptions/50.md] -/
def execRemoteRequestReceive (p : Packet) (s : State) : Host.Outcome State Fault Refusal :=
  if (p.kind ≠ 1 ∧ p.kind ≠ 2) ∨ ¬ s.dev.on then .fault .notEnabled
  else if !packetGood p then .next s
  else if (s.owner? p.down).isNone then .next (s.answer p 5 6 [])
  else
    let t : State := { s.fresh with remotes := s.remotes ++ [⟨s.nextId, p.down, packetWindows p, p⟩] }
    .next t.serveReleased

/-- REFRESH_SKIP: the group's mask is full, its refresh is skipped, and the window is released (R343). [DEDUCED: notes/assumptions/57.md] -/
def execRefreshSkip (grp : Nat) (mask : DWord) (s : State) : Host.Outcome State Fault Refusal :=
  if mask ≠ BitVec.allOnes 64 then .fault .notEnabled
  else
    let s : State := { s with dev := { s.dev with rowMask := tblSet 0 s.dev.rowMask grp 0 }, released := s.released + 1 }
    .next s.serveReleased

/-! ### Windows (R119, R120) -/

/-- Windows below an index are past. -/
def dropWindows (k : Nat) (l : List (Nat × Nat)) : List (Nat × Nat) :=
  (l.filter fun x => decide (k < x.2)).map fun x => (max k x.1, x.2)

/-- WINDOW_COMMIT_POINT: at the end of an owner cycle the window 32 ahead is released unless it is bound. -/
def execWindowCommitPoint (o lc : Nat) (s : State) : Host.Outcome State Fault Refusal :=
  match s.turn, s.lcore? o lc with
  | some t, some l =>
    if t.owner ≠ o ∨ t.lc ≠ lc ∨ t.slot ≠ 4 then .fault .notEnabled
    else
      let n := l.ocyc + 32
      let bound := l.bound.any fun x => decide (x.1 ≤ n ∧ n < x.2)
      let s := s.modLcore o lc fun l => { l with bound := dropWindows (n + 1) l.bound }
      let s : State := { s with
        turn := some { t with slot := 5 }
        released := s.released + (if bound ∨ s.untimed o then 0 else 1) }
      .next s.serveReleased
  | _, _ => .fault .notEnabled

/-! ### Replies (R345, R348, R349) -/

/-- The transfer a reply belongs to, when it has none yet. -/
def State.replyTo (s : State) (p : Packet) : Option Transfer :=
  s.transfers.find? fun t => t.owner == p.sown && t.seq == p.seq && t.paddr == p.peer && t.reply.isNone && t.sentAt.isSome

/-- Send a transfer again under its own SEQ (R345). -/
def State.sendAgain (s : State) (t : Transfer) : State := { s with outbox := s.outbox ++ [(t.port, packetOf t t.powner)] }

/-- A reply that fails its CRC is dropped, and the transfer that waits for it is sent again, until RTMO runs out (R345, R350).
[DEDUCED: notes/assumptions/45.md] -/
def State.dropReply (s : State) (p : Packet) : State := ((s.replyTo p).map s.sendAgain).getD s

/-- REMOTE_REPLY_RECEIVE: DATA or ACK; a reply of a completed transfer is discarded (R348). -/
def execRemoteReplyReceive (p : Packet) (s : State) : Host.Outcome State Fault Refusal :=
  if p.kind ≠ 3 ∧ p.kind ≠ 4 then .fault .notEnabled
  else if !packetGood p then .next (s.dropReply p)
  else match s.replyTo p with
    | none => .next s
    | some t => .next (s.modTransfer t.id fun t => { t with reply := some 0, data := if t.write then t.data else p.data })

/-- NACK_RECEIVE (R349). -/
def execNackReceive (p : Packet) (s : State) : Host.Outcome State Fault Refusal :=
  if p.kind ≠ 5 then .fault .notEnabled
  else if !packetGood p then .next (s.dropReply p)
  else match s.replyTo p with
    | none => .next s
    | some t => .next (s.modTransfer t.id fun t => { t with reply := some (max 1 (min 6 p.cause)) })

/-- REMOTE_TIMEOUT: no reply for RTMO core cycles since the transfer was first sent (R348). -/
def execRemoteTimeout (id : Nat) (s : State) : Host.Outcome State Fault Refusal :=
  match s.transfers.find? fun t => t.id == id with
  | none => .fault .notEnabled
  | some t =>
    match t.sentAt, t.reply, s.owner? t.owner with
    | some d, none, some w =>
      if s.dcyc < d + w.rtmo.toNat then .fault .notEnabled else .next (s.modTransfer id fun t => { t with reply := some 7 })
    | _, _, _ => .fault .notEnabled

/-- TRANSFER_RESEND: a transfer without a reply, whose packet the peer dropped, is sent again under its own SEQ (R345).
[DEDUCED: notes/assumptions/45.md] -/
def execTransferResend (id : Nat) (s : State) : Host.Outcome State Fault Refusal :=
  match s.transfers.find? fun t => t.id == id with
  | none => .fault .notEnabled
  | some t =>
    match t.sentAt, t.reply with
    | some _, none => .next (s.sendAgain t)
    | _, _ => .fault .notEnabled

/-! ### Start-up and power (R352 to R356) -/

/-- POWER_ON, of a package that is down or after a power cycle: the start-up steps, in their fallback form where the boot record says that they failed at the last start (R353), and what they
found. A start that fails, or that ends in the recovery loader, leaves the
package answering only the PSC. [DESIGN CHOICE: notes/assumptions/5.md; DESIGN CHOICE: notes/assumptions/50.md] -/
def execPowerOn (r : BootReport) (s : State) : Host.Outcome State Fault Refusal :=
  .next { State.booted (bootRecord s.dev.boot r) r with hostMem := s.hostMem, inputs := s.inputs, freeN := s.freeN }

/-- RECOVERY_IMAGE_RECEIVE: the recovery loader accepts only a new image; a good one sets step 2 back, so that the next start checks it.
[DESIGN CHOICE: notes/assumptions/5.md] -/
def execRecoveryImageReceive (ok : Bool) (s : State) : Host.Outcome State Fault Refusal :=
  if s.dev.loader then .next { s with dev := { s.dev with loader := !ok, boot := if ok then s.dev.boot.set 1 0 else s.dev.boot } }
  else .fault .notEnabled

/-- CORE_RAIL_OVERCURRENT: tailwater turns are withheld (R356). [DEDUCED: notes/assumptions/57.md] -/
def execCoreRailOvercurrent (amps : Nat) (s : State) : Host.Outcome State Fault Refusal :=
  if amps ≤ 6000 ∨ ¬ s.dev.on then .fault .notEnabled
  else .next { s with dev := { s.dev with amps := amps, withheld := some (s.dev.withheld.getD s.dcyc) } }

/-- TAILWATER_WITHHOLD_END: the excess has ended. -/
def execTailwaterWithholdEnd (amps : Nat) (s : State) : Host.Outcome State Fault Refusal :=
  if 6000 < amps ∨ s.dev.withheld.isNone ∨ s.dev.powerOff then .fault .notEnabled
  else .next { s with dev := { s.dev with amps := amps, withheld := none } }

/-- Owners that are timed. -/
def State.timedOwners (s : State) : List Nat := (s.owners.filter fun w => !w.orec.untimed).map (·.id)

/-- POWER_FAULT: current above the limit for 1 ms with tailwater withheld. The rail's number is not stated.
[DESIGN CHOICE: notes/assumptions/16.md; DEDUCED: notes/assumptions/57.md] -/
def execPowerFault (s : State) : Host.Outcome State Fault Refusal :=
  match s.dev.withheld with
  | some d =>
    if s.dcyc < d + 850000 ∨ s.dev.amps ≤ 6000 ∨ s.dev.powerOff then .fault .notEnabled
    else
      let s := s.logRecord 0 11 (Config.freeWord s.freeN).toNat 0 [s.dev.amps]
      let s : State := { s with dev := { s.dev with powerOff := true }, freeN := s.freeN + 1 }
      .next (s.timedOwners.foldl (fun s o => s.freeze o .power) s)
  | none => .fault .notEnabled

/-- POWER_RECOVER: the current has fallen below 5,400 A. [DEDUCED: notes/assumptions/57.md] -/
def execPowerRecover (amps : Nat) (s : State) : Host.Outcome State Fault Refusal :=
  if 5400 ≤ amps ∨ ¬ s.dev.powerOff then .fault .notEnabled
  else
    let s : State := { s with dev := { s.dev with powerOff := false, withheld := none, amps := amps } }
    .next (s.owners.foldl (fun s w => s.thaw w.id .power) s)

end Sys2Proof.Machine
end

