-- ==== Sys2Proof/Machine/Sfn.lean ====
section
/-!
DEFINITION. The special functions (spec/04_arithmetic.md R159, R160; the entries of COS, ERF, EX2, LG2, RCP, RSQ, SQT,
SIGM, SIN, TANH). RCP, RSQ and SQT are exact quotients and roots; the others are approximated in integers with a bound on the
error, and the precision rises until both ends of the interval round to one value.
-/

namespace Sys2Proof.Machine

/-- The ten functions, by FN (R160). -/
inductive SfnFn
  | ex2 | lg2 | rcp | rsq | sqt | sin | cos | tanh | sigm | erf
  deriving DecidableEq, Repr

/-! ### Rounding of a result (R159) -/

/-- A format of 12 significant bits whose exponent no result leaves. -/
def fmtWide : Fmt := ⟨13, 11, 4095, true, true⟩

/-- An f32 word with a sign. -/
def signedF32 (neg : Bool) (w : Word) : Word := if neg then w ||| 0x80000000 else w
def infF32 (neg : Bool) : Word := signedF32 neg 0x7F800000

/-- ± m × 2^e, and more below it when `sticky`, by the rule of a grade (R159). [DEDUCED: notes/assumptions/21.md] -/
def sfnRound (gr : Grade) (neg : Bool) (m : Nat) (e : Int) (sticky : Bool) : Word :=
  match gr with
  | .acc => BitVec.ofNat 32 (fround fmtF32 .rne false 0 neg m e sticky)
  | .fast =>
    match fdec fmtWide (fround fmtWide .rne false 0 false m e sticky) with
    | .fin _ k g =>
      if k = 0 ∨ (FVal.fin false k g).lt (.fin false 1 (-126)) then signedF32 neg 0
      else if (FVal.fin false k g).lt (.fin false 1 128) then signedF32 neg (rneF32 (.fin false k g))
      else infF32 neg
    | _ => infF32 neg

/-! ### Approximations at 2^-w, each within 2^80 units -/

/-- The square root, rounded down, bit by bit from bit `k`. -/
def isqrtFrom : Nat → Nat → Nat → Nat
  | 0, n, r => if (r + 1) * (r + 1) ≤ n then r + 1 else r
  | k + 1, n, r => isqrtFrom k n (if (r + 2 ^ (k + 1)) * (r + 2 ^ (k + 1)) ≤ n then r + 2 ^ (k + 1) else r)
def isqrt (n : Nat) : Nat := isqrtFrom (Nat.log2 n / 2 + 1) n 0

/-- Σ t × q^(2i) ÷ (2i + 1) for falling powers of 1/q, alternating when `alt`: the series of atanh and atan. -/
def invSeries (alt : Bool) (q : Nat) : Nat → Nat → Nat → Int → Int
  | 0, _, _, acc => acc
  | n + 1, i, t, acc =>
    let x : Int := t / (2 * i + 1)
    invSeries alt q n (i + 1) (t / (q * q)) (if alt && i % 2 == 1 then acc - x else acc + x)

/-- ln 2 = 2 atanh(1/3). -/
def ln2At (w : Nat) : Nat := (2 * invSeries false 3 (w / 3 + 8) 0 (2 ^ w / 3) 0).toNat
/-- π = 16 atan(1/5) − 4 atan(1/239). -/
def piAt (w : Nat) : Nat :=
  (16 * invSeries true 5 (w / 4 + 8) 0 (2 ^ w / 5) 0 - 4 * invSeries true 239 (w / 4 + 8) 0 (2 ^ w / 239) 0).toNat

/-- Σ (±x)^i ÷ i! from term `t` of index `i`. -/
def expSeries (w x : Nat) (neg : Bool) : Nat → Nat → Nat → Int → Int
  | 0, _, _, acc => acc
  | n + 1, i, t, acc =>
    expSeries w x neg n (i + 1) (t * x / 2 ^ w / (i + 1)) (if neg && i % 2 == 1 then acc - (t : Int) else acc + (t : Int))

/-- e^(−y) for y ≥ 0 at 2^-w. -/
def expNeg (w y : Nat) : Nat :=
  let l := ln2At w
  (expSeries w (y % l) true (w / 4 + 16) 0 (2 ^ w) 0).toNat / 2 ^ (y / l)

/-- Σ ± x^(2i + k) ÷ (2i + k)!: sine for k = 1, cosine for k = 0, from term `t`. -/
def trigSeries (w x2 : Nat) : Nat → Nat → Nat → Nat → Int → Int
  | 0, _, _, _, acc => acc
  | n + 1, i, k, t, acc =>
    trigSeries w x2 n (i + 1) (k + 2) (t * x2 / 2 ^ w / ((k + 1) * (k + 2))) (if i % 2 = 1 then acc - (t : Int) else acc + (t : Int))

/-- Σ z^(2i) ÷ (2i + 1) × t. -/
def atanhSeries (w z2 : Nat) : Nat → Nat → Nat → Nat → Nat
  | 0, _, _, acc => acc
  | n + 1, i, t, acc => atanhSeries w z2 n (i + 1) (t * z2 / 2 ^ w) (acc + t / (2 * i + 1))

/-- Σ 2^i x^(2i + 1) ÷ (1 × 3 × … × (2i + 1)). -/
def erfSeries (w x2 : Nat) : Nat → Nat → Nat → Nat → Nat
  | 0, _, _, acc => acc
  | n + 1, i, t, acc => erfSeries w x2 n (i + 1) (t * (2 * x2) / 2 ^ w / (2 * i + 3)) (acc + t)

/-- m × 2^e at 2^-w, rounded down. -/
def fixAt (w m : Nat) (e : Int) : Nat := if 0 ≤ e + w then m * 2 ^ (e + w).toNat else m / 2 ^ (-(e + w)).toNat

/-- sin(π x) for 0 ≤ x < 2, x at 2^-w. -/
def sinPiAt (w x : Nat) : Int :=
  let q := 2 * x / 2 ^ w
  let f := 2 * x % 2 ^ w
  let a := piAt w * f / 2 ^ (w + 1)
  let a2 := a * a / 2 ^ w
  let v := if q % 2 = 0 then trigSeries w a2 (w / 4 + 16) 0 1 a 0 else trigSeries w a2 (w / 4 + 16) 0 0 (2 ^ w) 0
  if q < 2 then v else -v

/-- A function of ± m × 2^e at precision w: (v, n) stands for v × 2^(n − w). [UNVERIFIED: notes/assumptions/20.md] -/
def sfnApprox (fn : SfnFn) (w : Nat) (neg : Bool) (m : Nat) (e : Int) : Int × Int :=
  let x := fixAt w m e
  match fn with
  | .ex2 =>
    let s : Int := if neg then -(x : Int) else x
    let n := s / (2 ^ w : Nat)
    let f := (s % (2 ^ w : Nat)).toNat
    (expSeries w (f * ln2At w / 2 ^ w) false (w / 4 + 16) 0 (2 ^ w) 0, n)
  | .lg2 =>
    let k := Nat.log2 m
    let y := fixAt w m (-(k : Int))
    let z := (y - 2 ^ w) * 2 ^ w / (y + 2 ^ w)
    let ln := 2 * atanhSeries w (z * z / 2 ^ w) (w / 3 + 16) 0 z 0
    ((e + k) * (2 ^ w : Nat) + (ln * 2 ^ w / ln2At w : Nat), 0)
  | .sin =>
    let v := sinPiAt w (x % (2 * 2 ^ w))
    (if neg then -v else v, 0)
  | .cos => (sinPiAt w ((x + 2 ^ w / 2) % (2 * 2 ^ w)), 0)
  | .tanh =>
    let q := expNeg w (2 * x)
    let v : Int := ((2 ^ w - q) * 2 ^ w / (2 ^ w + q) : Nat)
    (if neg then -v else v, 0)
  | .sigm =>
    let q := expNeg w x
    ((((if neg then q else 2 ^ w) * 2 ^ w) / (2 ^ w + q) : Nat), 0)
  | .erf =>
    let x2 := x * x / 2 ^ w
    let v : Int := (2 * (erfSeries w x2 w 0 x 0 * expNeg w x2 / 2 ^ w) * 2 ^ w / isqrt (piAt w * 2 ^ w) : Nat)
    (if neg then -v else v, 0)
  | _ => (0, 0)

/-- Round both ends of the interval; precision rises over the list until they agree. Past the list the middle rounds.
[UNVERIFIED: notes/assumptions/20.md] -/
def sfnResolve (fn : SfnFn) (gr : Grade) (neg : Bool) (m : Nat) (e : Int) : List Nat → Word
  | [] => 0
  | w :: ws =>
    let (v, n) := sfnApprox fn w neg m e
    let k := v.natAbs
    let at_ (a : Nat) : Word := sfnRound gr (decide (v < 0)) a (n - w) true
    if k > 2 ^ 81 ∧ at_ (k - 2 ^ 80) = at_ (k + 2 ^ 80) then at_ k
    else if ws.isEmpty then at_ k
    else sfnResolve fn gr neg m e ws

/-! ### The special cases (R160) -/

/-- Is m × 2^e an integer multiple of 2^k? -/
def multipleOf (m : Nat) (e k : Int) : Bool := decide (k ≤ e) || m % 2 ^ (k - e).toNat == 0

/-- A function of a nonzero finite ± m × 2^e. -/
def sfnFinite (fn : SfnFn) (gr : Grade) (neg : Bool) (m : Nat) (e : Int) : Word :=
  let big (k : Int) : Bool := !((FVal.fin false m e).lt (.fin false 1 k))
  let go (_ : Unit) : Word := sfnResolve fn gr neg m e [400, 800, 1600]
  match fn with
  | .rcp =>
    let n := 2 ^ (Nat.log2 m + 64)
    sfnRound gr neg (n / m) (-e - (Nat.log2 m + 64 : Nat)) (n % m != 0)
  | .sqt =>
    if neg then f32Nan
    else
      let n := if e % 2 = 0 then m * 2 ^ 64 else m * 2 ^ 65
      let r := isqrt n
      sfnRound gr false r (if e % 2 = 0 then e / 2 - 32 else (e - 1) / 2 - 32) (r * r != n)
  | .rsq =>
    if neg then f32Nan
    else
      -- 1/√(m 2^e) = √(2^(2k) ÷ m) × 2^(−k − e/2), with e made even
      let (m, e) := if e % 2 = 0 then (m, e) else (2 * m, e - 1)
      let k := Nat.log2 m + 48
      let q := 2 ^ (2 * k) / m
      let r := isqrt q
      sfnRound gr false r (-(k : Int) - e / 2) (r * r != q || 2 ^ (2 * k) % m != 0)
  | .ex2 =>
    if multipleOf m e 0 ∧ ¬ big 9 then
      let n : Int := (fixAt 0 m e : Nat)
      sfnRound gr false 1 (if neg then -n else n) false
    else if big 9 then (if neg then 0 else infF32 false) else go ()
  | .lg2 =>
    if neg then f32Nan
    else if m = 2 ^ Nat.log2 m then
      let k : Int := e + (Nat.log2 m : Nat)
      sfnRound gr (decide (k < 0)) k.natAbs 0 false
    else go ()
  | .sin =>
    if multipleOf m e 0 then signedF32 neg 0 else go ()
  | .cos => if multipleOf m e (-1) ∧ ¬ multipleOf m e 0 then 0 else go ()
  | .tanh => if big 5 then signedF32 neg 0x3F800000 else go ()
  | .sigm => if big 8 then (if neg then 0 else 0x3F800000) else go ()
  | .erf => if big 3 then signedF32 neg 0x3F800000 else go ()

/-- A function of an f32 word (R159, R160): the fast grade reads a subnormal as the zero of its sign. [UNVERIFIED: notes/assumptions/20.md] -/
def sfnValue (fn : SfnFn) (gr : Grade) (a : Word) : Word :=
  let v := match f32 a, gr with
    | .fin neg m e, .fast => if m < 2 ^ 23 then FVal.fin neg 0 e else FVal.fin neg m e
    | v, _ => v
  match v with
  | .nan => f32Nan
  | .inf neg =>
    match fn with
    | .ex2 => if neg then 0 else infF32 false
    | .lg2 | .sqt => if neg then f32Nan else infF32 false
    | .rcp => signedF32 neg 0
    | .rsq => if neg then f32Nan else 0
    | .sin | .cos => f32Nan
    | .tanh | .erf => signedF32 neg 0x3F800000
    | .sigm => if neg then 0 else 0x3F800000
  | .fin neg 0 _ =>
    match fn with
    | .ex2 | .cos => 0x3F800000
    | .lg2 => infF32 true
    | .rcp | .rsq => infF32 neg
    | .sqt | .sin | .tanh | .erf => signedF32 neg 0
    | .sigm => 0x3F000000
  | .fin neg m e => sfnFinite fn gr neg m e

/-- A special function: cost 2, latency 8 or 22 (R159). -/
def execSfn (i : Instr) (x : XOps) (fn : SfnFn) (gr : Grade) (s : State) : Host.Outcome State Fault Refusal :=
  issueLanes i 2 (if gr = .fast then 8 else 22) x.d (fun c l => [sfnValue fn gr (c.src x.a l)]) s

def execEx2 (x : XOps) (gr : Grade) (s : State) : Host.Outcome State Fault Refusal := execSfn (.ex2 x gr) x .ex2 gr s
def execLg2 (x : XOps) (gr : Grade) (s : State) : Host.Outcome State Fault Refusal := execSfn (.lg2 x gr) x .lg2 gr s
def execRcp (x : XOps) (gr : Grade) (s : State) : Host.Outcome State Fault Refusal := execSfn (.rcp x gr) x .rcp gr s
def execRsq (x : XOps) (gr : Grade) (s : State) : Host.Outcome State Fault Refusal := execSfn (.rsq x gr) x .rsq gr s
def execSqt (x : XOps) (gr : Grade) (s : State) : Host.Outcome State Fault Refusal := execSfn (.sqt x gr) x .sqt gr s
def execSin (x : XOps) (gr : Grade) (s : State) : Host.Outcome State Fault Refusal := execSfn (.sin x gr) x .sin gr s
def execCos (x : XOps) (gr : Grade) (s : State) : Host.Outcome State Fault Refusal := execSfn (.cos x gr) x .cos gr s
def execTanh (x : XOps) (gr : Grade) (s : State) : Host.Outcome State Fault Refusal := execSfn (.tanh x gr) x .tanh gr s
def execSigm (x : XOps) (gr : Grade) (s : State) : Host.Outcome State Fault Refusal := execSfn (.sigm x gr) x .sigm gr s
def execErf (x : XOps) (gr : Grade) (s : State) : Host.Outcome State Fault Refusal := execSfn (.erf x gr) x .erf gr s

end Sys2Proof.Machine
end

