-- ==== Sys2Proof/Machine/Turn.lean ====
section
/-!
DEFINITION. Which stream issues in a turn (spec/01 R40 to R48; spec/10 R293, R312, R475) and the turns themselves: which core cycle goes to
which logical core, held, frozen, unused and tailwater turns, and the end of an owner cycle (spec/03 R100, R109 to R112, R116, R120 to R124).
-/

namespace Sys2Proof.Machine

/-! ### The instruction that stands next (R83, steps 1 and 2, and those of the decoder) -/

/-- What a stream finds at its PC. -/
inductive Fetched
  | instr (i : Instr)
  | trap (tr : Trap)
  deriving DecidableEq, Repr

/-- Is an opcode of the other stream (R15)? -/
def wrongStream (cls : Option StreamCls) (ctl : Bool) : Bool :=
  match cls with
  | some .ctl => !ctl
  | some .vec => ctl
  | _ => false

/-- Fetch and decode at an address of an owner's instruction store: a word at or beyond its end raises the address trap.
[DEDUCED: notes/assumptions/48.md] -/
def fetchAt (s : State) (o : Nat) (pc : Word) (ctl : Bool) (mask : Word) : Fetched :=
  match codeWords s o pc.toNat 5 with
  | [] => .trap ⟨0x08, 0, pc.setWidth 64, mask⟩
  | w :: ws =>
    let beyond : Fetched := .trap ⟨0x08, 0, BitVec.ofNat 64 (pc.toNat + 4 * (ws.length + 1)), mask⟩
    if ws.length + 1 < lenWords w then beyond
    else match decode (w :: ws) with
      | .ok (i, _) => .instr i
      | .error .short => beyond
      | .error (.illegal sub cls) => .trap ⟨0x01, if wrongStream cls ctl then 0x04 else sub, 0, mask⟩

/-- What stands next in the stream of a context. -/
def Ctx.fetched (c : Ctx) (s : State) : Fetched :=
  fetchAt s c.cur.strand.owner c.str.pc c.isCtl (BitVec.ofNat 32 (maskOf c.lanes))

/-! ### Waits at issue -/

/-- Is the instruction one of those that acquires and horizons hold back (R247)? -/
def heldByAcquire (i : Instr) : Bool :=
  match i with
  | .ld .. | .st .. | .atom .. | .feset .. | .feget .. | .waita .. | .wake .. | .fence .. | .cpy _ | .mwld .. | .mstr ..
  | .mcon .. | .mclose _ | .mtile _ | .mstat _ | .cbld _ => true
  | _ => false

/-- Is the instruction one of those of which 64 are in flight at most (R312)? -/
def countedInFlight (i : Instr) : Bool :=
  match i with
  | .ld .. | .st .. | .atom .. | .feset .. | .feget .. | .waita .. | .wake .. | .launch _ | .wlput _ | .wlget _ => true
  | _ => false

/-- Is an access in flight: has some lane neither acted nor parked? -/
def Acc.inFlight (a : Acc) : Bool :=
  countedInFlight a.instr && a.lanes.any fun l => match l.st with
    | .done => false
    | .failed .. => false
    | .parked .. => false
    | .marked => false
    | _ => true

/-- Does it enter array order of the matrix array (R195, R418)? -/
def entersMat (i : Instr) : Bool :=
  match i with
  | .mwld .. | .mstr .. | .mcon .. | .mclose _ | .mtile _ | .cbld _ => true
  | _ => false

/-- The clause array whose order a CLAUSE command would enter (R258); a CAOPEN of an array that its holder leaves in this owner-cycle index is
seen to when the index ends (`State.settleOpen`). -/
def clauseFor (s : State) (c : Ctx) (i : Instr) : Option Nat :=
  let o := c.cur.strand.owner
  match i with
  | .caopen x =>
    let k := c.n0 x.a
    if (s.heldArray o c.t.grp).isSome ∨ ¬ s.arrayThere o k ∨ (s.clause o k).holder.isSome then none else some k
  | .caclose _ | .caload _ | .calearn _ | .cadec _ | .caprop _ | .caback _ | .caval _ | .catrail _ | .cadel _ => s.heldArray o c.t.grp
  | _ => none

/-- Do the results in flight of its stream hold an instruction back: interlocks (R42, R407), and VEND, EXIT and a gang's TRAP, which
wait for every pending result (R26, R36, R457)? -/
def waitsForResults (c : Ctx) (i : Instr) : Bool :=
  let ts := touched c i
  let pending := c.str.res.filter fun r => !r.written
  match i with
  | .vend | .exit | .ixrd _ | .ixrdLit _ | .ixwr _ | .ixwrLit _ => !pending.isEmpty
  | .trap _ => !c.isCtl && !pending.isEmpty
  | _ => pending.any fun r => !r.ext && r.dsts.any ts.contains

/-- Does order hold an instruction back: a horizon, an acquire in flight (R247), a FENCE's wait (R249)? -/
def waitsForOrder (s : State) (c : Ctx) (i : Instr) : Bool :=
  let mine := s.agentsOf c.cur
  (heldByAcquire i && (s.heldByHz c.str c.now ||
    s.accs.any fun a => a.strand == c.cur.strand && !a.killed && (accOrder a.instr).1 &&
      a.lanes.any fun l => mine.contains (a.agent l) && !l.acted)) ||
  (match i with
   | .fence _ m => fencePending s c.cur.strand (if c.isCtl then [8] else c.lanes.map (· / 4)) m.order
   | _ => false)

/-- Does a limit of its logical core hold an instruction back: memory instructions and copies in flight (R312), MAT and CLAUSE
commands entered (R418, R258), a divider (R387), the vector slices of an MSTR that reads registers (R194)? -/
def waitsForPlace (s : State) (c : Ctx) (l : LCore) (i : Instr) : Bool :=
  (countedInFlight i && decide (64 ≤ (s.accs.filter fun a => a.strand.owner == l.owner && a.strand.lcore == l.num && a.inFlight).length)) ||
  (entersMat i && decide (64 ≤ l.mats.length)) ||
  (match clauseFor s c i with
   | some k => decide (16 ≤ (s.clause l.owner k).cmds.length)
   | none => false) ||
  (match i with
   | .cpy _ => decide (256 ≤ l.copies.length)
   | .div .. => !s.untimed l.owner && decide (c.now < (if c.isCtl then l.ctl.div else l.port0.div))
   | .mstr _ _ _ reg =>
     reg && !(c.t.sets.all fun g => (g.st == .idle || g.st == .stopped) && g.str.trap.isNone && g.str.res.all (·.written))
   | _ => false)

/-! ### The order of a DET launch's sync operations (R293) -/

/-- Is the instruction a sync operation of a DET launch? -/
def isSync (i : Instr) : Bool :=
  match i with
  | .ld _ m | .st _ m => m.fef != .plain
  | .atom .. | .waita .. | .wake .. | .wlput _ | .wlget _ | .lcsync _ => true
  | _ => false

/-- Is a strand blocked, so that it takes no part in the order? [DEDUCED: notes/assumptions/34.md] -/
def State.detBlocked (s : State) (t : Strand) : Bool :=
  (match t.ctl.wait.map Wait.instr with
   | some (.join _) => true
   | some (.ralloc _) => true
   | _ => false) ||
  t.res != .here || s.isParked t ||
  s.accs.any fun a => a.strand == t.id && (match a.instr with
    | .wlget _ => a.lanes.any fun l => match l.st with
      | .retry .. => true
      | _ => false
    | _ => false)

/-- Places in the order of a strand's streams that are not idle or stopped: clock, global strand identity, stream.
[DEDUCED: notes/assumptions/34.md] -/
def detKeys (t : Strand) (gnum : Nat) : List (List Nat) :=
  let g := gnum * 16 + t.index
  (if t.cst = .run then [[t.lclk, g, 0]] else []) ++
  (t.sets.filter fun x => x.st == .block).map fun x => [x.clock, g, 1 + x.key]

/-- May a sync operation issue: is its place the least among the launch's strands that are live and not blocked (a blocked strand's own other
streams do not count either)? [DEDUCED: notes/assumptions/34.md] -/
def State.detTurn (s : State) (c : Ctx) : Bool :=
  let launch := (s.group? c.t.grp).map (·.launch)
  let mine : List Nat := [c.clock, c.gnum * 16 + c.t.index, match c.cur.set with | none => 0 | some k => 1 + k]
  s.strands.all fun t =>
    t.killed || (s.group? t.grp).map (·.launch) != launch || s.detBlocked t ||
    (detKeys t (((s.group? t.grp).map (·.number)).getD 0)).all (lexLe mine)

/-! ### May a stream issue now? -/

/-- Has a strand stopped at a quiet point for a pre-emption or a headgate swap in its quiet phase (R130, R309)? -/
def State.stoppedQuiet (s : State) (t : Strand) : Bool :=
  let i := t.id
  let pre : Bool := match (s.owner? i.owner).bind (·.preempt) with
    | some p => (match p.phase with
      | .quiet _ => p.entries.any fun e => e.1 == i.lcore
      | _ => false)
    | none => false
  let swp : Bool := match (s.lcore? i.owner i.lcore).bind fun l => (s.core l.core).swap with
    | some w => w.turns.isSome && !w.quiet && w.out == i.owner
    | none => false
  (pre || swp) && s.quietAt t none

/-- Does a stream stand at an instruction that it may go on to? -/
def Ctx.stands (c : Ctx) (s : State) : Bool :=
  c.t.res == .here && !c.t.killed && c.str.trap.isNone && decide (c.str.ready ≤ c.now) &&
  (match c.cur.set with
   | none => c.t.cst == .run
   | some k => match c.t.set? k with
     | some g => g.st == .block
     | none => false) && !s.stoppedQuiet c.t

/-- Does a lookahead window hold the stream: LA instructions have issued and a destination is not written (R40)? -/
def Stream.windowShut (x : Stream) : Bool := x.res.any fun r => r.ext && r.left == 0 && !r.written && !r.dsts.isEmpty

/-- Must an instruction that passes the checks wait at issue? A control instruction whose guard fails has no effect to wait for. -/
def mustWait (s : State) (c : Ctx) (l : LCore) (i : Instr) : Bool :=
  waitsForResults c i ||
  (let c' := c.guarded (fieldsOf i).g
   !(c'.isCtl && c'.lanes.isEmpty) &&
   (waitsForOrder s c' i || waitsForPlace s c' l i || (s.isDet c.t.grp && isSync i && !s.detTurn c)))

/-- The step by which an instruction that waits at issue, for the flume or the return queue, issues after all (R20, R22, R32, R33). -/
def resumeRow (cur : Cur) (i : Instr) : Option (State → Host.Outcome State Fault Refusal) :=
  match cur.set, i with
  | none, .frecv _ => some (execFrecvPop cur.strand)
  | none, i => if sends i then some (execFlumeSendResume cur.strand) else none
  | some k, .vpop _ => some (execVpopTakesVal cur.strand k)
  | some k, .vloop .. => some (execVloopTakesTrip cur.strand k)
  | some k, .vsend .. => some (execVsendPushResume cur.strand k)
  | some k, .vsendLit .. => some (execVsendPushResume cur.strand k)
  | _, _ => none

/-- Does an outcome go on? -/
def goesOn (r : Host.Outcome State Fault Refusal) : Bool :=
  match r with
  | .next _ => true
  | _ => false

/-- Can a stream issue in the slot on offer, or take the trap of the instruction at which it stands? [DEDUCED: notes/assumptions/22.md] -/
def State.canIssue (s : State) (cur : Cur) : Bool :=
  match ctxAt s cur, s.lcore? cur.strand.owner cur.strand.lcore with
  | some c, some l =>
    c.stands s && !c.str.windowShut &&
    (match c.str.wait with
     | some w => (match resumeRow cur w.instr with
       | some f => goesOn (f s)
       | none => false)
     | none => match c.fetched s with
       | .trap _ => true
       | .instr i => (issueError c i).isSome || !mustWait s c l i)
  | _, _ => false

/-! ### The choice of the pipe and the ports (R44 to R47, R475) -/

/-- The strands of a logical core in residency order. -/
def ageInsert (t : Strand) : List Strand → List Strand
  | [] => [t]
  | u :: l => if t.age < u.age then t :: u :: l else u :: ageInsert t l

def State.byAge (s : State) (o lc : Nat) : List Strand :=
  ((s.strandsOf o lc).filter fun t => t.res == .here && !t.killed).foldl (fun l t => ageInsert t l) []

/-- The control stream that the control pipe picks. [DEDUCED: notes/assumptions/22.md] -/
def State.pickCtl (s : State) (l : LCore) : Option Cur :=
  let can := ((s.byAge l.owner l.num).map fun t => (⟨t.id, none⟩ : Cur)).filter s.canIssue
  let passed : Option StrandId := match l.yielded with
    | some (i, n) => if n + 1 = l.ocyc then some i else none
    | none => none
  let rest := can.filter fun c => some c.strand != passed
  match l.ctl.cur.bind fun x => rest.find? fun c => c.strand == x.1 with
  | some c => some c
  | none => rest.head? <|> can.head?

/-- Is a gang set the current one of a port? After a split it is the part that keeps the lowest slice. [DESIGN CHOICE: notes/assumptions/72.md] -/
def Pipe.holds (p : Pipe) (c : Cur) : Bool :=
  match p.cur with
  | some (i, k) => c.strand == i && c.set == some k
  | none => false

/-- The gang set that a port picks; `other` is the other port. [DEDUCED: notes/assumptions/22.md] -/
def State.pickSet (s : State) (l : LCore) (mine other : Pipe) : Option Cur :=
  let all := (s.byAge l.owner l.num).flatMap fun t => t.sets.map fun g => (⟨t.id, some g.key⟩ : Cur)
  let can := all.filter s.canIssue
  can.find? mine.holds <|> can.find? fun c => !other.holds c

/-- The stream that the pipe or port of an issue slot picks: slot 0 is the control pipe, 1 and 2 are the ports. -/
def State.pick (s : State) (l : LCore) (slot : Nat) : Option Cur :=
  let now := s.lcNow l.owner l.num
  match slot with
  | 0 => if now < l.ctl.free then none else s.pickCtl l
  | 1 => if now < l.port0.free then none else s.pickSet l l.port0 l.port1
  | 2 => if now < l.port1.free then none else s.pickSet l l.port1 l.port0
  | _ => none

/-! ### The end of an owner cycle -/

/-- An owner-cycle index ends: CAOPENs are decided (R260), the counters are what the next index reads (R273, R278), parked launches
are watched (R291); the accesses that HYPER refused a frame have trapped, and a later one asks again (R215).
[DEDUCED: notes/assumptions/42.md; DEDUCED: notes/assumptions/55.md] -/
def State.endIndex (s : State) (o now : Nat) : State :=
  let asks := s.frozen o
  (((s.settleOpens o).modOwner o fun w => { w.tidyDist.indexOver now with
    snap := w.counters, refused := if asks then w.refused else [] }).keepPort).watchParked o now

/-- An owner cycle of a logical core ends: tile writes are applied (R176), OCYC counts it (R111, R126) in this device cycle, and the owner's
index may end with it (R110). -/
def State.endCycle (s : State) (t : Turn) : State :=
  let before := s.ownerNow t.owner
  let counts := !t.tail || t.used
  let s := s.modLcore t.owner t.lc fun l => { l.commit with
    ocyc := if counts then l.ocyc + 1 else l.ocyc, doneAt := if counts then some s.dcyc else l.doneAt }
  match before with
  | some n => if !s.untimed t.owner && s.ownerNow t.owner != some n then s.endIndex t.owner n else s
  | none => s

/-- After the control pipe's slot: with no control issue the next choice starts from the oldest strand (R45).
[DEDUCED: notes/assumptions/22.md] -/
def LCore.noCtlIssue (l : LCore) : LCore := { l with ctl := { l.ctl with cur := none } }

/-- The next issue slot of the open turn is offered; before the last phase of the owner cycle, segments that landed count (R364), and record
places kept for instructions that issued without a trap go to the next that wait (R300). -/
def State.advance (s : State) : State :=
  match s.turn with
  | none => s
  | some t =>
    let s := if t.slot = 0 ∧ t.used = false then s.modLcore t.owner t.lc (·.noCtlIssue)
      else if t.slot = 2 then (s.modLcore t.owner t.lc (·.settleBars)).placeFree t.owner t.lc else s
    { s with turn := some { t with slot := t.slot + 1 }, cur := none }

/-! ### Dealing turns -/

/-- The cores whose cycles matter to some logical core or swap, ascending; core 0 when there is none. -/
def State.liveCores (s : State) : List Nat :=
  let l := (((s.lcores.filter (·.placed)).map (·.core)) ++ (s.cores.filter fun c => c.2.swap.isSome).map (·.1)).foldl natInsert []
  if l.isEmpty then [0] else l

/-- A core cycle that is dealt to nobody. -/
def idleTurn (p : Nat) : Turn := ⟨p, 63, 0, 5, false, true⟩

/-- Is a logical core being drained or saved by a pre-emption: descheduled from the freeze on (R309, R310)? [DEDUCED: notes/assumptions/27.md] -/
def State.leaving (s : State) (l : LCore) : Bool :=
  match (s.owner? l.owner).bind (·.preempt) with
  | some p => (p.entries.any fun e => e.1 == l.num) && (match p.phase with
    | .quiet _ => false
    | _ => true)
  | none => false

/-- Logical cores of an owner that have turns on a core, in the order in which its turns go to them (R109, R112).
[DESIGN CHOICE: notes/assumptions/3.md] -/
def State.rotation (s : State) (o p : Nat) : List LCore :=
  let ls := (List.range 512).filterMap fun n => (s.onCore o p).find? fun l => l.num == n && l.resident && !s.leaving l
  let k := tblGet 0 (s.core p).dealt o
  ls.filter (fun l => decide (k ≤ l.num)) ++ ls.filter fun l => decide (l.num < k)

/-- Is a logical core held (R110)? Core cycles of one device cycle run side by side: an owner cycle that another core completes in it counts
from the next one on. -/
def State.holding (s : State) (l : LCore) : Bool :=
  s.lcores.any fun m => m.owner == l.owner && m.resident && decide (s.doneBefore m < l.ocyc)

/-- The effects of a logical core that are due and not ready (R116). [DEDUCED: notes/assumptions/25.md] -/
def State.overdueOf (s : State) (l : LCore) : List Nat :=
  (s.accs.filter fun a => a.strand.owner == l.owner && a.strand.lcore == l.num &&
    (a.lanes.any fun x => x.st == .todo && decide (x.due ≤ l.ocyc)) && s.accWaits a).map (·.id) ++
  (l.copies.filter fun c => !c.ended && !c.waits && (match l.landing c with
    | some due => decide (due ≤ l.ocyc) && (match landUnit s l c l.ocyc with
      | .error .late => true
      | _ => false)
    | none => false)).map (·.id)

/-- One more turn lost (R112). [DEDUCED: notes/assumptions/25.md] -/
def LCore.stole (l : LCore) : LCore := { l with ostolen := l.ostolen + 1 }

def State.setDealt (s : State) (p o lc : Nat) : State :=
  s.setCore p { s.core p with dealt := tblSet 0 (s.core p).dealt o (lc + 1) }

/-! ### Effects and state that are not ready (R116, R12) -/

/-- Is an attempt of a lane due: its first, a retry, one that a wake brought? -/
def LaneAcc.acts (x : LaneAcc) (n : Nat) : Bool :=
  match x.st with
  | .todo => decide (x.due ≤ n)
  | .retry due _ | .over due | .woken due _ _ => decide (due ≤ n)
  | _ => false

/-- Has a logical core an effect on memory that is due: a lane of an access, a landing of a copy, the store of a trap record or of an INTR? -/
def State.dueWork (s : State) (l : LCore) : Bool :=
  let mine (i : StrandId) : Bool := i.owner == l.owner && i.lcore == l.num
  (s.accs.any fun a => mine a.strand && a.lanes.any (·.acts l.ocyc)) ||
  (l.copies.any fun c => !c.ended && !c.waits && (l.landing c).any fun due => decide (due ≤ l.ocyc)) ||
  (l.trecs.any fun r => decide (r.due ≤ l.ocyc)) || s.intrs.any fun r => mine r.strand && decide (r.due ≤ l.ocyc)

/-- Had a timed logical core such an effect when the effects of its owner cycle began? -/
def State.owes (s : State) (l : LCore) : Bool := l.dueIn == some l.ocyc && !s.untimed l.owner

/-- The effects of an owner-cycle index begin, which are carried out in one order for all its logical cores (R213): note for which of them there
are any. Each is asked when its own turn comes (R116). [DESIGN CHOICE: notes/assumptions/61.md] -/
def State.noteStep (o : Nat) (s : State) : Host.Outcome State Fault Refusal :=
  let new (l : LCore) : Bool := l.owner == o && l.resident && s.ownerNow o == some l.ocyc && l.dueIn != some l.ocyc && s.dueWork l
  if s.untimed o ∨ ¬ s.lcores.any new then .fault .notEnabled
  else .next { s with lcores := modWhere s.lcores new fun l => { l with dueIn := some l.ocyc } }

/-- Do an owner's logical cores use more of a core than its share of strand contexts, granules and level-0 tile units: does some of their
state lie in the spill area (R12)? One with all of it has none there. [DESIGN CHOICE: notes/assumptions/51.md] -/
def State.exceeds (s : State) (o p : Nat) : Bool :=
  let k := tblGet 0 (s.core p).shares o
  let ls := (s.onCore o p).filter (·.resident)
  let ts := ls.flatMap fun l => (s.strandsOf o l.num).filter (·.holdsPlace)
  let units := (ls.map fun l => l.footprints fun e => e.level == 0).sum / 2048
  k != 8 && decide (4 * k < ts.length ∨ 512 * k < (ts.map fun t => t.slices * granules t.n).sum ∨ 64 * k < (ts.map fun t => granules t.n).sum ∨
    128 * k < units)

/-- Is a MAT command to start whose logical core's latched state the owner's bank does not hold (R192)? -/
def State.bankDue (s : State) (l : LCore) : Bool := s.bankOff l && l.matDue (s.lcNow l.owner l.num)

/-- Lies state of a logical core that the turn may need in the spill area (R12)? -/
def State.anyOut (s : State) (l : LCore) : Bool :=
  l.backed.isSome || (s.strandsOf l.owner l.num).any fun t => t.res == .here && t.spilled.isSome

/-- Does the start of an owner cycle of a logical core ask for anything: effects of device memory that were due in it, state that lies in the
spill area (R116, R12, R192)? An untimed owner's accesses have no time that they must keep (R126). -/
def State.mustAsk (s : State) (l : LCore) : Bool := s.owes l || s.exceeds l.owner l.core || s.anyOut l || s.bankDue l

/-- The core brings back what of a logical core lies in the spill area, and backs out another part of the owner's excess: a strand, or a level-0
tile (R12). [DESIGN CHOICE: notes/assumptions/51.md] -/
def State.moveExcess (s : State) (l : LCore) : State :=
  let p := Config.spillPlace l.owner (((s.owner? l.owner).map (·.asks)).getD 0) % 48
  let more := s.exceeds l.owner l.core
  let s := ((s.strandsOf l.owner l.num).filter (·.res == .here)).foldl State.spillIn (s.unspillTile l)
  if !more then s
  else if p < 32 then
    (if (s.strandsOf l.owner l.num).any fun t => t.id.slot == p && t.res == .here then s.spillStrand ⟨l.owner, l.num, p⟩ else s)
  else match l.nearTiles[p - 32]? with
    | some e => s.spillTile l e.1 (p - 32)
    | none => s

/-- Ask, once for an owner cycle of a logical core, whether what it needs is ready; the device cycles for which it is not. State is exchanged,
and effects are late, by the owner's own history (R114, R116, R12, R192, R341, R350).
[DESIGN CHOICE: notes/assumptions/51.md; DESIGN CHOICE: notes/assumptions/61.md] -/
def State.ask (s : State) (l : LCore) : State × Nat :=
  let ex := s.exceeds l.owner l.core || s.anyOut l
  let bk := s.bankDue l
  let n := ((s.owner? l.owner).map (·.asks)).getD 0
  let k := max (if ex || bk then Config.exchange l.owner n else 0) (if s.owes l then Config.overrun l.owner n else 0)
  let s := s.modLcore l.owner l.num fun l => { l with asked := some l.ocyc }
  let s := s.modOwner l.owner fun w => { w with asks := w.asks + 1 }
  let s := if ex then s.moveExcess l else s
  (if bk then s.moveBank l else s, k)

/-- The logical core to which the turn of an owner on a core goes: the next in its rotation that is not held (R109, R110). -/
def State.nextTurn (s : State) (o p : Nat) : Option LCore := (s.rotation o p).find? fun l => !s.holding l

/-- Does an owner hold the current core cycle of a core? -/
def State.hasCycle (s : State) (o p : Nat) : Bool :=
  let v := (s.core p).rotac
  rotaPos v (s.dcyc % rotaLen v) == o

/-- The start of an owner cycle of a timed logical core, when its turn comes, before its effects: where something is not ready, the owner
freezes until it is (R116). [DESIGN CHOICE: notes/assumptions/61.md] -/
def State.askStep (o lc : Nat) (s : State) : Host.Outcome State Fault Refusal :=
  match s.lcore? o lc with
  | some l =>
    if l.asked = some l.ocyc ∨ s.untimed o ∨ s.ownerNow o ≠ some l.ocyc ∨ ¬ s.mustAsk l ∨ ¬ s.hasCycle o l.core ∨
        (s.nextTurn o l.core).map (·.num) ≠ some lc then .fault .notEnabled
    else match s.ask l with
      | (s, 0) => .next s
      | (s, k) => .next (s.freeze o (.late (s.dcyc + k)))
  | none => .fault .notEnabled

/-- The turn of an owner on a core: to the next of its logical cores that is not held; lost by one that is frozen or held (R109, R110,
R112, R116). An owner that was frozen when the device cycle began takes its turns again from the next one on.
[DESIGN CHOICE: notes/assumptions/3.md; DEDUCED: notes/assumptions/25.md] -/
def State.dealOwner (s : State) (p o : Nat) : State :=
  let idle (s : State) : State := { s with turn := some (idleTurn p) }
  match s.rotation o p with
  | [] => idle s
  | first :: _ =>
    let next := s.nextTurn o p
    if s.frozen o ∨ ¬ s.begun.contains o then
      let l := next.getD first
      idle ((s.modLcore o l.num (·.stole)).setDealt p o l.num)
    else
      let s := if s.holding first then s.modLcore o first.num (·.stole) else s
      match next with
      | none => idle (s.setDealt p o first.num)
      | some l =>
        match s.overdueOf l with
        | [] => { s.setDealt p o l.num with turn := some ⟨p, o, l.num, 0, false, false⟩ }
        | ids => idle (((ids.foldl (fun s i => s.freeze o (.overdue i)) s).modLcore o l.num (·.stole)).setDealt p o l.num)

/-- A swap in progress on a core counts a turn of its positions (R129). -/
def State.countSwap (s : State) (p : Nat) : State :=
  match (s.core p).swap with
  | some w => if w.turns.isSome ∧ s.swapTurn p w then s.setSwap p { w with turns := w.turns.map (· + 1) } else s
  | none => s

/-- Is the current core cycle of a core one of a swap's positions, and may the outgoing owner still issue in it? -/
def State.swapping (s : State) (p : Nat) : Option Bool :=
  match (s.core p).swap with
  | some w => if w.turns.isSome && s.swapTurn p w then some (!w.quiet) else none
  | none => none

/-- One turn fewer of a pre-emption's drain, or of its save on a core; on every core when none is named. -/
def Preempt.counted (p : Preempt) (k : Option Nat) : Preempt := { p with
  phase := match p.phase with
    | .drain n => .drain (n - 1)
    | .save l => .save (l.map fun x => if k.getD x.1 = x.1 then (x.1, x.2 - 1) else x)
    | x => x }

/-- A turn of an owner on a core counts for the pre-emption of a logical core placed there (R310). [DESIGN CHOICE: notes/assumptions/15.md] -/
def State.countPreempt (s : State) (p o : Nat) : State :=
  match (s.owner? o).bind (·.preempt) with
  | some q =>
    if q.entries.any fun e => (s.onCore o p).any fun l => l.num == e.1 then s.modOwner o fun w => { w with preempt := some (q.counted (some p)) }
    else s
  | none => s

/-- Deal the current core cycle of a core. A position that names an untimed owner is dealt to nobody: R106 refuses no such rota, and R122
gives its turns to the tailwater. [DESIGN CHOICE: notes/assumptions/64.md] -/
def State.deal (s : State) (p : Nat) : State :=
  let s := s.countSwap p
  let v := (s.core p).rotac
  let o := rotaPos v (s.dcyc % rotaLen v)
  let s := s.countPreempt p o
  if s.swapping p = some false ∨ o = 63 ∨ s.untimed o then { s with turn := some (idleTurn p) } else s.dealOwner p o

/-! ### Tailwater (R123, R124) -/

/-- One more step of every stepped instruction of a logical core. -/
def State.takeStep (s : State) (o lc : Nat) : State :=
  { s with strands := modWhere s.strands (fun t => t.id.owner == o && t.id.lcore == lc) fun t =>
    { t with pends := t.pends.map fun q => { q with steps := q.steps - 1 } } }

/-- The state in an issue slot of a tailwater turn of a logical core, as far as its issue goes: results delivered by then are written.
[DEDUCED: notes/assumptions/24.md] -/
def State.inTail (s : State) (p o lc slot : Nat) : State :=
  let s : State := { s with turn := some ⟨p, o, lc, slot, false, true⟩ }
  { s with strands := modWhere s.strands (fun t => t.id.owner == o && t.id.lcore == lc) fun t =>
    (t.pends.filter (s.resultDue t)).foldl Strand.writePend t }

/-- Has a logical core of an untimed owner a strand able to issue, or a stepped instruction in progress? [DEDUCED: notes/assumptions/24.md] -/
def State.tailAble (s : State) (p : Nat) (l : LCore) : Bool :=
  ((s.strandsOf l.owner l.num).any fun t => t.pends.any fun q => decide (0 < q.steps)) ||
  [0, 1, 2].any fun k => ((s.inTail p l.owner l.num k).pick l k).isSome

/-- The logical core that an unused turn of a core goes to: of the first untimed owner, ascending, that has one able to use it.
[DEDUCED: notes/assumptions/24.md] -/
def State.tailFor (s : State) (p : Nat) : Option LCore :=
  if s.dev.withheld.isSome ∨ (s.swapping p).isSome then none
  else ((s.placedOwners p).filter fun o => s.untimed o && !s.frozen o).findSome? fun o =>
    (s.rotation o p).find? (s.tailAble p)

/-- Give an unused core cycle to tailwater, unless state that it needs lies in the spill area (R12). [DEDUCED: notes/assumptions/24.md] -/
def State.dealTail (s : State) (p : Nat) (l : LCore) : State :=
  let (s, k) := if l.asked = some l.ocyc ∨ ¬ s.mustAsk l then (s, 0) else s.ask l
  if k = 0 then { (s.takeStep l.owner l.num).setDealt p l.owner l.num with turn := some ⟨p, l.owner, l.num, 0, false, true⟩ }
  else { ((s.freeze l.owner (.late (s.dcyc + k))).modLcore l.owner l.num (·.stole)).setDealt p l.owner l.num with turn := some (idleTurn p) }

/-! ### Core cycles -/

/-- Windows that a device cycle releases besides those unbound: the slots of tailwater positions, and of owners that are frozen, descheduled
or not there (R103, R120, R336). [DEDUCED: notes/assumptions/24.md] -/
def State.freeWindows (s : State) : Nat :=
  let f := s.dev.fabric
  let ps := (f.table.take (2 ^ f.flen)).filter fun o => s.tailOwner o || s.frozen o || !s.lcores.any fun l => l.owner == o && l.resident
  ps.length * (512 / 2 ^ f.flen)

/-- At the end of an index of an untimed owner, in its logical cores: segments that landed count (R364), tile writes are applied
(R176). -/
def State.settleAll (s : State) (o : Nat) : State :=
  (s.lcores.filter fun l => l.owner == o && l.resident).foldl (fun s l => s.modLcore o l.num fun l => l.settleBars.commit) s

/-- A device cycle in which an untimed owner is frozen or descheduled: it counts for no wait, and for no strand as parked (R307, R286, R291). -/
def State.standStill (s : State) (o : Nat) : State :=
  { s.modOwner o fun w => { w with launches := w.launches.map fun l => { l with parked := l.parked.map (· + 1) } } with
    strands := modWhere s.strands (fun t => t.id.owner == o) (·.standStill 1)
    accs := modWhere s.accs (fun a => a.strand.owner == o) (·.standStill 1) }

/-- The next device cycle begins (R100): released windows are counted anew, the indices of untimed owners end; a pre-emption of one,
which has no positions, counts device cycles. [DEDUCED: notes/assumptions/24.md] -/
def State.nextDevice (s : State) : State :=
  let s := (s.owners.filter (·.orec.untimed)).foldl (fun s w =>
    let s := if s.frozen w.id then s.standStill w.id else s
    ((s.settleAll w.id).endIndex w.id s.dcyc).modOwner w.id fun w => { w with preempt := w.preempt.map (·.counted none) }) s
  let s : State := { s with dcyc := s.dcyc + 1 }
  ({ s with released := s.freeWindows }).serveReleased

/-- The open turn closes. -/
def State.closeTurn (s : State) : State :=
  match s.turn with
  | none => s
  | some t => if t.owner = 63 then s else s.endCycle t

/-- Is the open turn to be offered to tailwater next (R122, R123)? -/
def State.tailNext (s : State) : Option LCore :=
  match s.turn with
  | some t => if t.used ∨ (t.tail ∧ t.owner ≠ 63) then none else s.tailFor t.core
  | none => none

/-- The core whose cycle is dealt next, when no turn is open: the first of a new device cycle, or the one at which it stands. -/
def State.nextCore (s : State) : Nat := s.atCore.getD (s.liveCores.headD 0)

/-- The core whose cycle the machine is at. -/
def State.coreNow (s : State) : Nat :=
  match s.turn with
  | some t => t.core
  | none => s.nextCore

/-- The effects of a device cycle are over: the owners that are not frozen now have turns in it (R231). [DEDUCED: notes/assumptions/58.md] -/
def State.beginTurns (s : State) : State := { s with begun := (s.owners.filter fun w => !s.frozen w.id).map (·.id) }

/-- After a turn that closed: an unused one is offered to tailwater, or the cycle of the next core comes, or the next device cycle.
With no turn open the core cycle is dealt; with the first of a device cycle, its effects are over. -/
def State.goOn (s : State) : State :=
  match s.turn with
  | none => { (if s.atCore.isNone then s.beginTurns else s).deal s.nextCore with atCore := none }
  | some t =>
    match s.tailNext with
    | some l => s.dealTail t.core l
    | none =>
      match s.liveCores.find? fun q => decide (t.core < q) with
      | some p => { s with turn := none, atCore := some p }
      | none => { s.nextDevice with turn := none, atCore := none }

/-- Has the open turn something left to offer: a slot or the end of its owner cycle, to a logical core that is there? -/
def State.turnOpen (s : State) : Bool :=
  match s.turn with
  | some t => decide (t.slot < 5) && (s.lcore? t.owner t.lc).isSome
  | none => false

/-- CORE_CYCLE: a core cycle of core `p` ends or is dealt. What is due in between comes first: an owner's index begins with its turn.
[DEDUCED: notes/assumptions/58.md] -/
def execCoreCycle (p : Nat) (s : State) : Host.Outcome State Fault Refusal :=
  if s.turnOpen = false ∧ s.coreNow = p then .next s.closeTurn.goOn else .fault .notEnabled

end Sys2Proof.Machine
end

