-- ==== Sys2Proof/Machine/Vec.lean ====
section
/-!
DEFINITION. The extended computations of both streams: CMP to PFMA, the narrow datapath (R157, R158), the cross-lane class
(R75) and RND (R161), each from the entry of spec/12 to spec/15 that it names.
-/

namespace Sys2Proof.Machine

/-- CMP writes a lane mask (R378). -/
def execCmp (x : XOps) (ty : Ty) (r : Rel) (s : State) : Host.Outcome State Fault Refusal :=
  issueLanes (.cmp x ty r) 1 4 x.d (fun c l =>
    let v (y : Src) : DWord := if ty64 ty.code then c.pair y l else (c.src y l).setWidth 64
    [if cmpHolds ty r (v x.a) (v x.b) then 0xFFFFFFFF else 0]) s

/-- SEL (R437). -/
def execSel (x : XOps) (s : State) : Host.Outcome State Fault Refusal :=
  issueLanes (.sel x) 1 4 x.d (fun c l => [if c.src x.c l ≠ 0 then c.src x.a l else c.src x.b l]) s

/-- MAD (R415). -/
def execMad (x : XOps) (ty : Ty) (s : State) : Host.Outcome State Fault Refusal :=
  issueLanes (.mad x ty) 1 6 x.d (fun c l => [c.src x.a l * c.src x.b l + c.src x.c l]) s

/-- Quotient and remainder of R387. -/
def divide (ty : Ty) (x y : Word) : Word × Word :=
  if y = 0 then (0xFFFFFFFF, x)
  else if ty = .s32 then
    if x = 0x80000000 ∧ y = 0xFFFFFFFF then (0x80000000, 0) else (x.sdiv y, x - y * x.sdiv y)
  else (x.udiv y, x - y * x.udiv y)

/-- DIV writes the quotient and the remainder 36 owner cycles later and holds its side's divider for 8 (R387). -/
def execDiv (x : XOps) (ty : Ty) (s : State) : Host.Outcome State Fault Refusal :=
  issueWith (.div x ty) 1 (fun c s =>
    let hold (p : Pipe) : Pipe := { p with div := c.now + 8 }
    let s := s.modLcore c.cur.strand.owner c.cur.strand.lcore fun l =>
      if c.isCtl then { l with ctl := hold l.ctl } else { l with port0 := hold l.port0 }
    .result s 36 (c.lanes.flatMap fun l =>
      let (q, r) := divide ty (c.src x.a l) (c.src x.b l)
      dstOuts x.d l [q, r])) s

/-- Width mask of a field word (R366). -/
def fieldMask (f : Word) : Word :=
  let w := min (field f 15 8) 32
  if w = 32 then 0xFFFFFFFF else BitVec.ofNat 32 (2 ^ w - 1)

def bitExtract (ty : Ty) (a f : Word) : Word :=
  let w := min (field f 15 8) 32
  let y := (a >>> field f 7 0) &&& fieldMask f
  if ty = .s32 ∧ 0 < w ∧ w < 32 ∧ y.getLsbD (w - 1) then y ||| ~~~(fieldMask f) else y

def bitInsert (a b f : Word) : Word :=
  let mp := fieldMask f <<< field f 7 0
  (a &&& ~~~mp) ||| ((b <<< field f 7 0) &&& mp)

/-- BFX (R365, R366). -/
def execBfx (x : XOps) (ty : Ty) (s : State) : Host.Outcome State Fault Refusal :=
  issueLanes (.bfx x ty) 1 4 x.d (fun c l => [bitExtract ty (c.src x.a l) (c.src x.b l)]) s

/-- BFI (R365, R366). -/
def execBfi (x : XOps) (s : State) : Host.Outcome State Fault Refusal :=
  issueLanes (.bfi x) 1 4 x.d (fun c l => [bitInsert (c.src x.a l) (c.src x.b l) (c.src x.c l)]) s

/-- FFMA (R395). -/
def execFfma (x : XOps) (rm : RM) (s : State) : Host.Outcome State Fault Refusal :=
  issueLanes (.ffma x rm) 1 6 x.d (fun c l =>
    [toF32 rm (fmaVal rm (f32 (c.src x.a l)) (f32 (c.src x.b l)) (f32 (c.src x.c l)))]) s

/-- FCLS (R391). -/
def execFcls (x : XOps) (ty : Ty) (s : State) : Host.Outcome State Fault Refusal :=
  issueLanes (.fcls x ty) 1 6 x.d (fun c l => [BitVec.ofNat 32 (fclass (fmtOf ty.code) (c.src x.a l).toNat)]) s

/-- CVT (R153, R384): a pair source or destination for the 64-bit types. -/
def execCvt (x : XOps) (ty sty : Ty) (sat : Bool) (rm : RM) (s : State) : Host.Outcome State Fault Refusal :=
  issueLanes (.cvt x ty sty sat rm) 1 6 x.d (fun c l =>
    let a := if ty64 sty.code then (c.pair x.a l).toNat else (c.src x.a l).toNat
    wordsOf (if ty64 ty.code then 2 else 1) (cvt ty.code sty.code sat rm (if rm = .sr then c.src x.b l else 0) a)) s

/-- FRND (R398). -/
def execFrnd (x : XOps) (rm : RM) (s : State) : Host.Outcome State Fault Refusal :=
  issueLanes (.frnd x rm) 1 6 x.d (fun c l => [f32Round rm (c.src x.a l)]) s

/-- One element of PFMA. -/
def pfmaElem (ty : Ty) (rm : RM) (a b c : Nat) : Nat :=
  let f := fmtOf ty.code
  fenc f rm false 0 (fmaVal rm (fdec f a) (fdec f b) (fdec f c))

/-- PFMA (R427). -/
def execPfma (x : XOps) (ty : Ty) (rm : RM) (s : State) : Host.Outcome State Fault Refusal :=
  issueLanes (.pfma x ty rm) 1 6 x.d (fun c l =>
    let h (k : Nat) : Nat := pfmaElem ty rm ((c.src x.a l).toNat >>> k) ((c.src x.b l).toNat >>> k) ((c.src x.c l).toNat >>> k)
    [BitVec.ofNat 32 (h 0 + 2 ^ 16 * h 16)]) s

/-! ### The narrow datapath (R157, R158, R423, R425) -/

/-- Element j of a lane at precision p; zero beyond the lane's elements. -/
def narrowElem (m : NarMod) (v : Word) (j : Nat) : Int :=
  if j < 32 / m.p then intOf m.p m.s (v.toNat / 2 ^ (j * m.p)) else 0

/-- Put an exact element result into p bits: its low bits, or clamped with SAT. -/
def narrowPut (m : NarMod) (p : Nat) (x : Int) : Nat :=
  intBits p (if m.sat then clampInt (intLo p m.s) (intHi p m.s) x else x)

/-- Pack the elements of a lane at precision p. -/
def narrowPack (p : Nat) (f : Nat → Nat) : Word :=
  BitVec.ofNat 32 ((List.range (32 / p)).map fun j => f j * 2 ^ (j * p)).sum

/-- An elementwise narrow operation; its latency and cost depend on P. -/
def execNarrow (i : Instr) (x : XOps) (m : NarMod) (f : Int → Int → Int) (s : State) : Host.Outcome State Fault Refusal :=
  issueLanes i (if m.p ≤ 8 then 1 else 2) (m.p + 4) x.d (fun c l =>
    [narrowPack m.p fun j => narrowPut m m.p (f (narrowElem m (c.src x.a l) j) (narrowElem m (c.src x.b l) j))]) s

def execNadd (x : XOps) (m : NarMod) (s : State) : Host.Outcome State Fault Refusal := execNarrow (.nadd x m) x m (· + ·) s
def execNsub (x : XOps) (m : NarMod) (s : State) : Host.Outcome State Fault Refusal := execNarrow (.nsub x m) x m (· - ·) s
def execNmul (x : XOps) (m : NarMod) (s : State) : Host.Outcome State Fault Refusal := execNarrow (.nmul x m) x m (· * ·) s
def execNmin (x : XOps) (m : NarMod) (s : State) : Host.Outcome State Fault Refusal :=
  execNarrow (.nmin x m) x m (fun a b => if a < b then a else b) s
def execNmax (x : XOps) (m : NarMod) (s : State) : Host.Outcome State Fault Refusal :=
  execNarrow (.nmax x m) x m (fun a b => if a < b then b else a) s

/-- c + Σ a_j × b_j, exact, then modulo 2^32 or clamped. -/
def narrowDot (m : NarMod) (a b c : Word) : Word :=
  let dot := ((List.range (32 / m.p)).map fun j => narrowElem m a j * narrowElem m b j).foldl (· + ·) (0 : Int)
  BitVec.ofNat 32 (narrowPut m 32 (intOf 32 m.s c.toNat + dot))

def execNdot (x : XOps) (m : NarMod) (s : State) : Host.Outcome State Fault Refusal :=
  issueLanes (.ndot x m) (if m.p ≤ 8 then 1 else 2) (m.p + 4) x.d (fun c l =>
    [narrowDot m (c.src x.a l) (c.src x.b l) (c.src x.c l)]) s

/-- Element j of d from position j of a's elements, then b's; 0 beyond them. -/
def narrowRepack (m : NarMod) (q : Nat) (a b : Word) : Word :=
  let n := 32 / m.p
  narrowPack q fun j => narrowPut m q (if j < n then narrowElem m a j else narrowElem m b (j - n))

def execNpack (x : XOps) (m : NarMod) (q : Nat) (s : State) : Host.Outcome State Fault Refusal :=
  issueLanes (.npack x m q) (if m.p ≤ 8 then 1 else 2) (m.p + 4) x.d (fun c l =>
    [narrowRepack m q (c.src x.a l) (c.src x.b l)]) s

/-! ### The cross-lane class (R413, R414, R436, R438, R463) -/

/-- The source lane of SHFL, if it is a number (R438). -/
def shflLane (m : ShflMode) (l b : Nat) : Option Nat :=
  match m with
  | .idx => some b
  | .up => if b ≤ l then some (l - b) else none
  | .down => some (l + b)
  | .xor => some (l ^^^ b)

def execShfl (x : XOps) (m : ShflMode) (s : State) : Host.Outcome State Fault Refusal :=
  issueLanes (.shfl x m) 1 6 x.d (fun c l =>
    [match shflLane m l (c.src x.b l).toNat with
     | some k => if c.lanes.contains k then c.src x.a k else c.src x.a l
     | none => c.src x.a l]) s

/-- The value of a vote (R463). -/
def voteValue (m : VoteMode) (l : List (Nat × Word)) : Word :=
  match m with
  | .ballot => sendValue .ballot l
  | .any => sendValue .any l
  | .all => sendValue .all l
  | .count => sendValue .count l

/-- The participants of a cross-lane instruction, with their values of A, in ascending lane order. -/
def Ctx.values (c : Ctx) (a : Src) : List (Nat × Word) := c.lanes.map fun l => (l, c.src a l)

def execVote (x : XOps) (m : VoteMode) (s : State) : Host.Outcome State Fault Refusal :=
  issueLanes (.vote x m) 1 4 x.d (fun c _ => [voteValue m (c.values x.a)]) s

/-- A canonical f32 (R138). -/
def canonF32 (w : Word) : Word := if (f32 w).isNan then f32Nan else w

/-- One fold of a reduction (R414, R436). -/
def redFold (ty : Ty) (m : RedMode) (a b : Word) : Word :=
  match m with
  | .add => a + b
  | .and => a &&& b
  | .or => a ||| b
  | .xor => a ^^^ b
  | .fadd => f32Add .rne a b
  | .min => if ty = .f32 then canonF32 (f32MinMax false a b) else if ty = .s32 then (if a.slt b then a else b)
      else if a.ult b then a else b
  | .max => if ty = .f32 then canonF32 (f32MinMax true a b) else if ty = .s32 then (if a.slt b then b else a)
      else if a.ult b then b else a

/-- The identity a scan starts from (R436). -/
def redIdentity (ty : Ty) (m : RedMode) : Word :=
  match m with
  | .add | .or | .xor => 0
  | .and => 0xFFFFFFFF
  | .fadd => 0x80000000
  | .min => if ty = .f32 then 0x7F800000 else if ty = .s32 then 0x7FFFFFFF else 0xFFFFFFFF
  | .max => if ty = .f32 then 0xFF800000 else if ty = .s32 then 0x80000000 else 0

/-- One level of the pairwise tree of R414: an odd last element is carried unchanged. -/
def treeLevel : List Word → List Word
  | a :: b :: l => f32Add .rne a b :: treeLevel l
  | l => l

/-- The tree: at most six levels for 32 lanes. -/
def treeSum : Nat → List Word → Word
  | 0, l => l.headD 0
  | k + 1, l => treeSum k (treeLevel l)

/-- The result of LRED over the participants (R414). -/
def reduceWords (ty : Ty) (m : RedMode) : List Word → Word
  | [] => 0
  | a :: l =>
    match m with
    | .fadd => canonF32 (treeSum 6 (a :: l))
    | _ => if ty = .f32 then canonF32 (l.foldl (redFold ty m) a) else l.foldl (redFold ty m) a

def execLred (x : XOps) (ty : Ty) (m : RedMode) (s : State) : Host.Outcome State Fault Refusal :=
  issueLanes (.lred x ty m) 1 10 x.d (fun c _ => [reduceWords ty m ((c.values x.a).map (·.2))]) s

/-- The prefixes of SCAN over the participants (R436). -/
def scanWords (ty : Ty) (m : RedMode) (excl : Bool) (acc : Word) : List Word → List Word
  | [] => []
  | a :: l =>
    let next := redFold ty m acc a
    (if excl then acc else next) :: scanWords ty m excl next l

def execScan (x : XOps) (ty : Ty) (m : RedMode) (excl : Bool) (s : State) : Host.Outcome State Fault Refusal :=
  issueWith (.scan x ty m excl) 1 (fun c s =>
    .result s 12 (((c.lanes.zip (scanWords ty m excl (redIdentity ty m) ((c.values x.a).map (·.2)))).flatMap
      fun p => dstOuts x.d p.1 [p.2]))) s

/-! ### RND (R161, R433) -/

def rndWord (k0 k1 c : Word) : Word :=
  let x := (c ^^^ k0) * 0x9E3779B1
  let x := (x.rotateLeft 15 ^^^ k1) * 0x85EBCA77
  x.rotateLeft 16 ^^^ k0

def execRnd (x : XOps) (s : State) : Host.Outcome State Fault Refusal :=
  issueLanes (.rnd x) 1 10 x.d (fun c l => [rndWord (c.pair x.a l).lo (c.pair x.a l).hi (c.src x.b l)]) s

end Sys2Proof.Machine
end

