-- ==== Sys2Proof/Machine/Dispatch.lean ====
section
/-!
DEFINITION. One arm per constructor of Instr: its meaning.
-/

namespace Sys2Proof.Machine

def exec (i : Instr) (s : State) : Host.Outcome State Fault Refusal :=
  match i with
  | .nop => Sys2Proof.Machine.execNop s
  | .mov o => Sys2Proof.Machine.execMov o s
  | .movLit o => Sys2Proof.Machine.execMovLit o s
  | .add o => Sys2Proof.Machine.execAdd o s
  | .addLit o => Sys2Proof.Machine.execAddLit o s
  | .sub o => Sys2Proof.Machine.execSub o s
  | .subLit o => Sys2Proof.Machine.execSubLit o s
  | .mul o => Sys2Proof.Machine.execMul o s
  | .mulLit o => Sys2Proof.Machine.execMulLit o s
  | .mulhS32 o => Sys2Proof.Machine.execMulhS32 o s
  | .mulhS32Lit o => Sys2Proof.Machine.execMulhS32Lit o s
  | .mulhN32 o => Sys2Proof.Machine.execMulhN32 o s
  | .mulhN32Lit o => Sys2Proof.Machine.execMulhN32Lit o s
  | .minS32 o => Sys2Proof.Machine.execMinS32 o s
  | .minS32Lit o => Sys2Proof.Machine.execMinS32Lit o s
  | .minN32 o => Sys2Proof.Machine.execMinN32 o s
  | .minN32Lit o => Sys2Proof.Machine.execMinN32Lit o s
  | .maxS32 o => Sys2Proof.Machine.execMaxS32 o s
  | .maxS32Lit o => Sys2Proof.Machine.execMaxS32Lit o s
  | .maxN32 o => Sys2Proof.Machine.execMaxN32 o s
  | .maxN32Lit o => Sys2Proof.Machine.execMaxN32Lit o s
  | .abs o => Sys2Proof.Machine.execAbs o s
  | .absLit o => Sys2Proof.Machine.execAbsLit o s
  | .and o => Sys2Proof.Machine.execAnd o s
  | .andLit o => Sys2Proof.Machine.execAndLit o s
  | .or o => Sys2Proof.Machine.execOr o s
  | .orLit o => Sys2Proof.Machine.execOrLit o s
  | .xor o => Sys2Proof.Machine.execXor o s
  | .xorLit o => Sys2Proof.Machine.execXorLit o s
  | .andn o => Sys2Proof.Machine.execAndn o s
  | .andnLit o => Sys2Proof.Machine.execAndnLit o s
  | .shl o => Sys2Proof.Machine.execShl o s
  | .shlLit o => Sys2Proof.Machine.execShlLit o s
  | .shr o => Sys2Proof.Machine.execShr o s
  | .shrLit o => Sys2Proof.Machine.execShrLit o s
  | .sra o => Sys2Proof.Machine.execSra o s
  | .sraLit o => Sys2Proof.Machine.execSraLit o s
  | .rot o => Sys2Proof.Machine.execRot o s
  | .rotLit o => Sys2Proof.Machine.execRotLit o s
  | .popc o => Sys2Proof.Machine.execPopc o s
  | .popcLit o => Sys2Proof.Machine.execPopcLit o s
  | .clz o => Sys2Proof.Machine.execClz o s
  | .clzLit o => Sys2Proof.Machine.execClzLit o s
  | .brev o => Sys2Proof.Machine.execBrev o s
  | .brevLit o => Sys2Proof.Machine.execBrevLit o s
  | .prmb o => Sys2Proof.Machine.execPrmb o s
  | .prmbLit o => Sys2Proof.Machine.execPrmbLit o s
  | .fadd o => Sys2Proof.Machine.execFadd o s
  | .faddLit o => Sys2Proof.Machine.execFaddLit o s
  | .fsub o => Sys2Proof.Machine.execFsub o s
  | .fsubLit o => Sys2Proof.Machine.execFsubLit o s
  | .fmul o => Sys2Proof.Machine.execFmul o s
  | .fmulLit o => Sys2Proof.Machine.execFmulLit o s
  | .fmin o => Sys2Proof.Machine.execFmin o s
  | .fminLit o => Sys2Proof.Machine.execFminLit o s
  | .fmax o => Sys2Proof.Machine.execFmax o s
  | .fmaxLit o => Sys2Proof.Machine.execFmaxLit o s
  | .addw o => Sys2Proof.Machine.execAddw o s
  | .addwLit o => Sys2Proof.Machine.execAddwLit o s
  | .mulwN32 o => Sys2Proof.Machine.execMulwN32 o s
  | .mulwN32Lit o => Sys2Proof.Machine.execMulwN32Lit o s
  | .mulwS32 o => Sys2Proof.Machine.execMulwS32 o s
  | .mulwS32Lit o => Sys2Proof.Machine.execMulwS32Lit o s
  | .ixrd o => Sys2Proof.Machine.execIxrd o s
  | .ixrdLit o => Sys2Proof.Machine.execIxrdLit o s
  | .ixwr o => Sys2Proof.Machine.execIxwr o s
  | .ixwrLit o => Sys2Proof.Machine.execIxwrLit o s
  | .bra off => Sys2Proof.Machine.execBra off s
  | .brc cond a off => Sys2Proof.Machine.execBrc cond a off s
  | .call d off => Sys2Proof.Machine.execCall d off s
  | .jmp a => Sys2Proof.Machine.execJmp a s
  | .jmpLit a => Sys2Proof.Machine.execJmpLit a s
  | .exit => Sys2Proof.Machine.execExit s
  | .vend => Sys2Proof.Machine.execVend s
  | .vlend => Sys2Proof.Machine.execVlend s
  | .vpop d => Sys2Proof.Machine.execVpop d s
  | .frecv d => Sys2Proof.Machine.execFrecv d s
  | .yield => Sys2Proof.Machine.execYield s
  | .trap code => Sys2Proof.Machine.execTrap code s
  | .rfree a => Sys2Proof.Machine.execRfree a s
  | .rfreeLit a => Sys2Proof.Machine.execRfreeLit a s
  | .vsend mode a => Sys2Proof.Machine.execVsend mode a s
  | .vsendLit mode a => Sys2Proof.Machine.execVsendLit mode a s
  | .cmp x ty rel => Sys2Proof.Machine.execCmp x ty rel s
  | .sel x => Sys2Proof.Machine.execSel x s
  | .mad x ty => Sys2Proof.Machine.execMad x ty s
  | .div x ty => Sys2Proof.Machine.execDiv x ty s
  | .bfx x ty => Sys2Proof.Machine.execBfx x ty s
  | .bfi x => Sys2Proof.Machine.execBfi x s
  | .ffma x rm => Sys2Proof.Machine.execFfma x rm s
  | .fcls x ty => Sys2Proof.Machine.execFcls x ty s
  | .cvt x ty sty sat rm => Sys2Proof.Machine.execCvt x ty sty sat rm s
  | .frnd x rm => Sys2Proof.Machine.execFrnd x rm s
  | .pfma x ty rm => Sys2Proof.Machine.execPfma x ty rm s
  | .ex2 x gr => Sys2Proof.Machine.execEx2 x gr s
  | .lg2 x gr => Sys2Proof.Machine.execLg2 x gr s
  | .rcp x gr => Sys2Proof.Machine.execRcp x gr s
  | .rsq x gr => Sys2Proof.Machine.execRsq x gr s
  | .sqt x gr => Sys2Proof.Machine.execSqt x gr s
  | .sin x gr => Sys2Proof.Machine.execSin x gr s
  | .cos x gr => Sys2Proof.Machine.execCos x gr s
  | .tanh x gr => Sys2Proof.Machine.execTanh x gr s
  | .sigm x gr => Sys2Proof.Machine.execSigm x gr s
  | .erf x gr => Sys2Proof.Machine.execErf x gr s
  | .nadd x m => Sys2Proof.Machine.execNadd x m s
  | .nsub x m => Sys2Proof.Machine.execNsub x m s
  | .nmul x m => Sys2Proof.Machine.execNmul x m s
  | .ndot x m => Sys2Proof.Machine.execNdot x m s
  | .nmin x m => Sys2Proof.Machine.execNmin x m s
  | .nmax x m => Sys2Proof.Machine.execNmax x m s
  | .npack x m q => Sys2Proof.Machine.execNpack x m q s
  | .shfl x mode => Sys2Proof.Machine.execShfl x mode s
  | .vote x mode => Sys2Proof.Machine.execVote x mode s
  | .scan x ty mode excl => Sys2Proof.Machine.execScan x ty mode excl s
  | .lred x ty mode => Sys2Proof.Machine.execLred x ty mode s
  | .rnd x => Sys2Proof.Machine.execRnd x s
  | .ld x m => Sys2Proof.Machine.execLd x m s
  | .st x m => Sys2Proof.Machine.execSt x m s
  | .atom x fn m => Sys2Proof.Machine.execAtom x fn m s
  | .feset x m => Sys2Proof.Machine.execFeset x m s
  | .feget x m => Sys2Proof.Machine.execFeget x m s
  | .waita x m => Sys2Proof.Machine.execWaita x m s
  | .wake x m => Sys2Proof.Machine.execWake x m s
  | .xlat x => Sys2Proof.Machine.execXlat x s
  | .xdrop x => Sys2Proof.Machine.execXdrop x s
  | .fence x m => Sys2Proof.Machine.execFence x m s
  | .ldt x size => Sys2Proof.Machine.execLdt x size s
  | .stt x size => Sys2Proof.Machine.execStt x size s
  | .cpy x => Sys2Proof.Machine.execCpy x s
  | .seal x => Sys2Proof.Machine.execSeal x s
  | .swait x => Sys2Proof.Machine.execSwait x s
  | .twany x => Sys2Proof.Machine.execTwany x s
  | .twall x => Sys2Proof.Machine.execTwall x s
  | .tfirst x => Sys2Proof.Machine.execTfirst x s
  | .tclr x => Sys2Proof.Machine.execTclr x s
  | .binit x => Sys2Proof.Machine.execBinit x s
  | .barv x => Sys2Proof.Machine.execBarv x s
  | .bwait x => Sys2Proof.Machine.execBwait x s
  | .gsync x => Sys2Proof.Machine.execGsync x s
  | .talloc x level => Sys2Proof.Machine.execTalloc x level s
  | .tfree x => Sys2Proof.Machine.execTfree x s
  | .tinfo x => Sys2Proof.Machine.execTinfo x s
  | .mwld x ty t => Sys2Proof.Machine.execMwld x ty t s
  | .mstr x ty start reg => Sys2Proof.Machine.execMstr x ty start reg s
  | .mcon x ty start kind seglen => Sys2Proof.Machine.execMcon x ty start kind seglen s
  | .mclose x => Sys2Proof.Machine.execMclose x s
  | .mtile x => Sys2Proof.Machine.execMtile x s
  | .mstat x => Sys2Proof.Machine.execMstat x s
  | .cbld x => Sys2Proof.Machine.execCbld x s
  | .launch x => Sys2Proof.Machine.execLaunch x s
  | .join x => Sys2Proof.Machine.execJoin x s
  | .cancel x level => Sys2Proof.Machine.execCancel x level s
  | .cntrd x level => Sys2Proof.Machine.execCntrd x level s
  | .wlput x => Sys2Proof.Machine.execWlput x s
  | .wlget x => Sys2Proof.Machine.execWlget x s
  | .lcsync x => Sys2Proof.Machine.execLcsync x s
  | .caopen x => Sys2Proof.Machine.execCaopen x s
  | .caclose x => Sys2Proof.Machine.execCaclose x s
  | .caload x => Sys2Proof.Machine.execCaload x s
  | .calearn x => Sys2Proof.Machine.execCalearn x s
  | .cadec x => Sys2Proof.Machine.execCadec x s
  | .caprop x => Sys2Proof.Machine.execCaprop x s
  | .caback x => Sys2Proof.Machine.execCaback x s
  | .caval x => Sys2Proof.Machine.execCaval x s
  | .catrail x => Sys2Proof.Machine.execCatrail x s
  | .cadel x => Sys2Proof.Machine.execCadel x s
  | .srd x index => Sys2Proof.Machine.execSrd x index s
  | .swr x index => Sys2Proof.Machine.execSwr x index s
  | .eret x => Sys2Proof.Machine.execEret x s
  | .eretDispose x => Sys2Proof.Machine.execEretDispose x s
  | .ralloc x => Sys2Proof.Machine.execRalloc x s
  | .hgate x => Sys2Proof.Machine.execHgate x s
  | .intr x => Sys2Proof.Machine.execIntr x s
  | .frun x mask rel => Sys2Proof.Machine.execFrun x mask rel s
  | .ftrip x mask => Sys2Proof.Machine.execFtrip x mask s
  | .fmask x mask => Sys2Proof.Machine.execFmask x mask s
  | .fval x mask rel => Sys2Proof.Machine.execFval x mask rel s
  | .regang x mask => Sys2Proof.Machine.execRegang x mask s
  | .vloop x ft => Sys2Proof.Machine.execVloop x ft s
  | .rotacWrite p v => Sys2Proof.Machine.execRotacWrite p v s
  | .rotafStage v => Sys2Proof.Machine.execRotafStage v s
  | .rotafCommit v => Sys2Proof.Machine.execRotafCommit v s
  | .correctedError => Sys2Proof.Machine.execCorrectedError s
  | .storageErrorKill e => Sys2Proof.Machine.execStorageErrorKill e s
  | .errorCountPoll banks poisoned => Sys2Proof.Machine.execErrorCountPoll banks poisoned s
  | .enqueue asid q c => Sys2Proof.Machine.execEnqueue asid q c s
  | .lcmapWrite v => Sys2Proof.Machine.execLcmapWrite v s
  | .lovfWrite o v => Sys2Proof.Machine.execLovfWrite o v s
  | .parkbaseWrite o v => Sys2Proof.Machine.execParkbaseWrite o v s
  | .qtimeoutWrite o v => Sys2Proof.Machine.execQtimeoutWrite o v s
  | .jswapWrite o v => Sys2Proof.Machine.execJswapWrite o v s
  | .intdropWrite => Sys2Proof.Machine.execIntdropWrite s
  | .rfmCommand bank o count => Sys2Proof.Machine.execRfmCommand bank o count s
  | .refreshSkip grp mask => Sys2Proof.Machine.execRefreshSkip grp mask s
  | .kwayrLinkRetrain up => Sys2Proof.Machine.execKwayrLinkRetrain up s
  | .remoteRequestReceive p => Sys2Proof.Machine.execRemoteRequestReceive p s
  | .remoteReplyReceive p => Sys2Proof.Machine.execRemoteReplyReceive p s
  | .nackReceive p => Sys2Proof.Machine.execNackReceive p s
  | .powerOn r => Sys2Proof.Machine.execPowerOn r s
  | .recoveryImageReceive ok => Sys2Proof.Machine.execRecoveryImageReceive ok s
  | .coreRailOvercurrent amps => Sys2Proof.Machine.execCoreRailOvercurrent amps s
  | .powerRecover amps => Sys2Proof.Machine.execPowerRecover amps s
  | .transferResend id => Sys2Proof.Machine.execTransferResend id s
  | .tailwaterWithholdEnd amps => Sys2Proof.Machine.execTailwaterWithholdEnd amps s
  | .coreCycle p => Sys2Proof.Machine.execCoreCycle p s
  | .ownerFreezeEnd o => Sys2Proof.Machine.execOwnerFreezeEnd o s
  | .resultWriteback id => Sys2Proof.Machine.execResultWriteback id s
  | .windowCommitPoint o lc => Sys2Proof.Machine.execWindowCommitPoint o lc s
  | .flumeSendResume t => Sys2Proof.Machine.execFlumeSendResume t s
  | .sliceTakesRun t set => Sys2Proof.Machine.execSliceTakesRun t set s
  | .sliceTakesMask t set => Sys2Proof.Machine.execSliceTakesMask t set s
  | .sliceTakesRegang t set => Sys2Proof.Machine.execSliceTakesRegang t set s
  | .sliceTakesEnd t set => Sys2Proof.Machine.execSliceTakesEnd t set s
  | .vpopTakesVal t set => Sys2Proof.Machine.execVpopTakesVal t set s
  | .vloopTakesTrip t set => Sys2Proof.Machine.execVloopTakesTrip t set s
  | .returnQueueEntryArrive t => Sys2Proof.Machine.execReturnQueueEntryArrive t s
  | .vsendPushResume t set => Sys2Proof.Machine.execVsendPushResume t set s
  | .frecvPop t => Sys2Proof.Machine.execFrecvPop t s
  | .returnQueueStarvation t => Sys2Proof.Machine.execReturnQueueStarvation t s
  | .flumeDeadlock t => Sys2Proof.Machine.execFlumeDeadlock t s
  | .strandEnd t => Sys2Proof.Machine.execStrandEnd t s
  | .rallocGrant t => Sys2Proof.Machine.execRallocGrant t s
  | .rfreeQuietAct t => Sys2Proof.Machine.execRfreeQuietAct t s
  | .strandSwapOut o lc => Sys2Proof.Machine.execStrandSwapOut o lc s
  | .strandSwapOutEnd t => Sys2Proof.Machine.execStrandSwapOutEnd t s
  | .strandSwapIn t => Sys2Proof.Machine.execStrandSwapIn t s
  | .strandSwapInEnd t => Sys2Proof.Machine.execStrandSwapInEnd t s
  | .rotacTakesEffect p => Sys2Proof.Machine.execRotacTakesEffect p s
  | .rotafTableInForce => Sys2Proof.Machine.execRotafTableInForce s
  | .swapBegin p => Sys2Proof.Machine.execSwapBegin p s
  | .swapQuietEnd p => Sys2Proof.Machine.execSwapQuietEnd p s
  | .drainSlotArrival id => Sys2Proof.Machine.execDrainSlotArrival id s
  | .swapSavePhase p => Sys2Proof.Machine.execSwapSavePhase p s
  | .swapRestorePhase p => Sys2Proof.Machine.execSwapRestorePhase p s
  | .swapRebind p => Sys2Proof.Machine.execSwapRebind p s
  | .swapComplete p => Sys2Proof.Machine.execSwapComplete p s
  | .tileDrainComplete o lc tile => Sys2Proof.Machine.execTileDrainComplete o lc tile s
  | .tallocPickGrant t => Sys2Proof.Machine.execTallocPickGrant t s
  | .copyUnitLands id => Sys2Proof.Machine.execCopyUnitLands id s
  | .copyPageGranted id => Sys2Proof.Machine.execCopyPageGranted id s
  | .copyComplete id => Sys2Proof.Machine.execCopyComplete id s
  | .matCommandStart id => Sys2Proof.Machine.execMatCommandStart id s
  | .matCommandEnd id => Sys2Proof.Machine.execMatCommandEnd id s
  | .twanyReturn t => Sys2Proof.Machine.execTwanyReturn t s
  | .twallReturn t => Sys2Proof.Machine.execTwallReturn t s
  | .swaitComplete t => Sys2Proof.Machine.execSwaitComplete t s
  | .bwaitRelease t => Sys2Proof.Machine.execBwaitRelease t s
  | .gsyncComplete g => Sys2Proof.Machine.execGsyncComplete g s
  | .memoryAccessAct id => Sys2Proof.Machine.execMemoryAccessAct id s
  | .feRetryAttempt id lane => Sys2Proof.Machine.execFeRetryAttempt id lane s
  | .wokenRetry id lane => Sys2Proof.Machine.execWokenRetry id lane s
  | .waitaSpuriousReturn id lane => Sys2Proof.Machine.execWaitaSpuriousReturn id lane s
  | .xlatAct id => Sys2Proof.Machine.execXlatAct id s
  | .clauseCommandStart o k => Sys2Proof.Machine.execClauseCommandStart o k s
  | .capropRound o k => Sys2Proof.Machine.execCapropRound o k s
  | .caloadColumnWrite o k => Sys2Proof.Machine.execCaloadColumnWrite o k s
  | .clauseCommandEnd o k => Sys2Proof.Machine.execClauseCommandEnd o k s
  | .launchAct id => Sys2Proof.Machine.execLaunchAct id s
  | .distributorStep o => Sys2Proof.Machine.execDistributorStep o s
  | .overflowRecordRead o => Sys2Proof.Machine.execOverflowRecordRead o s
  | .groupStrandsStart g => Sys2Proof.Machine.execGroupStrandsStart g s
  | .joinObserveZero t => Sys2Proof.Machine.execJoinObserveZero t s
  | .joinSwapOut t => Sys2Proof.Machine.execJoinSwapOut t s
  | .joinSwapIn t => Sys2Proof.Machine.execJoinSwapIn t s
  | .cancelStrandStop t => Sys2Proof.Machine.execCancelStrandStop t s
  | .cancelQtimeoutKill t => Sys2Proof.Machine.execCancelQtimeoutKill t s
  | .wlputAct id => Sys2Proof.Machine.execWlputAct id s
  | .wlgetAttempt id => Sys2Proof.Machine.execWlgetAttempt id s
  | .strandedDetect o comp => Sys2Proof.Machine.execStrandedDetect o comp s
  | .trapInPlaceEntry t => Sys2Proof.Machine.execTrapInPlaceEntry t s
  | .trapRecordStore id => Sys2Proof.Machine.execTrapRecordStore id s
  | .watchdogTrap t => Sys2Proof.Machine.execWatchdogTrap t s
  | .preemptQuietEnd o => Sys2Proof.Machine.execPreemptQuietEnd o s
  | .preemptDrainEnd o => Sys2Proof.Machine.execPreemptDrainEnd o s
  | .preemptSaveEnd o => Sys2Proof.Machine.execPreemptSaveEnd o s
  | .commandTake o => Sys2Proof.Machine.execCommandTake o s
  | .hostLaunch o c => Sys2Proof.Machine.execHostLaunch o c s
  | .hostOpen o c => Sys2Proof.Machine.execHostOpen o c s
  | .hostClose o c => Sys2Proof.Machine.execHostClose o c s
  | .hostCancel o c => Sys2Proof.Machine.execHostCancel o c s
  | .ocreate c => Sys2Proof.Machine.execOcreate c s
  | .oreset c => Sys2Proof.Machine.execOreset c s
  | .odestroy c => Sys2Proof.Machine.execOdestroy c s
  | .load c => Sys2Proof.Machine.execLoad c s
  | .preempt c => Sys2Proof.Machine.execPreempt c s
  | .restore c => Sys2Proof.Machine.execRestore c s
  | .swap c => Sys2Proof.Machine.execSwap c s
  | .pause c => Sys2Proof.Machine.execPause c s
  | .resume c => Sys2Proof.Machine.execResume c s
  | .rota c => Sys2Proof.Machine.execRota c s
  | .resolve c => Sys2Proof.Machine.execResolve c s
  | .unmap c => Sys2Proof.Machine.execUnmap c s
  | .stats c => Sys2Proof.Machine.execStats c s
  | .clearboot c => Sys2Proof.Machine.execClearboot c s
  | .intrRecordStore id => Sys2Proof.Machine.execIntrRecordStore id s
  | .remoteTimeout id => Sys2Proof.Machine.execRemoteTimeout id s
  | .powerFault => Sys2Proof.Machine.execPowerFault s

end Sys2Proof.Machine
end

