-- ==== Sys2Proof/Machine/Sched.lean ====
section
/-!
DEFINITION. What happens next: the external events that arrive, the steps of the part's engines that are due, the instruction that
issues, in the order the spec gives them (spec/06 R213; spec/09 R278; spec/03 R110, R116, R247, R364). A row that is due is one whose
meaning answers a next state.
-/

namespace Sys2Proof.Machine

/-- A step of an engine: the meaning of its row. -/
abbrev Row := State → Host.Outcome State Fault Refusal

/-- What the first row of a list that is due comes to. -/
def State.firstDue (s : State) (l : List Row) : Option State :=
  l.findSome? fun f => match f s with
    | .next t => some t
    | _ => none

/-! ### The device (R102, R105, R129, R308, R331, R348) -/

/-- The row of a command that a queue's owner has taken. -/
def commandRow (o : Nat) (c : Command) : List Row :=
  match cmdOp c with
  | 0x01 => [execHostLaunch o c] | 0x02 => [execHostOpen o c] | 0x03 => [execHostClose o c] | 0x04 => [execHostCancel o c]
  | 0x10 => [execOcreate c] | 0x11 => [execOreset c] | 0x12 => [execOdestroy c] | 0x13 => [execLoad c] | 0x14 => [execPreempt c] | 0x15 => [execRestore c]
  | 0x16 => [execSwap c] | 0x17 => [execPause c] | 0x18 => [execResume c] | 0x19 => [execRota c] | 0x1A => [execResolve c] | 0x1B => [execUnmap c]
  | 0x1C => [execStats c] | 0x1D => [execClearboot c]
  | _ => []

/-- Rows of a core: its pending table, the phases of its swap. -/
def coreRows (x : Nat × Core) : List Row :=
  (if x.2.pend.isSome then [execRotacTakesEffect x.1] else []) ++
  (if x.2.swap.isSome then
    [execSwapBegin x.1, execSwapQuietEnd x.1, execSwapSavePhase x.1, execSwapRestorePhase x.1, execSwapRebind x.1, execSwapComplete x.1] else [])

/-- Rows that an owner's freezes, pre-emption and queues may make due. -/
def ownerDeviceRows (w : Owner) : List Row :=
  (if w.freezes.isEmpty then [] else [execOwnerFreezeEnd w.id]) ++
  (if w.preempt.isSome then [execPreemptQuietEnd w.id, execPreemptDrainEnd w.id, execPreemptSaveEnd w.id] else []) ++ [execCommandTake w.id]

/-- Rows of the device. [DEDUCED: notes/assumptions/58.md] -/
def State.deviceRows (s : State) : List Row :=
  s.cores.flatMap coreRows ++ (if s.dev.fabric.pend.isSome then [execRotafTableInForce] else []) ++
  s.transfers.map (fun t => execRemoteTimeout t.id) ++ ((s.accs ++ s.images.flatMap (·.accs)).filter (·.slot)).map (fun a => execDrainSlotArrival a.id) ++
  (if s.dev.withheld.isSome then [execPowerFault] else []) ++
  s.dev.queues.flatMap (fun q => (q.taken.map (commandRow q.owner)).getD []) ++ s.owners.flatMap ownerDeviceRows

/-! ### An owner's index (R213, R278, R283) -/

/-- Woken retries that are due, in the order in which the records named them. -/
def Acc.wokenRows (n : Nat) (a : Acc) : List (List Nat × Row) :=
  a.lanes.filterMap fun l => match l.st with
    | .woken due q _ => if due ≤ n then some ([q], execWokenRetry a.id l.lane) else none
    | _ => none

/-- An attempt of a lane that is due besides the first and the woken ones. -/
def laneRow (n id : Nat) (l : LaneAcc) : Option Row :=
  match l.st with
  | .retry due _ => if due ≤ n then some (execFeRetryAttempt id l.lane) else none
  | .over due => if due ≤ n then some (execFeRetryAttempt id l.lane) else none
  | .spurious due => if due ≤ n then some (execWaitaSpuriousReturn id l.lane) else none
  | _ => none

/-- The act of an access, with its place in the rank order: logical core, pipe or port, lane (the first that is due), issue (R213).
[DEDUCED: notes/assumptions/23.md] -/
def Acc.actRows (n : Nat) (a : Acc) : List (List Nat × Row) :=
  let at_ (lane : Nat) : List Nat := [a.strand.lcore, a.port, lane, a.id]
  let k := at_ (((a.lanes.find? fun l => l.st == .todo && decide (l.due ≤ n)).map (·.lane)).getD ((a.lanes.map (·.lane)).headD 0))
  match a.instr with
  | .xlat _ => if a.due ≤ n then [(k, execXlatAct a.id)] else []
  | .launch _ => if a.due ≤ n then [(k, execLaunchAct a.id)] else []
  | .wlput _ => if a.due ≤ n then [(k, execWlputAct a.id)] else []
  | .wlget _ => if a.due ≤ n then [(k, execWlgetAttempt a.id)] else []
  | _ => (if a.due ≤ n then [(k, execMemoryAccessAct a.id)] else []) ++ a.lanes.filterMap fun l => (laneRow n a.id l).map (at_ l.lane, ·)

/-- Copies of a logical core: landings, pages granted, ends. -/
def copyRows (l : LCore) : List (List Nat × Row) :=
  l.copies.flatMap fun c => [([c.id], execCopyUnitLands c.id), ([c.id], execCopyPageGranted c.id), ([c.id], execCopyComplete c.id)]

/-- Effects on memory of an owner in its index `n`, in order: what the start of an owner cycle asks, accesses, copies (R116, R213).
[DEDUCED: notes/assumptions/58.md] -/
def State.effectRows (s : State) (o n : Nat) : List Row :=
  let accs := s.accs.filter fun a => a.strand.owner == o
  let lcs := s.lcores.filter fun l => l.owner == o && l.resident
  State.noteStep o :: lcs.map (fun l => State.askStep o l.num) ++ byKey (accs.flatMap (Acc.wokenRows n)) ++ byKey (accs.flatMap (Acc.actRows n)) ++
  byKey (lcs.flatMap copyRows)

/-- A swapped strand that may come back before the distributor places a group (R283). -/
def backRows (t : Strand) : List Row := if t.res == .out then [execJoinSwapIn t.id] else []

/-- Swaps of strands, and what a cancel brings about. -/
def strandRows (t : Strand) : List Row :=
  (match t.res with
   | .here => match t.ctl.wait.map Wait.instr with
     | some (.join _) => [execJoinSwapOut t.id]
     | _ => []
   | .leaving _ => [execStrandSwapOutEnd t.id]
   | .out => [execStrandSwapIn t.id, execJoinSwapIn t.id]
   | .back _ => [execStrandSwapInEnd t.id]
   | .coming => []) ++
  (if t.quietBy.isSome then [execCancelStrandStop t.id, execCancelQtimeoutKill t.id] else [])

/-- Rows of an array that holds commands. -/
def clauseRows (x : Nat × ClauseArray) : List Row :=
  if x.2.cmds.isEmpty then []
  else
    let o := x.1 / 64
    let k := x.1 % 64
    [execClauseCommandEnd o k, execClauseCommandStart o k, execCapropRound o k, execCaloadColumnWrite o k]

/-- Does a device cycle begin, so that the effects of all owners in it are carried out, by ascending owner id (R231)?
[DEDUCED: notes/assumptions/58.md] -/
def State.atStart (s : State) : Bool := s.turn.isNone && s.atCore.isNone

/-- Rows of an owner in its index `n`, in order: what a kill leaves to do, copies that end; when a device cycle begins, its effects on memory
and then the distributor with the swapped strands whose JOIN is met (R278: after the LAUNCH acts of the index); swaps of strands, groups that
start, records, arrays, launches of which every strand is parked. [DEDUCED: notes/assumptions/58.md] -/
def State.ownerRows (s : State) (w : Owner) (n : Nat) : List Row :=
  let o := w.id
  let lcs := s.lcores.filter fun l => l.owner == o && l.resident
  ((s.accs.filter fun a => a.killed && a.strand.owner == o).map fun a => State.purgeStep a.id) ++
  (if s.atStart then s.effectRows o n else []) ++ lcs.flatMap (fun l => l.copies.map fun c => execCopyComplete c.id) ++
  (if s.atStart then
    (s.strands.filter fun t => t.id.owner == o).flatMap backRows ++ [execOverflowRecordRead o, execDistributorStep o] else []) ++
  (s.strands.filter fun t => t.id.owner == o).flatMap strandRows ++ lcs.map (fun l => execStrandSwapOut o l.num) ++
  (s.groups.filter fun g => g.owner == o && decide (g.start ≤ n)).map (fun g => execGroupStrandsStart g.id) ++
  (lcs.flatMap (·.trecs)).map (fun r => execTrapRecordStore r.id) ++
  (s.intrs.filter fun r => r.strand.owner == o).map (fun r => execIntrRecordStore r.id) ++
  (s.clauses.filter fun x => x.1 / 64 == o).flatMap clauseRows ++
  (w.launches.filter fun l => l.parked.isSome).map fun l => execStrandedDetect o l.lrec.comp

/-! ### A logical core's owner cycle -/

/-- Rows of a gang set: the token that an idle set takes. -/
def setRows (i : StrandId) (g : GSet) : List Row :=
  if g.st == .idle then [execSliceTakesRun i g.key, execSliceTakesMask i g.key, execSliceTakesRegang i g.key, execSliceTakesEnd i g.key] else []

/-- Rows of a control stream's wait. -/
def waitRows (i : StrandId) (j : Instr) : List Row :=
  match j with
  | .frecv _ => [execReturnQueueStarvation i]
  | .ralloc _ => [execRallocGrant i]
  | .rfree _ | .rfreeLit _ => [execRfreeQuietAct i]
  | .twany _ => [execTwanyReturn i]
  | .twall _ => [execTwallReturn i]
  | .swait _ => [execSwaitComplete i]
  | .join _ => [execJoinObserveZero i]
  | .frun .. | .ftrip .. | .fmask .. | .fval .. | .regang .. | .exit => [execFlumeDeadlock i]
  | _ => []

/-- Rows of a strand in an owner cycle, results first. -/
def cycleRows (t : Strand) : List Row :=
  t.pends.map (fun p => execResultWriteback p.id) ++ (if t.ctl.trap.isSome then [execTrapInPlaceEntry t.id] else []) ++
  (if t.rq.isEmpty then [] else [execReturnQueueEntryArrive t.id]) ++ t.sets.flatMap (setRows t.id)

/-- Rows that end a strand's wait. -/
def endWaitRows (t : Strand) : List Row := ((t.ctl.wait.map fun w => waitRows t.id w.instr).getD []) ++ [execWatchdogTrap t.id]

/-- Rows of a logical core before its issue slots: what its strands and its matrix array bring about, and then the waits that see it (R51, R459).
[DEDUCED: notes/assumptions/58.md] -/
def State.lcoreRows (s : State) (l : LCore) : List Row :=
  let ts := s.strandsOf l.owner l.num
  ts.flatMap cycleRows ++ l.mats.flatMap (fun m => [execMatCommandEnd m.id, execMatCommandStart m.id]) ++ ts.flatMap endWaitRows ++
  (s.groups.filter fun g => g.owner == l.owner && g.lcore == l.num && g.gsDue.isSome).map fun g => execGsyncComplete g.id

/-- Rows of a logical core after its issue slots: tiles that drained, TALLOC, barriers, strands that end. [DEDUCED: notes/assumptions/58.md] -/
def State.lateRows (s : State) (l : LCore) : List Row :=
  (l.tiles.filter fun e => e.2.st == .draining).map (fun e => execTileDrainComplete l.owner l.num e.1) ++
  (s.strandsOf l.owner l.num).flatMap fun t =>
    (match t.ctl.wait.map Wait.instr with
     | some (.talloc ..) => [execTallocPickGrant t.id]
     | some (.bwait _) => [execBwaitRelease t.id]
     | _ => []) ++ (if t.cst == .exited then [execStrandEnd t.id] else [])

/-- Is it an owner's time: does the device cycle begin in which a core has a turn of it, is a turn of it open, or the next to be dealt? What is
due is carried out when the device cycle begins, for all owners (R231). An untimed owner's time is any (R126).
[DEDUCED: notes/assumptions/24.md] -/
def State.ownerTime (s : State) (w : Owner) : Bool :=
  w.orec.untimed || (match s.turn, s.atCore with
    | some t, _ => t.owner == w.id
    | none, some p => s.hasCycle w.id p
    | none, none => s.lcores.any fun l => l.owner == w.id && l.resident && s.hasCycle w.id l.core)

/-- Is a logical core in a tailwater turn whose issue slots are not over? Its tiles' and strands' changes come after them (R455). -/
def State.midTurn (s : State) (l : LCore) : Bool :=
  s.turn.any fun t => t.owner == l.owner && t.lc == l.num && decide (t.slot ≤ 2)

/-- Rows of an untimed owner's logical cores, which go on in device cycles (R126). -/
def State.untimedRows (s : State) (o : Nat) : List Row :=
  (s.lcores.filter fun l => l.owner == o && l.resident).flatMap fun l => s.lcoreRows l ++ (if s.midTurn l then [] else s.lateRows l)

/-- Rows of the owners that are not frozen, each in its own time, by ascending owner id (R231). -/
def State.indexRows (s : State) : List Row :=
  (byKey ((s.owners.filter fun w => !s.frozen w.id && s.ownerTime w).map fun w => ([w.id], w))).flatMap fun w =>
    match s.ownerNow w.id with
    | none => []
    | some n => s.ownerRows w n ++ (if w.orec.untimed then s.untimedRows w.id else [])

/-! ### The next step -/

/-- The first external event that has arrived; while the package is down, the next one. [DEDUCED: notes/assumptions/47.md] -/
def State.arrived (s : State) : Option (Nat × Instr) :=
  match s.inputs.findIdx? fun x => decide (x.1 ≤ s.dcyc) || !s.dev.on with
  | some k => (s.inputs[k]?).map fun x => (k, x.2)
  | none => none

/-- An external event: it is over once it has come, whether or not it found its circumstances. [DEDUCED: notes/assumptions/47.md] -/
def takeInput (k : Nat) (i : Instr) (s : State) : State :=
  let s : State := { s with inputs := s.inputs.eraseIdx k }
  match exec i s with
  | .next t => t
  | _ => s

/-- The trap of an instruction that cannot be fetched or decoded (R83). -/
def fetchTrap (c : Ctx) (tr : Trap) (s : State) : State := { s with cur := some c.cur }.trapped c tr

/-- What stands next in the stream that an issue slot picks, executed; without such a stream the next slot is offered. -/
def State.slotStep (s : State) (l : LCore) (slot : Nat) : Host.Outcome State Fault Refusal :=
  match s.pick l slot with
  | none => .next s.advance
  | some cur =>
    match ctxAt s cur with
    | none => .next s.advance
    | some c => match c.str.wait.bind fun w => resumeRow cur w.instr with
      | some f => f s
      | none => match c.fetched s with
        | .instr i => exec i { s with cur := some cur }
        | .trap tr => .next (fetchTrap c tr s)

/-- The next core cycle (R100). -/
def State.nextCycle (s : State) : Host.Outcome State Fault Refusal := execCoreCycle s.coreNow s

/-- What the open turn of a logical core does next. -/
def State.turnStep (s : State) (t : Turn) (l : LCore) : Host.Outcome State Fault Refusal :=
  if t.slot ≤ 2 then
    match s.firstDue (s.lcoreRows l) with
    | some s' => .next s'
    | none => s.slotStep l t.slot
  else if t.slot = 3 then
    match s.firstDue (s.lateRows l) with
    | some s' => .next s'
    | none => .next s.advance
  else if t.slot = 4 then execWindowCommitPoint t.owner t.lc s
  else s.nextCycle

/-- What happens when no external event has arrived and no row of the device or of an owner's index is due. -/
def State.cycleStep (s : State) : Host.Outcome State Fault Refusal :=
  match s.turn.bind fun t => (s.lcore? t.owner t.lc).map (t, ·) with
  | some (t, l) => s.turnStep t l
  | none => s.nextCycle

/-- The machine's next step. [DEDUCED: notes/assumptions/47.md; DEDUCED: notes/assumptions/58.md] -/
def State.proceed (s : State) : Host.Outcome State Fault Refusal :=
  match s.arrived with
  | some (k, i) => .next (takeInput k i s)
  | none =>
    if !s.dev.on then .fault .notEnabled
    else match s.firstDue (s.deviceRows ++ s.indexRows) with
      | some s' => .next s'
      | none => s.cycleStep

end Sys2Proof.Machine
end

