-- ==== Sys2Proof/Machine/Boot.lean ====
section
/-!
DEFINITION. A strand at an instruction: the state in which the very next step fetches and runs the instruction of given words. It stands for
what the host's LOAD and LAUNCH commands bring about (notes/assumptions/12.md).
-/

namespace Sys2Proof.Machine

/-- Five words of an instruction numbered as the opcode table numbers its bits (R3). [DEDUCED: notes/assumptions/12.md] -/
def tableWords (nbits w : Nat) : List Word := [0, 1, 2, 3, 4].map fun i => BitVec.ofNat 32 ((w % 2 ^ nbits) >>> (32 * i))

/-- Is an instruction one of the vector stream only? -/
def vectorOnly (i : Option Instr) : Bool :=
  match i with
  | some i => streamCls (fieldsOf i).op (fieldsOf i).fn == .vec
  | none => false

/-- The group of the strand. -/
def fetchGroup (id : Nat) : Group := ⟨id, 0, 0, 0, 0, 0, 0, ⟨false, false, false⟩, false, false, false, none, 0, []⟩

/-- A strand of owner 0 that stands at address 0 in its control stream and, for a vector instruction, in a gang set's block.
[DEDUCED: notes/assumptions/12.md] -/
def fetchStrand (grp : Nat) (vec : Bool) : Strand :=
  { strandAt ⟨0, 0, 0⟩ grp 0 ⟨0, launchRecOf [], false, none, 0, 0, none, none⟩ with
    res := .here, n := 120, slices := 8
    sets := [⟨List.range 8, if vec then .block else .idle, stream0, [], 0xFFFFFFFF, 0⟩] }

/-- Words in owner 0's instruction store from address 0. -/
def State.withCode (s : State) (ws : List Word) : State :=
  s.modOwner 0 fun w => { w with code := tblSets 0 w.code ((List.range ws.length).zip ws) }

/-- A resident strand of owner 0 at address 0, and an open turn of its logical core at the slot that issues its stream.
[DEDUCED: notes/assumptions/12.md] -/
def State.atInstr (s : State) (vec : Bool) : State :=
  { s with
    inputs := [], atCore := none, groups := [fetchGroup s.nextId], strands := [fetchStrand s.nextId vec], cur := none
    turn := some ⟨0, 0, 0, if vec then 1 else 0, false, false⟩, nextId := s.nextId + 1 }

end Sys2Proof.Machine
end

