-- ==== Sys2Proof/Machine/Step.lean ====
section
/-!
DEFINITION. One step of the package, and the state in which a given instruction is the next to run.
-/

namespace Sys2Proof.Machine

/-- One step: an external event, a step of an engine, an instruction's issue, or the next issue slot. -/
def step (s : State) : Host.Outcome State Fault Refusal := s.proceed

/-- The state in which the instruction of the given bits is the next that a step runs. [DEDUCED: notes/assumptions/12.md] -/
def State.withFetchWord (s : State) (nbits w : Nat) : State :=
  (s.withCode (tableWords nbits w)).atInstr (vectorOnly (decodeTableWord nbits w))

end Sys2Proof.Machine
end

