-- ==== Sys2Proof/Safety.lean ====
section
/-!
DEFINITION. The terms in which claims about the machine are stated: when an instruction has its own effect, what a safe run is, and the
forms of the state that every step keeps.
-/

namespace Sys2Proof.Machine

/-- What an instruction of the stream that issues sees when it has its own effect: it passes the checks of R83, its guard holds (R16)
and, for an untimed owner's instruction of cost 2, its first half is taken (R124). None when it has none: without a stream that
issues, on a trap, after a failed guard of the control stream, and in that first half. -/
def issuing (s : State) (i : Instr) (cost : Nat) : Option Ctx :=
  s.cur.bind fun cur => (ctxAt s cur).bind fun c =>
    if (issueError c i).isSome then none
    else
      let c := c.guarded (fieldsOf i).g
      if c.isCtl && c.lanes.isEmpty then none
      else if cost = 2 ∧ s.untimed cur.strand.owner = true ∧ c.str.half = false then none
      else some c

/-- In every state in which `i` has its own effect and `P` holds of what it sees, `exec` answers the state `t`. -/
def Completes (i : Instr) (cost : Nat) (P : Ctx → State → Prop) (t : Ctx → State → State) : Prop :=
  ∀ s c, issuing s i cost = some c → P c s → exec i s = .next (t c s)

/-- In every state in which `i` has its own effect and `P` holds, `exec` answers a next state of which `Q` holds. -/
def Answers (i : Instr) (cost : Nat) (P : Ctx → State → Prop) (Q : Ctx → State → State → Prop) : Prop :=
  ∀ s c, issuing s i cost = some c → P c s → ∃ t, exec i s = .next t ∧ Q c s t

/-- No condition. -/
def Always (_ : Ctx) (_ : State) : Prop := True

/-- The instruction issues, and `lat` owner cycles later the words `f` of each active lane are written to D's registers. -/
def Computes (i : Instr) (cost lat : Nat) (d : Dst) (f : Ctx → Nat → List Word) : Prop :=
  Completes i cost Always fun c s =>
    s.issued c i cost (some lat) (c.lanes.flatMap fun l => dstOuts d l (f c l)) false none

/-- `mk`, and `mkLit` with one literal, are the base forms of opcode `op` (R59, R68): both streams may issue them; D is a register or none;
A, and B but for the unary forms, are any source, one of them a literal in the second word. -/
def BaseRow (mk mkLit : BOps → Instr) (op : Nat) (unary : Bool) : Prop :=
  let word (len a b : Nat) (d : Dst) : Word := BitVec.ofNat 32 (len + 2 ^ 2 * op + 2 ^ 9 * d.code + 2 ^ 16 * a + 2 ^ 23 * b)
  streamCls op 0 = .both ∧ ∀ (d : Dst) (a b : Src) (v : Word), litOf [a, b] = none → (unary = true → b = .zero) →
    decode [word 0 a.code b.code d] = .ok (mk ⟨d, a, b⟩, 1) ∧
    decode [word 1 0x78 b.code d, v] = .ok (mkLit ⟨d, .lit (v.setWidth 64), b⟩, 2) ∧
    (unary = false → decode [word 1 a.code 0x78 d, v] = .ok (mkLit ⟨d, a, .lit (v.setWidth 64)⟩, 2))

/-- What an issue leaves that writes no register and goes on at the next instruction. -/
def State.issuedPlain (s : State) (c : Ctx) (i : Instr) : State := s.issued c i 1 none [] false none

/-- What an issue leaves that writes the words `ws` in every active lane of D 4 owner cycles later. -/
def State.issuedFill (s : State) (c : Ctx) (i : Instr) (d : Dst) (ws : List Word) : State :=
  s.issued c i 1 (some 4) (c.fill d ws) false none

/-- What an issue leaves that goes on at an address, after a write of `ws` in every lane of D 4 owner cycles later, if any. -/
def State.issuedTo (s : State) (c : Ctx) (i : Instr) (lat : Option Nat) (ws : List (Nat × Nat × Word)) (a : Int) : State :=
  s.issued c i 1 lat ws false (some (BitVec.ofInt 32 a))

/-- Under `P` the instruction goes on at `target` when that lies inside its owner's instruction store, and takes the address trap with
the target in TADDR when it does not. -/
def Goes (i : Instr) (P : Ctx → Prop) (target : Ctx → Int) (lat : Option Nat) (ws : Ctx → List (Nat × Nat × Word)) : Prop :=
  Completes i 1 (fun c s => P c ∧ storeAddr s c.cur.strand (target c) = true) (fun c s => s.issuedTo c i lat (ws c) (target c)) ∧
  Completes i 1 (fun c s => P c ∧ storeAddr s c.cur.strand (target c) = false) (fun c s =>
    s.trapped c ⟨0x08, 0, BitVec.ofInt 64 (target c), BitVec.ofNat 32 (maskOf c.lanes)⟩)

/-- The instruction takes a trap that names every active lane, and has no other effect. -/
def Traps (i : Instr) (cost : Nat) (P : Ctx → State → Prop) (cause sub : Nat) (addr : Ctx → State → DWord) : Prop :=
  Completes i cost P fun c s => s.trapped c ⟨cause, sub, addr c s, BitVec.ofNat 32 (maskOf c.lanes)⟩

/-- The state in which an instruction that waited at issue is issued again. -/
def State.reissued (s : State) (cur : Cur) : State :=
  { s.modStream cur fun x => { x with wait := none } with cur := some cur }

/-- In every state in which `P` holds, the step that `i` names leads to `t`. -/
def Steps (i : Instr) (P : State → Prop) (t : State → State) : Prop := ∀ s, P s → exec i s = .next (t s)

/-- In every state in which `P` holds, the step that `i` names leads to a state of which `Q` holds. -/
def Reaches (i : Instr) (P : State → Prop) (Q : State → State → Prop) : Prop := ∀ s, P s → ∃ t, exec i s = .next t ∧ Q s t

/-- `row` issues, in the slot on offer, the instruction `i` that waits in the stream `cur`, once `Ready` holds of what it sees: with the
outcome that `i` has when it is issued again. -/
def Resumes (row : Instr) (cur : Cur) (i : Instr) (Ready : Ctx → Prop) : Prop :=
  ∀ s w c, waitOf s cur = some w → w.instr = i → s.offered cur = true → issuing (s.reissued cur) i 1 = some c → Ready c →
    ∃ t, exec row s = .next t ∧ exec i (s.reissued cur) = .next t

/-- Device memory and host memory are in their canonical form. -/
def State.memOk (s : State) : Prop := memWf s.mem ∧ memWf s.hostMem

/-- A run of `n` steps that neither faults nor is refused. -/
def SafeRun (n : Nat) (s : State) : Prop := ∃ t, Host.Core.run Sys2Proof.core n s = .next t

end Sys2Proof.Machine
end

