-- ==== Sys2Proof/Certificates/Slice0/Obligations.lean ====
section
/-!
DEFINITION. The statements for the provers. `Computes`, `Completes` and `Traps` (Sys2Proof/Safety.lean) say what `exec` answers in every
state in which an instruction has its own effect.
-/

open Sys2Proof Sys2Proof.Machine

/-! ### Instructions that compute (spec/12 to spec/15) -/

/-- MOV, ADD, SUB, MUL, MULH, MIN, MAX, ABS and the bitwise operations (R358, R359, R360, R416, R419, R421, R426, R447, R474): every form
issues, and 4 owner cycles later every active lane of D takes the operation's result on the lane's operands; each has its opcode's words. -/
def Obligations.IntegerOperationsComplete : Prop :=
  (∀ (o : BOps) (r : Instr × (Word → Word → Word)), r ∈ ([
    (.mov o, fun a _ => a), (.movLit o, fun a _ => a),
    (.add o, fun a b => a + b), (.addLit o, fun a b => a + b),
    (.sub o, fun a b => a - b), (.subLit o, fun a b => a - b),
    (.mul o, fun a b => a * b), (.mulLit o, fun a b => a * b),
    (.mulhS32 o, fun a b => ((a.signExtend 64 * b.signExtend 64) >>> 32).setWidth 32),
    (.mulhS32Lit o, fun a b => ((a.signExtend 64 * b.signExtend 64) >>> 32).setWidth 32),
    (.mulhN32 o, fun a b => ((a.setWidth 64 * b.setWidth 64) >>> 32).setWidth 32),
    (.mulhN32Lit o, fun a b => ((a.setWidth 64 * b.setWidth 64) >>> 32).setWidth 32),
    (.minS32 o, fun a b => if a.toInt < b.toInt then a else b), (.minS32Lit o, fun a b => if a.toInt < b.toInt then a else b),
    (.minN32 o, fun a b => if a.toNat < b.toNat then a else b), (.minN32Lit o, fun a b => if a.toNat < b.toNat then a else b),
    (.maxS32 o, fun a b => if a.toInt < b.toInt then b else a), (.maxS32Lit o, fun a b => if a.toInt < b.toInt then b else a),
    (.maxN32 o, fun a b => if a.toNat < b.toNat then b else a), (.maxN32Lit o, fun a b => if a.toNat < b.toNat then b else a),
    (.abs o, fun a _ => if a.toInt < 0 then 0 - a else a), (.absLit o, fun a _ => if a.toInt < 0 then 0 - a else a),
    (.and o, fun a b => a &&& b), (.andLit o, fun a b => a &&& b), (.or o, fun a b => a ||| b), (.orLit o, fun a b => a ||| b),
    (.xor o, fun a b => a ^^^ b), (.xorLit o, fun a b => a ^^^ b),
    (.andn o, fun a b => a &&& ~~~b), (.andnLit o, fun a b => a &&& ~~~b)] : List (Instr × (Word → Word → Word))) →
   Computes r.1 1 4 o.d fun c l => [r.2 (c.src o.a l) (c.src o.b l)]) ∧
  ∀ r ∈ ([(.mov, .movLit, 0x01, true), (.add, .addLit, 0x02, false), (.sub, .subLit, 0x03, false), (.mul, .mulLit, 0x04, false),
      (.mulhS32, .mulhS32Lit, 0x05, false), (.mulhN32, .mulhN32Lit, 0x06, false), (.minS32, .minS32Lit, 0x07, false),
      (.minN32, .minN32Lit, 0x08, false), (.maxS32, .maxS32Lit, 0x09, false), (.maxN32, .maxN32Lit, 0x0A, false),
      (.abs, .absLit, 0x0B, true), (.and, .andLit, 0x0C, false), (.or, .orLit, 0x0D, false), (.xor, .xorLit, 0x0E, false),
      (.andn, .andnLit, 0x0F, false)] : List ((BOps → Instr) × (BOps → Instr) × Nat × Bool)), BaseRow r.1 r.2.1 r.2.2.1 r.2.2.2

/-- SHL, SHR, SRA, ROT, POPC, CLZ, BREV and PRMB (R369, R377, R428, R429, R434, R439, R441): every form issues, and 4 owner cycles later every
active lane of D takes a result stated through the arithmetic of its operands, bit by bit or byte by byte; each has its opcode's words. -/
def Obligations.ShiftsAndBitOperationsComplete : Prop :=
  ∀ o : BOps,
    (∀ r ∈ ([
      (.shl o, fun a b => BitVec.ofNat 32 (if 32 ≤ b.toNat then 0 else a.toNat * 2 ^ b.toNat)),
      (.shlLit o, fun a b => BitVec.ofNat 32 (if 32 ≤ b.toNat then 0 else a.toNat * 2 ^ b.toNat)),
      (.shr o, fun a b => BitVec.ofNat 32 (if 32 ≤ b.toNat then 0 else a.toNat / 2 ^ b.toNat)),
      (.shrLit o, fun a b => BitVec.ofNat 32 (if 32 ≤ b.toNat then 0 else a.toNat / 2 ^ b.toNat)),
      (.sra o, fun a b => BitVec.ofInt 32 (a.toInt / 2 ^ min b.toNat 31)),
      (.sraLit o, fun a b => BitVec.ofInt 32 (a.toInt / 2 ^ min b.toNat 31)),
      (.rot o, fun a b => a.rotateLeft (b.toNat % 32)), (.rotLit o, fun a b => a.rotateLeft (b.toNat % 32)),
      (.popc o, fun a _ => BitVec.ofNat 32 ((List.range 32).filter fun k => a.getLsbD k).length),
      (.popcLit o, fun a _ => BitVec.ofNat 32 ((List.range 32).filter fun k => a.getLsbD k).length),
      (.clz o, fun a _ => leadingZeros a), (.clzLit o, fun a _ => leadingZeros a),
      (.brev o, fun a _ => bitReverse a), (.brevLit o, fun a _ => bitReverse a),
      (.prmb o, permuteBytes), (.prmbLit o, permuteBytes)] : List (Instr × (Word → Word → Word))),
     Computes r.1 1 4 o.d fun c l => [r.2 (c.src o.a l) (c.src o.b l)]) ∧
    (∀ (a : Word) (k : Nat), k < 32 → (bitReverse a).getLsbD k = a.getLsbD (31 - k)) ∧
    (∀ a : Word, a ≠ 0 → (leadingZeros a).toNat < 32 ∧ 2 ^ (31 - (leadingZeros a).toNat) ≤ a.toNat ∧
      a.toNat < 2 ^ (32 - (leadingZeros a).toNat)) ∧ leadingZeros 0 = 32 ∧
    (∀ (a b : Word) (k : Nat), k < 4 → (permuteBytes a b).toNat / 2 ^ (8 * k) % 256 =
      let n := b.toNat / 2 ^ (4 * k) % 16
      if n < 4 then a.toNat / 2 ^ (8 * n) % 256 else if n < 8 then (if a.getLsbD (8 * (n - 4) + 7) then 0xFF else 0) else 0) ∧
    ∀ r ∈ ([(.shl, .shlLit, 0x10, false), (.shr, .shrLit, 0x11, false), (.sra, .sraLit, 0x12, false), (.rot, .rotLit, 0x13, false),
      (.popc, .popcLit, 0x14, true), (.clz, .clzLit, 0x15, true), (.brev, .brevLit, 0x16, true), (.prmb, .prmbLit, 0x17, false)]
        : List ((BOps → Instr) × (BOps → Instr) × Nat × Bool)), BaseRow r.1 r.2.1 r.2.2.1 r.2.2.2

/-- FADD, FSUB, FMUL, FMIN, FMAX, FFMA, FRND, FCLS, CVT and PFMA (R384, R390, R391, R395, R397, R398, R400, R427) issue, and their results
are written 6 owner cycles later: sums, differences and products rounded to nearest, ties to even, of the operands' values. -/
def Obligations.FloatOperationsComplete : Prop :=
  (∀ (o : BOps) (r : Instr × (Word → Word → Word)), r ∈ ([
    (.fadd o, fun a b => toF32 .rne (FVal.add .rne (f32 a) (f32 b))), (.faddLit o, fun a b => toF32 .rne (FVal.add .rne (f32 a) (f32 b))),
    (.fsub o, fun a b => toF32 .rne (FVal.add .rne (f32 a) (f32 b).neg)),
    (.fsubLit o, fun a b => toF32 .rne (FVal.add .rne (f32 a) (f32 b).neg)),
    (.fmul o, fun a b => toF32 .rne ((f32 a).mul (f32 b))), (.fmulLit o, fun a b => toF32 .rne ((f32 a).mul (f32 b))),
    (.fmin o, f32MinMax false), (.fminLit o, f32MinMax false), (.fmax o, f32MinMax true), (.fmaxLit o, f32MinMax true)]
      : List (Instr × (Word → Word → Word))) →
    Computes r.1 1 6 o.d fun c l => [r.2 (c.src o.a l) (c.src o.b l)]) ∧
  ∀ (x : XOps) (rm : RM) (ty sty : Ty) (sat : Bool),
    Computes (.ffma x rm) 1 6 x.d (fun c l =>
      [toF32 rm (FVal.add rm ((f32 (c.src x.a l)).mul (f32 (c.src x.b l))) (f32 (c.src x.c l)))]) ∧
    Computes (.frnd x rm) 1 6 x.d (fun c l => [f32Round rm (c.src x.a l)]) ∧
    Computes (.fcls x ty) 1 6 x.d (fun c l => [BitVec.ofNat 32 (fclass (fmtOf ty.code) (c.src x.a l).toNat)]) ∧
    Computes (.pfma x ty rm) 1 6 x.d (fun c l =>
      [BitVec.ofNat 32 (pfmaElem ty rm (c.src x.a l).toNat (c.src x.b l).toNat (c.src x.c l).toNat +
        2 ^ 16 * pfmaElem ty rm ((c.src x.a l).toNat >>> 16) ((c.src x.b l).toNat >>> 16) ((c.src x.c l).toNat >>> 16))]) ∧
    Computes (.cvt x ty sty sat rm) 1 6 x.d (fun c l =>
      wordsOf (if ty64 ty.code then 2 else 1) (cvt ty.code sty.code sat rm (if rm = .sr then c.src x.b l else 0)
        (if ty64 sty.code then (c.pair x.a l).toNat else (c.src x.a l).toNat)))

/-- Every NaN operand behaves alike: FADD, FSUB and FMUL of a NaN give 0x7FC00000; FMIN and FMAX give the other operand's bits, and
0x7FC00000 when both are NaN (R138, R397). -/
def Obligations.NaNOperandsGiveTheCanonicalNaN : Prop :=
  ∀ a b : Word,
    ((f32 a).isNan = true ∨ (f32 b).isNan = true →
      f32Add .rne a b = 0x7FC00000 ∧ f32Sub .rne a b = 0x7FC00000 ∧ f32Mul .rne a b = 0x7FC00000) ∧
    ∀ isMax, ((f32 a).isNan = true → (f32 b).isNan = true → f32MinMax isMax a b = 0x7FC00000) ∧
      ((f32 a).isNan = true → (f32 b).isNan = false → f32MinMax isMax a b = b) ∧
      ((f32 a).isNan = false → (f32 b).isNan = true → f32MinMax isMax a b = a)

/-- ADDW, MULW and DIV write pairs, low half in the even register (R359, R387, R421); the indexed moves read or write the register
whose number a lane's A gives, or trap at the first active lane whose number is not a register of the strand (R406). -/
def Obligations.PairAndIndexedOperationsComplete : Prop :=
  (∀ (o : BOps) (r : Instr × (Ctx → Nat → DWord)), r ∈ ([
    (.addw o, fun c l => c.pair o.a l + c.pair o.b l), (.addwLit o, fun c l => c.pair o.a l + c.pair o.b l),
    (.mulwN32 o, fun c l => (c.src o.a l).setWidth 64 * (c.src o.b l).setWidth 64),
    (.mulwN32Lit o, fun c l => (c.src o.a l).setWidth 64 * (c.src o.b l).setWidth 64),
    (.mulwS32 o, fun c l => (c.src o.a l).signExtend 64 * (c.src o.b l).signExtend 64),
    (.mulwS32Lit o, fun c l => (c.src o.a l).signExtend 64 * (c.src o.b l).signExtend 64)] : List (Instr × (Ctx → Nat → DWord))) →
    Computes r.1 1 6 o.d fun c l => [(r.2 c l).setWidth 32, (r.2 c l >>> 32).setWidth 32]) ∧
  (∀ (o : BOps) (i : Instr), i = .ixrd o ∨ i = .ixrdLit o →
    Completes i 1 (fun c _ => ∀ l ∈ c.lanes, (c.src o.a l).toNat < c.t.n) (fun c s =>
      s.issued c i 1 (some 4) (c.lanes.flatMap fun l => dstOuts o.d l [c.reg (c.src o.a l).toNat l]) false none)) ∧
  (∀ (o : BOps) (i : Instr), i = .ixwr o ∨ i = .ixwrLit o →
    Completes i 1 (fun c _ => ∀ l ∈ c.lanes, (c.src o.a l).toNat < c.t.n) (fun c s =>
      s.issued c i 1 (some 4) (c.lanes.map fun l => ((c.src o.a l).toNat, l, c.src o.b l)) false none)) ∧
  (∀ (o : BOps) (i : Instr) (l : Nat), i = .ixrd o ∨ i = .ixrdLit o ∨ i = .ixwr o ∨ i = .ixwrLit o →
    Traps i 1 (fun c _ => c.lanes.find? (fun k => decide (c.t.n ≤ (c.src o.a k).toNat)) = some l) 0x02 0
      (fun c _ => (c.src o.a l).setWidth 64)) ∧
  ∀ (x : XOps) (ty : Ty), Completes (.div x ty) 1 Always (fun c s =>
    let hold (p : Pipe) : Pipe := { p with div := c.now + 8 }
    (s.modLcore c.cur.strand.owner c.cur.strand.lcore fun l =>
      if c.isCtl then { l with ctl := hold l.ctl } else { l with port0 := hold l.port0 }).issued c (.div x ty) 1 (some 36)
      (c.lanes.flatMap fun l => dstOuts x.d l
        [(divide ty (c.src x.a l) (c.src x.b l)).1, (divide ty (c.src x.a l) (c.src x.b l)).2]) false none)

/-- DIV writes the quotient rounded toward zero and the remainder; division by zero gives all ones and the dividend, and the one signed
overflow gives 0x80000000 and 0 (R387): nothing traps. -/
def Obligations.DivisionQuotientAndRemainder : Prop :=
  ∀ x y : Word,
    (∀ ty, divide ty x 0 = (0xFFFFFFFF, x)) ∧ divide .s32 0x80000000 0xFFFFFFFF = (0x80000000, 0) ∧
    (y ≠ 0 → (divide .n32 x y).1.toNat = x.toNat / y.toNat ∧ (divide .n32 x y).2.toNat = x.toNat % y.toNat) ∧
    (y ≠ 0 → ¬ (x = 0x80000000 ∧ y = 0xFFFFFFFF) →
      (divide .s32 x y).1.toInt = x.toInt.tdiv y.toInt ∧ (divide .s32 x y).2.toInt = x.toInt.tmod y.toInt)

/-- CMP writes a lane mask, SEL selects, MAD multiplies and adds, BFX and BFI move a field (R365, R378, R415, R437). -/
def Obligations.CompareSelectAndFieldOperationsComplete : Prop :=
  ∀ (x : XOps) (ty : Ty),
    (∀ rel, Computes (.cmp x ty rel) 1 4 x.d fun c l =>
      [if cmpHolds ty rel (if ty64 ty.code then c.pair x.a l else (c.src x.a l).setWidth 64)
          (if ty64 ty.code then c.pair x.b l else (c.src x.b l).setWidth 64) then 0xFFFFFFFF else 0]) ∧
    Computes (.sel x) 1 4 x.d (fun c l => [if c.src x.c l ≠ 0 then c.src x.a l else c.src x.b l]) ∧
    Computes (.mad x ty) 1 6 x.d (fun c l => [c.src x.a l * c.src x.b l + c.src x.c l]) ∧
    Computes (.bfx x ty) 1 4 x.d (fun c l => [bitExtract ty (c.src x.a l) (c.src x.b l)]) ∧
    Computes (.bfi x) 1 4 x.d (fun c l => [bitInsert (c.src x.a l) (c.src x.b l) (c.src x.c l)]) ∧
    ∀ a b : DWord, (cmpHolds .s32 .lt a b = true ↔ a.lo.toInt < b.lo.toInt) ∧ (cmpHolds .n32 .lt a b = true ↔ a.lo.toNat < b.lo.toNat) ∧
      (cmpHolds .s64 .lt a b = true ↔ a.toInt < b.toInt) ∧ (cmpHolds .n64 .lt a b = true ↔ a.toNat < b.toNat) ∧
      (cmpHolds .f32 .un a b = true ↔ (f32 a.lo).isNan = true ∨ (f32 b.lo).isNan = true)

/-- The ten special functions issue with cost 2, and their results are written 8 or 22 owner cycles later by grade (R159). The narrow
datapath: elementwise sums, differences, products, minima and maxima at precision P, packed back; NDOT and NPACK; cost
1 up to 8 bits and 2 above; latency P + 4 (R157, R158, R423, R425). -/
def Obligations.SpecialAndNarrowOperationsComplete : Prop :=
  ∀ (x : XOps) (m : NarMod) (gr : Grade),
    (∀ r ∈ ([(.ex2 x gr, .ex2), (.lg2 x gr, .lg2), (.rcp x gr, .rcp), (.rsq x gr, .rsq), (.sqt x gr, .sqt), (.sin x gr, .sin),
      (.cos x gr, .cos), (.tanh x gr, .tanh), (.sigm x gr, .sigm), (.erf x gr, .erf)] : List (Instr × SfnFn)),
      Computes r.1 2 (if gr = .fast then 8 else 22) x.d fun c l => [sfnValue r.2 gr (c.src x.a l)]) ∧
    (∀ r ∈ ([(.nadd x m, fun a b => a + b), (.nsub x m, fun a b => a - b), (.nmul x m, fun a b => a * b),
      (.nmin x m, fun a b => if a < b then a else b), (.nmax x m, fun a b => if a < b then b else a)]
        : List (Instr × (Int → Int → Int))),
      Computes r.1 (if m.p ≤ 8 then 1 else 2) (m.p + 4) x.d fun c l =>
        [narrowPack m.p fun j => narrowPut m m.p (r.2 (narrowElem m (c.src x.a l) j) (narrowElem m (c.src x.b l) j))]) ∧
    Computes (.ndot x m) (if m.p ≤ 8 then 1 else 2) (m.p + 4) x.d
      (fun c l => [narrowDot m (c.src x.a l) (c.src x.b l) (c.src x.c l)]) ∧
    ∀ q, Computes (.npack x m q) (if m.p ≤ 8 then 1 else 2) (m.p + 4) x.d
      fun c l => [narrowRepack m q (c.src x.a l) (c.src x.b l)]

/-- The cross-lane class and RND: SHFL takes A of an active source lane, else the lane's own A; VOTE and LRED give every active lane one
value; SCAN gives each the prefix at its lane (R413, R414, R433, R436, R438, R463). -/
def Obligations.CrossLaneOperationsComplete : Prop :=
  ∀ (x : XOps) (ty : Ty),
    (∀ m, Computes (.shfl x m) 1 6 x.d fun c l =>
      [match shflLane m l (c.src x.b l).toNat with
       | some k => if k ∈ c.lanes then c.src x.a k else c.src x.a l
       | none => c.src x.a l]) ∧
    (∀ m, Computes (.vote x m) 1 4 x.d fun c _ => [voteValue m (c.lanes.map fun l => (l, c.src x.a l))]) ∧
    (∀ m, Computes (.lred x ty m) 1 10 x.d fun c _ => [reduceWords ty m (c.lanes.map fun l => c.src x.a l)]) ∧
    (∀ m excl, Completes (.scan x ty m excl) 1 Always fun c s =>
      s.issued c (.scan x ty m excl) 1 (some 12)
        ((c.lanes.zip (scanWords ty m excl (redIdentity ty m) (c.lanes.map fun l => c.src x.a l))).flatMap
          fun p => dstOuts x.d p.1 [p.2]) false none) ∧
    Computes (.rnd x) 1 10 x.d (fun c l => [rndWord (c.pair x.a l).lo (c.pair x.a l).hi (c.src x.b l)])

/-! ### Control flow, blocks, the flume and the return queue (spec/01, spec/12 to spec/15) -/

/-- NOP, LCSYNC and FENCE only issue; YIELD also has the control pipe pass over its strand; TRAP takes the trap 0x12 with its code in
TADDR (R424, R294, R249, R475, R457). -/
def Obligations.PlainStreamInstructionsComplete : Prop :=
  ∀ (x : XOps) (m : MemMod) (code : BitVec 14),
    Completes .nop 1 Always (fun c s => s.issuedPlain c .nop) ∧
    Completes (.lcsync x) 1 Always (fun c s => s.issuedPlain c (.lcsync x)) ∧
    Completes (.fence x m) 1 Always (fun c s => s.issuedPlain c (.fence x m)) ∧
    Completes .yield 1 Always (fun c s => (s.modLcore c.cur.strand.owner c.cur.strand.lcore fun l =>
      { l with yielded := some (c.cur.strand, l.ocyc) }).issuedPlain c .yield) ∧
    Traps (.trap code) 1 Always 0x12 0 fun _ _ => code.setWidth 64

/-- BRA, a taken BRC, CALL and JMP go on at their target, or trap with 0x08 when it lies outside the instruction store; an untaken BRC
goes on in sequence; CALL writes the address of the next instruction in all its lanes; a JMP to an address that is not a multiple of 4
traps with 0x06. BRC tests lane 0 of A: zero, bit 31, bit 0 and their opposites (R69, R89, R368, R372, R408). -/
def Obligations.BranchesGoToTheirTargets : Prop :=
  ∀ (off : BitVec 21) (o : Word) (k : Cond) (a : Src) (d : Dst),
    Goes (.bra off) (fun _ => True) (fun c => c.str.pc.toNat + 4 * off.toInt) none (fun _ => []) ∧
    Goes (.brc k a o) (fun c => condHolds k (c.src a 0) = true) (fun c => c.str.pc.toNat + 4 * o.toInt) none (fun _ => []) ∧
    Completes (.brc k a o) 1 (fun c _ => condHolds k (c.src a 0) = false) (fun c s => s.issuedPlain c (.brc k a o)) ∧
    Goes (.call d o) (fun _ => True) (fun c => c.str.pc.toNat + 4 * o.toInt) (some 4) (fun c => c.fill d [c.str.pc + 8]) ∧
    (∀ w : Word, (condHolds .z w = true ↔ w.toNat = 0) ∧ (condHolds .neg w = true ↔ w.toInt < 0) ∧
      (condHolds .odd w = true ↔ w.toNat % 2 = 1) ∧
      ∀ k k', (k, k') = (Cond.z, Cond.nz) ∨ (k, k') = (.neg, .nneg) ∨ (k, k') = (.odd, .even) → condHolds k' w = !condHolds k w) ∧
    ∀ i, i = .jmp a ∨ i = .jmpLit a →
      Goes i (fun c => (c.lane0 a).toNat % 4 = 0) (fun c => (c.lane0 a).toNat) none (fun _ => []) ∧
      Traps i 1 (fun c _ => (c.lane0 a).toNat % 4 ≠ 0) 0x06 0 fun c _ => (c.lane0 a).setWidth 64

/-- The flume instructions (R18 to R20): with a mask of slices of the strand and room in the flume, the token, with lane 0 of A, is
appended with the control stream's clock and owner cycle; an empty mask or a slice beyond the gang traps with 0x05; with 16 tokens in the
flume the instruction waits at issue. EXIT sends END to every slice and ends the control stream (R36). -/
def Obligations.FlumeInstructionsComplete : Prop :=
  (∀ (x : XOps) (mask : BitVec 8) (rel : Bool) (r : Instr × TokKind × Src × Bool), r ∈ ([
    (.frun x mask rel, .run, x.a, rel), (.ftrip x mask, .trip, x.a, false), (.fmask x mask, .mask, x.a, false),
    (.fval x mask rel, .val, x.a, rel), (.regang x mask, .regang, .zero, false)] : List (Instr × TokKind × Src × Bool)) →
    Completes r.1 1 (fun c _ => mask ≠ 0 ∧ (∀ k, mask.getLsbD k = true → k < c.t.slices) ∧ c.t.flume.length < 16) (fun c s =>
      ((s.modStrand c.cur.strand fun t => { t with flume := t.flume ++ [⟨s.nextId, r.2.1, c.lane0 r.2.2.1, bitsOf 8 mask.toNat,
        bitsOf 8 mask.toNat, c.now, c.t.lclk, if r.2.2.2 then s.horizon c.cur.strand [8] s.nextId else .none⟩] }).fresh).issuedPlain c r.1) ∧
    Traps r.1 1 (fun c _ => mask = 0 ∨ ∃ k, mask.getLsbD k = true ∧ c.t.slices ≤ k) 0x05 0 (fun _ _ => 0) ∧
    Completes r.1 1 (fun c _ => mask ≠ 0 ∧ (∀ k, mask.getLsbD k = true → k < c.t.slices) ∧ 16 ≤ c.t.flume.length)
      (fun c s => s.stalls c r.1)) ∧
  Completes .exit 1 (fun c _ => c.t.flume.length < 16) (fun c s =>
    (((s.modStrand c.cur.strand fun t => { t with flume := t.flume ++ [⟨s.nextId, .fin, 0, List.range c.t.slices,
      List.range c.t.slices, c.now, c.t.lclk, .none⟩] }).fresh).modStrand c.cur.strand fun t => { t with cst := .exited }).issuedPlain c .exit)

/-- VEND outside a loop leaves its set idle, and inside one traps with 0x04; VLEND goes back to the loop's body with one pass fewer, or
ends the loop after its last pass, and without a loop traps (R26 to R28, R461, R462). -/
def Obligations.BlockEndsComplete : Prop :=
  ∀ g : GSet,
    Completes .vend 1 (fun c _ => c.set? = some g ∧ g.loops = []) (fun c s =>
      (s.modSetOf c.cur fun g => { g with st := .idle, lastVend := c.str.pc, str := { g.str with res := [] } }).issuedPlain c .vend) ∧
    Traps .vend 1 (fun c _ => c.set? = some g ∧ g.loops ≠ []) 0x04 0 (fun _ _ => 0) ∧
    Traps .vlend 1 (fun c _ => c.set? = some g ∧ g.loops = []) 0x04 0 (fun _ _ => 0) ∧
    ∀ l ls, g.loops = l :: ls →
      Completes .vlend 1 (fun c _ => c.set? = some g ∧ l.count = 1) (fun c s =>
        (s.modSetOf c.cur fun g => { g with loops := ls }).issuedPlain c .vlend) ∧
      Completes .vlend 1 (fun c _ => c.set? = some g ∧ l.count ≠ 1) (fun c s =>
        let s' := s.modSetOf c.cur fun g => { g with loops := { l with count := l.count - 1 } :: ls }
        { (s'.retire c .vlend s'.nextId none [] false (some l.body) c.now).fresh with cur := none })

/-- VLOOP opens a loop whose body starts after it, or goes on after the matching VLEND for a count of zero; the count is A of the gang's
lowest lane, or with FT the payload of a TRIP token that every slice of the gang has next (R27, R461). VPOP writes a VAL token's payload
in every lane of its gang (R465). A fourth loop, a loop with no matching VLEND within 256 instructions, a token of another kind, and slices
that have different tokens next, or one of them none, trap (R24). -/
def Obligations.LoopsAndInBlockTokensComplete : Prop :=
  ∀ (x : XOps) (ft : Bool) (g : GSet) (d : Dst) (last : Nat) (k : Token),
    let i : Instr := .vloop x ft
    let opens (c : Ctx) (n : Word) : GSet → GSet := fun g => { g with
      loops := ⟨n, c.str.pc + BitVec.ofNat 32 (4 * i.words), BitVec.ofNat 32 last⟩ :: g.loops }
    let found (c : Ctx) (s : State) : Prop := c.set? = some g ∧ g.loops.length < 3 ∧
      findVlend s c.cur.strand.owner 256 0 (c.str.pc.toNat + 4 * i.words) = some last
    Completes i 1 (fun c s => found c s ∧ ft = false ∧ c.src x.a (c.all.headD 0) ≠ 0) (fun c s =>
      (s.modSetOf c.cur (opens c (c.src x.a (c.all.headD 0)))).issuedPlain c i) ∧
    Completes i 1 (fun c s => found c s ∧ ft = false ∧ c.src x.a (c.all.headD 0) = 0) (fun c s =>
      s.issuedTo c i none [] (last + 4 : Nat)) ∧
    Completes i 1 (fun c s => found c s ∧ ft = true ∧ findToken c.t g c.now = .token k ∧ k.kind = .trip ∧ k.payload ≠ 0) (fun c s =>
      ((s.takeToken c k g.slices).modSetOf c.cur (opens c k.payload)).issuedPlain c i) ∧
    Completes i 1 (fun c s => found c s ∧ ft = true ∧ findToken c.t g c.now = .token k ∧ k.kind = .trip ∧ k.payload = 0) (fun c s =>
      (s.takeToken c k g.slices).issuedTo c i none [] (last + 4 : Nat)) ∧
    Completes i 1 (fun c s => found c s ∧ ft = true ∧ findToken c.t g c.now = .nothing) (fun c s => s.stalls c i) ∧
    Traps i 1 (fun c s => found c s ∧ ft = true ∧ (findToken c.t g c.now = .misuse ∨ (findToken c.t g c.now = .token k ∧ k.kind ≠ .trip)))
      0x05 0 (fun _ _ => 0) ∧
    Traps i 1 (fun c _ => c.set? = some g ∧ 3 ≤ g.loops.length) 0x04 0 (fun _ _ => 0) ∧
    Traps i 1 (fun c s => c.set? = some g ∧ g.loops.length < 3 ∧
      findVlend s c.cur.strand.owner 256 0 (c.str.pc.toNat + 4 * i.words) = none) 0x04 0 (fun _ _ => 0) ∧
    (∀ (t : Strand) (now : Nat), g.slices ≠ [] →
      let next (i : Nat) : Option Token := t.flume.find? fun e => e.left.contains i && decide (e.sent + 2 ≤ now)
      (findToken t g now = .misuse ↔ ∃ i ∈ g.slices, ∃ j ∈ g.slices, (next i).map (·.id) ≠ (next j).map (·.id))) ∧
    Completes (.vpop d) 1 (fun c _ => c.set? = some g ∧ findToken c.t g c.now = .token k ∧ k.kind = .val) (fun c s =>
      (s.takeToken c k g.slices).issued c (.vpop d) 1 (some 4)
        ((replayLanes c.str.replay c.all).flatMap fun l => dstOuts d l [k.payload]) false none) ∧
    Completes (.vpop d) 1 (fun c _ => c.set? = some g ∧ findToken c.t g c.now = .nothing) (fun c s => s.stalls c (.vpop d)) ∧
    Traps (.vpop d) 1 (fun c _ => c.set? = some g ∧ (findToken c.t g c.now = .misuse ∨ (findToken c.t g c.now = .token k ∧ k.kind ≠ .val)))
      0x05 0 (fun _ _ => 0)

/-- VSEND pushes its value, to enter 4 owner cycles later, while fewer than 8 places are taken, and else waits at issue; its entry holds its
place from then on and enters in the first owner cycle from that one. FRECV pops the oldest entry once it has entered and writes it 4 owner
cycles later, and else waits at issue (R31 to R33). -/
def Obligations.ReturnQueueInstructionsComplete : Prop :=
  (∀ (m : SendMode) (a : Src) (i : Instr), i = .vsend m a ∨ i = .vsendLit m a →
    Completes i 1 (fun c _ => c.t.rq.length < 8) (fun c s =>
      (s.modStrand c.cur.strand fun t => { t with rq := t.rq ++ [⟨sendValue m (c.lanes.map fun l => (l, c.src a l)), c.now + 4,
        false, s.horizon c.cur.strand (s.agentsOf c.cur) s.nextId⟩] }).issuedPlain c i) ∧
    Completes i 1 (fun c _ => 8 ≤ c.t.rq.length) (fun c s => s.stalls c i)) ∧
  (∀ (i : StrandId) (t : Strand) (n : Nat), Steps (.returnQueueEntryArrive i) (fun s => s.strand? i = some t ∧
      (t.rq.findIdx? fun e => !e.here && decide (e.enters ≤ s.lcNow i.owner i.lcore)) = some n)
    (fun s => s.modStrand i fun u => { u with rq := u.rq.modify n fun e => { e with here := true } })) ∧
  ∀ (d : Dst) (e : RqEntry) (rest : List RqEntry),
    Completes (.frecv d) 1 (fun c _ => c.t.rq = e :: rest ∧ e.here = true) (fun c s =>
      (s.modStrand c.cur.strand fun t => { t with
        rq := rest, ctl := t.ctl.takeHz [8] e.hz }).issuedFill
          c (.frecv d) d [e.val]) ∧
    Completes (.frecv d) 1 (fun c _ => c.t.rq = [] ∨ (c.t.rq = e :: rest ∧ e.here = false)) (fun c s => s.stalls c (.frecv d))

/-! ### Registers of a strand (spec/01, spec/02, spec/10) -/

/-- RFREE lowers the count at a quiet point, and waits at its place when there is none; fewer than 8 traps. RALLOC of what is held writes
the count at once; of more, when the pool can serve it and no older waiter is left, raises it, and D takes the old count; a count outside
8 to 120 traps (R51, R52, R430). -/
def Obligations.RegisterCountInstructionsComplete : Prop :=
  (∀ (a : Src) (i : Instr), i = .rfree a ∨ i = .rfreeLit a →
    Completes i 1 (fun c s => 8 ≤ c.n0 a ∧ s.quietAt c.t none = true) (fun c s =>
      ((s.modStrand c.cur.strand fun t => if t.n ≤ c.n0 a then t else { t with
        n := c.n0 a, cregs := t.cregs.filter fun x => decide (x.1 < c.n0 a * 4)
        vregs := t.vregs.filter fun x => decide (x.1 < c.n0 a * 32) }).roomFreed c.cur.strand.owner
          ((s.ownerNow c.cur.strand.owner).getD 0)).issuedPlain c i) ∧
    Completes i 1 (fun c s => 8 ≤ c.n0 a ∧ s.quietAt c.t none = false) (fun c s => s.waits c i [BitVec.ofNat 64 (c.n0 a)]) ∧
    Traps i 1 (fun c _ => c.n0 a < 8) 0x02 0 fun c _ => BitVec.ofNat 64 (c.n0 a)) ∧
  ∀ x : XOps,
    let legal (c : Ctx) : Prop := 8 ≤ c.n0 x.a ∧ c.n0 x.a ≤ 120
    let quiet (c : Ctx) (s : State) : Prop := s.quietAt c.t (some s.nextId) = true
    let short (c : Ctx) (s : State) : Prop := s.olderWaiter c.t s.nextId = true ∨
      s.vectorFree c.t.id.owner c.t.id.lcore < c.t.slices * ((c.n0 x.a + 7) / 8 - (c.t.n + 7) / 8)
    Completes (.ralloc x) 1 (fun c s => legal c ∧ quiet c s ∧ c.n0 x.a ≤ c.t.n)
      (fun c s => s.issuedFill c (.ralloc x) x.d [BitVec.ofNat 32 c.t.n]) ∧
    Completes (.ralloc x) 1 (fun c s => legal c ∧ quiet c s ∧ c.t.n < c.n0 x.a ∧ ¬ short c s) (fun c s =>
      (s.modStrand c.t.id fun t => { t with n := c.n0 x.a }).issuedFill c (.ralloc x) x.d [BitVec.ofNat 32 c.t.n]) ∧
    Completes (.ralloc x) 1 (fun c s => legal c ∧ (¬ quiet c s ∨ c.t.n < c.n0 x.a ∧ short c s))
      (fun c s => s.waits c (.ralloc x) [BitVec.ofNat 64 (c.n0 x.a)]) ∧
    Traps (.ralloc x) 1 (fun c _ => ¬ legal c) 0x02 0 fun c _ => BitVec.ofNat 64 (c.n0 x.a)

/-- ERET in place brings back the level and goes on at TPC, one that is no multiple of 4 too, which is the
model's choice (log 63); with DEPTH 0 it goes on in sequence. The dispose form acts on the owner's
stream that A and B name and writes its status: 1 when none waits, 2 for an action above 2, else 0 (R302, R303). -/
def Obligations.TrapReturnsComplete : Prop :=
  ∀ x : XOps,
    Completes (.eret x) 1 (fun c _ => c.t.depth ≠ 0) (fun c s =>
      (s.modStrand c.cur.strand (·.eretInPlace c.now)).issued c (.eret x) 1 none [] false (some c.t.tpc)) ∧
    Completes (.eret x) 1 (fun c _ => c.t.depth = 0) (fun c s =>
      (s.modStream c.cur fun q => { q with replay := none }).issued c (.eret x) 1 none [] false (some (c.str.pc + 12))) ∧
    (∀ (t : Strand) (now : Nat), t.depth ≠ 0 → (t.eretInPlace now).priv = t.tpriv ∧ (t.eretInPlace now).depth = 0 ∧
      (t.eretInPlace now).ctl.pc = t.tpc ∧
      (t.eretInPlace now).ctl.replay = (if t.tpc = t.entryPc then some (t.tmask &&& 0xF) else none)) ∧
    Completes (.eretDispose x) 1 (fun c s => awaiting s c.cur.strand.owner (c.lane0 x.a) (c.lane0 x.b) = none)
      (fun c s => s.issuedFill c (.eretDispose x) x.d [1]) ∧
    ∀ (q : Cur) (tr : Trap),
      let at_ (c : Ctx) (s : State) : Prop := awaiting s c.cur.strand.owner (c.lane0 x.a) (c.lane0 x.b) = some (q, tr)
      Completes (.eretDispose x) 1 (fun c s => at_ c s ∧ c.lane0 x.c = 0)
        (fun c s => (noteDispose (disposeRetry s q tr) q.strand c.cur.strand).issuedFill c (.eretDispose x) x.d [0]) ∧
      Completes (.eretDispose x) 1 (fun c s => at_ c s ∧ c.lane0 x.c = 1)
        (fun c s => (noteDispose (disposeNext s q) q.strand c.cur.strand).issuedFill c (.eretDispose x) x.d [0]) ∧
      Completes (.eretDispose x) 1 (fun c s => at_ c s ∧ c.lane0 x.c = 2)
        (fun c s => (disposeKill s q).issuedFill c (.eretDispose x) x.d [0]) ∧
      Completes (.eretDispose x) 1 (fun c s => at_ c s ∧ 2 < (c.lane0 x.c).toNat)
        (fun c s => s.issuedFill c (.eretDispose x) x.d [2])

/-! ### Memory, tiles, copies, batches, barriers (spec/05 to spec/07, spec/12 to spec/15) -/

/-- LD, ST, ATOM, FESET, FEGET, WAITA and WAKE (R211 to R213, R228, R476): with a live window and aligned lanes an access enters with its
lanes' addresses and data, no byte of memory changed yet; no lane acts before the class's cycle, and every lane in it when all lie in the
window and no access of the strand is in flight; of a FESET lane the first word is what must lie there, though its run may go beyond the
window's end: R212 does not speak of a run, and this is the model's choice (log 70). A stale handle traps with 0x07, the first misaligned lane with
0x06, the first lane beyond 56 bits with 0x08; without an active lane there is no access. -/
def Obligations.MemoryInstructionsEnterTheirAccess : Prop :=
  ∀ (x : XOps) (m : MemMod) (fn : AtomFn) (r : Instr × Nat × (Ctx → Nat → List Word) × Nat × (Ctx → Nat)), r ∈ ([
    (.ld x m, 2 ^ m.size.code, fun _ _ => [], 400, fun _ => 0),
    (.st x m, 2 ^ m.size.code, fun c l => c.regs x.c (max 1 (2 ^ m.size.code / 4)) l, 400, fun _ => 0),
    (.atom x fn m, 2 ^ m.size.code, fun c l => c.regs x.c ((if fn = .cas then 2 else 1) * (2 ^ m.size.code / 4)) l, 480, fun _ => 0),
    (.feset x m, 4, fun c l => [c.src x.c l], 400, fun c => ((c.lanes.map fun l => (c.src x.c l).toNat).sum + 23) / 24),
    (.feget x m, 4, fun _ _ => [], 400, fun _ => 0),
    (.waita x m, 4, fun c l => [c.src x.c l], 400, fun _ => 0),
    (.wake x m, 4, fun c l => [c.src x.c l], 400, fun _ => 0)]
      : List (Instr × Nat × (Ctx → Nat → List Word) × Nat × (Ctx → Nat))) →
  ∀ w : WinSlot,
    let va (c : Ctx) (l : Nat) : Nat := w.base + (c.src x.b l).toNat
    let at_ (c : Ctx) (s : State) : Prop := c.lanes ≠ [] ∧ windowOf s c.t.grp c.now (c.low x.a) = some w
    Answers r.1 1 (fun c s => at_ c s ∧ ∀ l ∈ c.lanes, va c l % r.2.1 = 0 ∧ va c l + r.2.1 ≤ 2 ^ 56) (fun c s t =>
      t.mem = s.mem ∧ t.empties = s.empties ∧ ∃ a, t.accs = s.accs ++ [a] ∧ a.id = s.nextId ∧ a.strand = c.cur.strand ∧
        a.set = c.cur.set ∧ a.pc = c.str.pc ∧ a.instr = r.1 ∧ a.win = some w ∧ a.hold = accHolds r.1 ∧
        (a.lanes.map fun l => (l.lane, l.va, l.data, l.st)) = c.lanes.map (fun l => (l, va c l, r.2.2.1 c l, LaneSt.todo)) ∧
        (∀ l ∈ a.lanes, c.now + r.2.2.2.1 ≤ l.due) ∧
        ((∀ l ∈ c.lanes, va c l + r.2.1 ≤ w.base + w.limit) → (∀ b ∈ s.accs, b.strand ≠ c.cur.strand) →
          s.untimed c.cur.strand.owner = false → ∀ l ∈ a.lanes, l.due = c.now + r.2.2.2.1 + r.2.2.2.2 c)) ∧
    Completes r.1 1 (fun c _ => c.lanes = []) (fun c s => s.issued c r.1 1 (some r.2.2.2.1) [] false none) ∧
    Traps r.1 1 (fun c s => c.lanes ≠ [] ∧ windowOf s c.t.grp c.now (c.low x.a) = none) 0x07 0
      (fun c _ => (c.low x.a).setWidth 64) ∧
    ∀ l,
      Traps r.1 1 (fun c s => at_ c s ∧ c.lanes.find? (fun l => va c l % r.2.1 != 0) = some l) 0x06 0
        (fun c _ => BitVec.ofNat 64 (va c l)) ∧
      Traps r.1 1 (fun c s => at_ c s ∧ (∀ k ∈ c.lanes, va c k % r.2.1 = 0) ∧
        c.lanes.find? (fun l => decide (2 ^ 56 < va c l + r.2.1)) = some l) 0x08 0 (fun c _ => BitVec.ofNat 64 (va c l))

/-- XLAT of an aligned address below 2^56 enters an act 2,000 owner cycles later, and traps otherwise; XDROP drops its window from the next
owner cycle on, and a stale handle traps (R208, R209, R472, R473). -/
def Obligations.WindowInstructionsComplete : Prop :=
  ∀ x : XOps,
    Answers (.xlat x) 1 (fun c _ => (c.pair0 x.a).toNat % 4 = 0 ∧ (c.pair0 x.a).toNat < 2 ^ 56) (fun c s t =>
      t.mem = s.mem ∧ ∃ a, t.accs = s.accs ++ [a] ∧ a.id = s.nextId ∧ a.instr = .xlat x ∧ a.strand = c.cur.strand ∧
        a.lanes.map (·.va) = [(c.pair0 x.a).toNat] ∧ (s.untimed c.cur.strand.owner = false → a.due = c.now + 2000)) ∧
    Traps (.xlat x) 1 (fun c _ => (c.pair0 x.a).toNat % 4 ≠ 0) 0x06 0 (fun c _ => c.pair0 x.a) ∧
    Traps (.xlat x) 1 (fun c _ => (c.pair0 x.a).toNat % 4 = 0 ∧ 2 ^ 56 ≤ (c.pair0 x.a).toNat) 0x08 0 (fun c _ => c.pair0 x.a) ∧
    (∀ w, Completes (.xdrop x) 1 (fun c s => windowOf s c.t.grp c.now (c.lane0 x.a) = some w) fun c s =>
      (s.modGroup c.t.grp fun g => { g with
        windows := tblSet win0 g.windows (field (c.lane0 x.a) 3 0) { w with dropped := some c.now } }).issuedPlain c (.xdrop x)) ∧
    Traps (.xdrop x) 1 (fun c s => windowOf s c.t.grp c.now (c.lane0 x.a) = none) 0x07 0 (fun c _ => (c.lane0 x.a).setWidth 64)

/-- TALLOC of a permitted shape takes an entry, or none, or waits on a DRAINING one; TFREE leaves its entry DRAINING; TINFO reports it; an
ill shape or handle traps with 0x0E (R164, R167 to R170, R451, R454, R456). -/
def Obligations.TileTableInstructionsComplete : Prop :=
  ∀ (x : XOps) (level : TLevel) (l : LCore) (w : Owner) (g : Group) (l' : LCore) (v : Word) (e : Nat),
    let lc (c : Ctx) (s : State) : Prop := s.lcore? c.cur.strand.owner c.cur.strand.lcore = some l
    let asks (c : Ctx) (s : State) : Prop := shapeOk (c.lane0 x.a) = true ∧ (c.lane0 x.b).toNat < 2 ^ 13 ∧ lc c s ∧
      s.owner? c.cur.strand.owner = some w ∧ s.group? c.t.grp = some g
    let decides (c : Ctx) : Option (LCore × Word) := tallocDecide l w.orec g.id g.quota level.code (c.lane0 x.a) (c.lane0 x.b)
    Completes (.talloc x level) 1 (fun c s => asks c s ∧ decides c = some (l', v)) (fun c s =>
      (s.modLcore c.cur.strand.owner c.cur.strand.lcore fun _ => l').issuedFill c (.talloc x level) x.d [v]) ∧
    Completes (.talloc x level) 1 (fun c s => asks c s ∧ decides c = none) (fun c s =>
      s.waits c (.talloc x level) [(c.lane0 x.a).setWidth 64, (c.lane0 x.b).setWidth 64]) ∧
    Traps (.talloc x level) 1 (fun c _ => shapeOk (c.lane0 x.a) = false ∨ 2 ^ 13 ≤ (c.lane0 x.b).toNat) 0x0E 5 (fun _ _ => 0) ∧
    Completes (.tfree x) 1 (fun c s => lc c s ∧ handleError l c.t.grp false (c.lane0 x.a) = none) (fun c s =>
      (s.modLcore c.cur.strand.owner c.cur.strand.lcore fun l => l.setTile (field (c.lane0 x.a) 11 0)
        { l.tile (field (c.lane0 x.a) 11 0) with st := .draining, since := c.now }).issuedPlain c (.tfree x)) ∧
    Traps (.tfree x) 1 (fun c s => lc c s ∧ handleError l c.t.grp false (c.lane0 x.a) = some e) 0x0E e
      (fun c _ => BitVec.ofNat 64 (field (c.lane0 x.a) 11 0)) ∧
    Completes (.tinfo x) 1 (fun c s => lc c s ∧ handleError l c.t.grp true (c.lane0 x.a) = none) (fun c s =>
      let q := l.tile (field (c.lane0 x.a) 11 0)
      s.issuedFill c (.tinfo x) x.d
        [q.shape, BitVec.ofNat 32 (q.uses % 2 ^ 14 * 16 + (if q.st = .allocated then 1 else 2) * 4 + q.level)]) ∧
    Traps (.tinfo x) 1 (fun c s => lc c s ∧ handleError l c.t.grp true (c.lane0 x.a) = some e) 0x0E e
      (fun c _ => BitVec.ofNat 64 (field (c.lane0 x.a) 11 0))

/-- A tile that TALLOC grants was FREE, is ALLOCATED to the group with its shape, reads as zero under a new generation, and fits the level
and the group's quota (R166, R167). -/
def Obligations.GrantedTileWasFreeAndFits : Prop :=
  ∀ (l l' : LCore) (r : OwnerRec) (grp quota level : Nat) (shape req v : Word),
    shapeOk shape = true → tallocDecide l r grp quota level shape req = some (l', v) → v ≠ 0xFFFFFFFF →
    let h := v.toNat % 4096
    (l.tile h).st = .free ∧ (l'.tile h).st = .allocated ∧ (l'.tile h).grp = grp ∧ (l'.tile h).shape = shape ∧
    (l'.tile h).gen = ((l.tile h).gen + 1) % 4096 ∧ (l'.tile h).gen = v.toNat / 4096 ∧
    (∀ comp off, (l'.tile h).byte comp off = 0) ∧
    l.footprints (fun t => t.level == level) + footprint shape ≤ levelCap r level ∧
    l.footprints (fun t => t.grp == grp) + footprint shape ≤ quota

/-- LDT reads each lane's bytes of a tile row and writes them 16 owner cycles later; STT adds each lane's bytes to the owner cycle's tile
writes; the first lane that the checks stop traps (R175, R176). -/
def Obligations.TileLaneAccessesComplete : Prop :=
  ∀ (x : XOps) (z : Size) (l : LCore) (xs : List (Nat × Nat × Nat)) (e : Nat × Nat × DWord),
    let n := 2 ^ z.code
    let num (c : Ctx) : Nat := field (c.pair0 x.a).lo 11 0
    let lanes (c : Ctx) : Except (Nat × Nat × DWord) (List (Nat × Nat × Nat)) :=
      tileLanes l c.t.grp c.now n (descOf (c.pair0 x.a).lo (c.pair0 x.a).hi) (fun i => (c.src x.b i).toNat) c.lanes
    let lc (c : Ctx) (s : State) : Prop := s.lcore? c.cur.strand.owner c.cur.strand.lcore = some l
    Completes (.ldt x z) 1 (fun c s => lc c s ∧ lanes c = .ok xs) (fun c s => s.issued c (.ldt x z) 1 (some 16)
      (xs.flatMap fun p => dstOuts x.d p.1 (wordsOf (max 1 (n / 4)) (ofBytesLE ((l.tile (num c)).row false p.2.1 p.2.2 n)))) false none) ∧
    Traps (.ldt x z) 1 (fun c s => lc c s ∧ lanes c = .error e) e.1 e.2.1 (fun _ _ => e.2.2) ∧
    Completes (.stt x z) 1 (fun c s => lc c s ∧ lanes c = .ok xs) (fun c s =>
      (s.modLcore c.cur.strand.owner c.cur.strand.lcore fun q => { q with
        tbuf := q.tbuf ++ xs.flatMap fun p => tileWrites false (num c) false (p.2.1 * shapeRB (l.tile (num c)).shape + p.2.2)
          (((c.regs x.c (max 1 (n / 4)) p.1).flatMap fun w => bytesLE 4 w.toNat).take n) }).issuedPlain c (.stt x z)) ∧
    Traps (.stt x z) 1 (fun c s => lc c s ∧ lanes c = .error e) e.1 e.2.1 (fun _ _ => e.2.2)

/-- CPY between two places in memory, with live windows that are no peers', offsets and pitches that are multiples of 4, and no follow-on,
companion or sink, enters a copy under its tag; a kind above 5, a reserved bit, no rows or no bytes traps as an illegal encoding,
before every other condition, which is the model's choice (log 65) (R177 to R179, R187, R382). -/
def Obligations.CopyInstructionsComplete : Prop :=
  ∀ (x : XOps) (n : Fin 120) (l : LCore) (ws wd : WinSlot), x.a = .reg n →
    let r (c : Ctx) (k : Nat) : Word := c.reg (n + k) 0
    let e (c : Ctx) : Nat := 4 * field (r c 5) 31 16
    let rows (c : Ctx) : Nat := field (r c 5) 15 0
    let sized (c : Ctx) : Prop := e c ≠ 0 ∧ rows c ≠ 0 ∧ rows c * e c ≤ 0xFFFFFFFC
    Answers (.cpy x) 1 (fun c s => s.lcore? c.cur.strand.owner c.cur.strand.lcore = some l ∧ sized c ∧
        field (r c 0) 31 24 = 0 ∧ field (r c 0) 2 0 = 2 ∧ field (r c 0) 11 10 ≠ 3 ∧ (r c 0).getLsbD 12 = false ∧
        (r c 0).getLsbD 23 = false ∧ windowOf s c.t.grp c.now (r c 1) = some ws ∧ windowOf s c.t.grp c.now (r c 3) = some wd ∧
        ws.page.kind ≠ 3 ∧ wd.page.kind ≠ 3 ∧ ∀ k ∈ [2, 4, 6, 7], (r c k).toNat % 4 = 0)
      (fun c s t => t.mem = s.mem ∧ ∃ q k, t.lcore? c.cur.strand.owner c.cur.strand.lcore = some q ∧ q.copies = l.copies ++ [k] ∧
        k.id = s.nextId ∧ k.strand = c.cur.strand ∧ k.kind = 2 ∧ k.tag = field (r c 0) 8 3 ∧ k.rows = rows c ∧ k.rowBytes = e c ∧
        k.src = .mem (ws.base + (r c 2).toNat) ws.page (r c 6).toNat ∧ k.dst = .mem (wd.base + (r c 4).toNat) wd.page (r c 7).toNat) ∧
    Traps (.cpy x) 1 (fun c s => s.lcore? c.cur.strand.owner c.cur.strand.lcore = some l ∧
      (field (r c 0) 31 24 ≠ 0 ∨ 5 < field (r c 0) 2 0 ∨ e c = 0 ∨ rows c = 0)) 0x01 0x0E (fun _ _ => 0)

/-- SEAL returns the batch and opens the next; SWAIT goes on when no sealed batch it covers has a member in flight; TWANY, TWALL, TFIRST
report a tag, TCLR clears the named tags that have no copy in flight; the waits stay at their place (R187 to R189, R448, R453, R459, R460). -/
def Obligations.BatchAndTagInstructionsComplete : Prop :=
  ∀ (x : XOps) (l : LCore),
    let lc (c : Ctx) (s : State) : Prop := s.lcore? c.cur.strand.owner c.cur.strand.lcore = some l
    let m (c : Ctx) : DWord := c.pair0 x.a
    Completes (.seal x) 1 Always (fun c s =>
      (s.modStrand c.cur.strand fun t => { t with batch := t.batch + 1 }).issuedFill c (.seal x) x.d [c.t.batch]) ∧
    Completes (.swait x) 1 (fun c s => swaitPending s c.t (c.lane0 x.a) = false) (fun c s => s.issuedPlain c (.swait x)) ∧
    Completes (.swait x) 1 (fun c s => swaitPending s c.t (c.lane0 x.a) = true)
      (fun c s => s.waits c (.swait x) [(c.lane0 x.a).setWidth 64]) ∧
    Completes (.twany x) 1 (fun c s => lc c s ∧ ((∃ g ∈ tagsOf (m c), (l.tag g).bit = true) ∨ ∀ g ∈ tagsOf (m c), (l.tag g).count = 0))
      (fun c s => s.issuedFill c (.twany x) x.d (l.report ((tagsOf (m c)).find? fun g => (l.tag g).bit))) ∧
    Completes (.twany x) 1 (fun c s => lc c s ∧ (∀ g ∈ tagsOf (m c), (l.tag g).bit = false) ∧ ∃ g ∈ tagsOf (m c), (l.tag g).count ≠ 0)
      (fun c s => s.waits c (.twany x) [m c]) ∧
    Completes (.twall x) 1 (fun c s => lc c s ∧ ∀ g ∈ tagsOf (m c), (l.tag g).count = 0)
      (fun c s => s.issuedFill c (.twall x) x.d (l.report ((tagsOf (m c)).find? fun g => (l.tag g).code != 0))) ∧
    Completes (.twall x) 1 (fun c s => lc c s ∧ ∃ g ∈ tagsOf (m c), (l.tag g).count ≠ 0) (fun c s => s.waits c (.twall x) [m c]) ∧
    Completes (.tfirst x) 1 (fun c s => lc c s)
      (fun c s => s.issuedFill c (.tfirst x) x.d (l.report ((tagsOf (m c)).find? fun g => (l.tag g).bit))) ∧
    Completes (.tclr x) 1 Always (fun c s =>
      (s.modLcore c.cur.strand.owner c.cur.strand.lcore (·.clearTags (m c))).issuedPlain c (.tclr x)) ∧
    l.report none = [64, 0] ∧ ∀ g, l.report (some g) = [BitVec.ofNat 32 (g + 256 * (l.tag g).code), (l.tag g).second]

/-- BINIT starts a new generation, BARV adds arrivals, or stale arrivals when the barrier expects none, BWAIT reports at once when the barrier
is met or expects none, and else waits; a barrier number above 255 traps; GSYNC waits at its place (R190, R191, R364, R367, R370, R402). -/
def Obligations.BarrierInstructionsComplete : Prop :=
  ∀ (x : XOps) (l : LCore),
    let b (c : Ctx) : Nat := (c.lane0 x.a).toNat
    Completes (.binit x) 1 (fun c _ => b c ≤ 255) (fun c s =>
      (s.modLcore c.cur.strand.owner c.cur.strand.lcore fun l =>
        { l.setBar (b c) ⟨c.lane0 x.b, 0, (l.bar (b c)).gen + 1, (l.bar (b c)).stale⟩ with
          barHz := tblSet .none l.barHz (b c) .none }).issuedPlain c (.binit x)) ∧
    Answers (.barv x) 1 (fun c s => b c ≤ 255 ∧ s.lcore? c.cur.strand.owner c.cur.strand.lcore = some l) (fun c _ t =>
      ∃ q, t.lcore? c.cur.strand.owner c.cur.strand.lcore = some q ∧
        ((l.bar (b c)).expected = 0 → q.bars = tblSet bar0 l.bars (b c) { l.bar (b c) with
          stale := BitVec.ofNat 32 (min 0xFFFFFFFF ((l.bar (b c)).stale.toNat + c.n0 x.b)) }) ∧
        ((l.bar (b c)).expected ≠ 0 → q.bars = tblSet bar0 l.bars (b c) { l.bar (b c) with
          arrived := BitVec.ofNat 32 (min 0xFFFFFFFF ((l.bar (b c)).arrived.toNat + c.n0 x.b)) })) ∧
    (let met (c : Ctx) (s : State) (v : Bool) : Prop := b c ≤ 255 ∧ s.lcore? c.cur.strand.owner c.cur.strand.lcore = some l ∧
      ((l.settleBars.bar (b c)).expected = 0 ∨ (l.settleBars.bar (b c)).expected.toNat ≤ (l.settleBars.bar (b c)).arrived.toNat ↔ v = true)
     Completes (.bwait x) 1 (fun c s => met c s true) (fun c s =>
      (barAcquire (s.modLcore c.cur.strand.owner c.cur.strand.lcore fun _ => l.settleBars.setBar (b c)
        { l.settleBars.bar (b c) with stale := 0 }) c.cur l.settleBars (b c)).issuedFill c (.bwait x) x.d
          [(l.settleBars.bar (b c)).stale, if (l.settleBars.bar (b c)).expected = 0 then 1 else 0]) ∧
     Completes (.bwait x) 1 (fun c s => met c s false) (fun c s => s.waits c (.bwait x) [(c.lane0 x.a).setWidth 64])) ∧
    (∀ i, i = .binit x ∨ i = .barv x ∨ i = .bwait x → Traps i 1 (fun c _ => 255 < b c) 0x08 0 fun c _ => (c.lane0 x.a).setWidth 64) ∧
    Completes (.gsync x) 1 Always (fun c s => (s.waits c (.gsync x) []).gsyncCheck c.t.grp)

/-! ### The matrix array, CLAUSE arrays, launches, counters, work lists, system registers (spec/05, spec/08, spec/09, spec/12 to spec/15) -/

/-- MWLD, MSTR, MCON, MCLOSE, CBLD and MTILE enter array order when their owner holds an ARR position, M is 1 to 4,095 and the checks of R417
pass; without an ARR position they trap with 0x09, with another M as an illegal instruction. MSTAT of an owner without an ARR position writes
zeros; with one, what is latched as the commands in array order leave it, whether a command has not ended, and the first step not yet started
of the first MTILE in array order that has one (R195 to R202, R417, R420, R422). -/
def Obligations.MatrixInstructionsComplete : Prop :=
  ∀ (x : XOps) (ty : Ty) (t start : Bool) (kind : ConKind) (seglen : BitVec 8) (l : LCore) (e : Nat × Nat × DWord),
    let arr (c : Ctx) (s : State) (v : Bool) : Prop :=
      s.lcore? c.cur.strand.owner c.cur.strand.lcore = some l ∧ s.hasArr c.cur.strand.owner c.cur.strand.lcore = v
    let ok (c : Ctx) (s : State) (op : MatOp) : Prop := arr c s true ∧ matCheck l c.t.grp c.now l.latchAhead op = none
    let m (c : Ctx) : Nat := (c.lane0 x.c).toNat
    let d (c : Ctx) (y : Src) : Desc := descOf (c.pair0 y).lo (c.pair0 y).hi
    let enters (i : Instr) (P : Ctx → Prop) (op : Ctx → MatOp) (joins : Bool) : Prop :=
      Completes i 1 (fun c s => P c ∧ ok c s (op c))
        (fun c s => (s.enterMat c (op c) none (if joins then some c.t.batch.toNat else none)).issuedPlain c i) ∧
      Traps i 1 (fun c s => P c ∧ arr c s true ∧ matCheck l c.t.grp c.now l.latchAhead (op c) = some e) e.1 e.2.1 (fun _ _ => e.2.2)
    enters (.mwld x ty t) (fun _ => True) (fun c => .mwld ty.code t (d c x.a) 0) true ∧
    enters (.mstr x ty start false) (fun c => 1 ≤ m c ∧ m c ≤ 4095) (fun c => .mstr ty.code start (d c x.a) 0 0 (d c x.b) (m c) none) true ∧
    (∀ n, x.a = .reg n → enters (.mstr x ty start true) (fun c => 1 ≤ m c ∧ m c ≤ 4095 ∧ n + 2 * m c ≤ c.t.n) (fun c =>
      .mstr ty.code start (descOf 0 0) 0 0 (d c x.b) (m c) (some ((List.range (m c)).map fun i => regRow c.t (n + 2 * i)))) true) ∧
    enters (.mcon x ty start kind seglen) (fun c => 1 ≤ m c ∧ m c ≤ 4095 ∧ kind ≠ .perm)
      (fun c => .mcon ty.code start kind seglen.toNat [] (d c x.b) (m c)) true ∧
    (∀ n, x.a = .reg n → enters (.mcon x ty start .perm seglen) (fun c => 1 ≤ m c ∧ m c ≤ 4095 ∧ n + (m c + 3) / 4 ≤ c.t.n) (fun c =>
      .mcon ty.code start .perm seglen.toNat ((List.range (m c)).map fun i => (c.reg (n + i / 4) (i % 4)).toNat) (d c x.b) (m c)) true) ∧
    enters (.mclose x) (fun c => 1 ≤ m c ∧ m c ≤ 4095) (fun c => .mclose (d c x.a) (d c x.b) (m c)) true ∧
    enters (.cbld x) (fun _ => True) (fun c => .cbld (d c x.a)) false ∧
    (∀ n r, x.a = .reg n → Completes (.mtile x) 1
      (fun c s => arr c s true ∧ macroOf c n = some r ∧ macroCheck l c.t.grp c.now r = none)
      (fun c s => (s.enterMat c (r.step 0) (some r) (some c.t.batch.toNat)).issuedPlain c (.mtile x))) ∧
    Completes (.mstat x) 1 (fun c s => arr c s false) (fun c s => s.issuedFill c (.mstat x) x.d [0, 0]) ∧
    (∀ i ∈ ([.mstr x ty start false, .mstr x ty start true, .mcon x ty start kind seglen, .mclose x] : List Instr),
      Traps i 1 (fun c s => arr c s true ∧ (m c = 0 ∨ 4095 < m c)) 0x01 0x0E (fun _ _ => 0)) ∧
    (let latched : Nat := (match l.latch with
        | some w => w.ty * 256 + 128 + (if w.mx then 64 else 0) + if w.t then 32 else 0
        | none => 0) + if l.codebook.isSome then 16 else 0
     let left (y : MatCmd) : Option Nat := y.macro_.bind fun r => if y.out = none then some r.2 else if r.2 + 1 < r.1.steps then some (r.2 + 1) else none
     Completes (.mstat x) 1 (fun c s => arr c s true ∧ l.mats = []) (fun c s => s.issuedFill c (.mstat x) x.d [BitVec.ofNat 32 latched, 0]) ∧
     Completes (.mstat x) 1 (fun c s => arr c s true ∧ l.mats ≠ [] ∧ ∀ y ∈ l.mats, left y = none)
      (fun c s => s.issuedFill c (.mstat x) x.d [BitVec.ofNat 32 (latched + 8), 0]) ∧
     ∀ pre y post n, l.mats = pre ++ y :: post → (∀ z ∈ pre, left z = none) → left y = some n → Completes (.mstat x) 1 (fun c s => arr c s true)
      (fun c s => s.issuedFill c (.mstat x) x.d [BitVec.ofNat 32 (latched + 12), BitVec.ofNat 32 n])) ∧
    Answers (.mstat x) 1 (fun c s => arr c s true) (fun c s t =>
      ∃ v, t = s.issued c (.mstat x) 1 (some 4) (c.fill x.d v) false none ∧ v.length = 2) ∧
    ∀ i ∈ ([.mwld x ty t, .mstr x ty start false, .mstr x ty start true, .mcon x ty start kind seglen, .mclose x, .cbld x, .mtile x]
        : List Instr), Traps i 1 (fun c s => arr c s false) 0x09 0 (fun _ _ => 0)

/-- A CLAUSE command of a group that holds an array enters the array's order when its operands and its tile pass R259, and without a held
array traps with 0x10; CAOPEN asks for an array, and reports HELD and ABSENT at once (R255, R258 to R260); ABSENT also where the
array of a bound cluster is mapped out is the model's reading (log 39). -/
def Obligations.ClauseInstructionsComplete : Prop :=
  ∀ (x : XOps) (k : Nat) (l : LCore) (e : Nat × Nat × DWord),
    (∀ r : Instr × Dst × (Ctx → ClauseOp), r ∈ ([
      (.caclose x, .none, fun _ => .close), (.caload x, x.d, fun c => .load (descOf (c.pair0 x.a).lo (c.pair0 x.a).hi) (c.n0 x.b) (c.n0 x.c)),
      (.calearn x, x.d, fun c => .learn (descOf (c.pair0 x.a).lo (c.pair0 x.a).hi)), (.cadec x, x.d, fun c => .dec (c.lane0 x.a)),
      (.caprop x, x.d, fun c => .prop (c.n0 x.a)), (.caback x, x.d, fun c => .back (c.n0 x.a)), (.caval x, x.d, fun c => .val (c.n0 x.a)),
      (.catrail x, x.d, fun c => .trail (c.n0 x.a)), (.cadel x, .none, fun c => .del (c.n0 x.a))]
        : List (Instr × Dst × (Ctx → ClauseOp))) →
      let held (c : Ctx) (s : State) : Prop := s.heldArray c.cur.strand.owner c.t.grp = some k ∧
        s.lcore? c.cur.strand.owner c.cur.strand.lcore = some l
      Completes r.1 1 (fun c s => held c s ∧ clauseCheck l c.t.grp c.now (r.2.2 c) = none) (fun c s =>
        (s.enterClause k ⟨s.nextId, c.cur.strand, c.t.grp, r.2.2 c, r.2.1, c.lanes, c.t.batch.toNat, c.now, none, 0, none, [], 0, false⟩).issuedPlain
          c r.1) ∧
      Traps r.1 1 (fun c s => held c s ∧ clauseCheck l c.t.grp c.now (r.2.2 c) = some e) e.1 e.2.1 (fun _ _ => e.2.2) ∧
      Traps r.1 1 (fun c s => s.heldArray c.cur.strand.owner c.t.grp = none) 0x10 0 (fun _ _ => 0)) ∧
    let timed (c : Ctx) (s : State) : Prop := s.untimed c.cur.strand.owner = false ∧ (c.lane0 x.b).toNat ≤ 1
    let free (c : Ctx) (s : State) : Prop := timed c s ∧ s.heldArray c.cur.strand.owner c.t.grp = none
    let there (c : Ctx) (s : State) (v : Bool) : Prop :=
      ((∃ w, s.owner? c.cur.strand.owner = some w ∧ (c.lane0 x.a).toNat < w.orec.caq ∧
        ∀ y, w.clusters[(c.lane0 x.a).toNat]? = some y → y ∉ s.dev.noArrays) ↔ v = true)
    let refused (c : Ctx) (s : State) : State := s.modStrand c.cur.strand fun t => t.noteRefusal c.t.batch.toNat c.now
    Completes (.caopen x) 1 (fun c s => free c s ∧ there c s true) (fun c s =>
      (s.modOwner c.cur.strand.owner fun w => { w with opens := w.opens ++ [⟨c.n0 x.a, c.clauseCmd s.nextId
        (.open_ (c.n0 x.b == 1)) x.d, c.str, c.t.lclk⟩] }).issuedPlain c (.caopen x)) ∧
    Completes (.caopen x) 1 (fun c s => free c s ∧ there c s false) (fun c s => (refused c s).issuedFill c (.caopen x) x.d [2]) ∧
    Completes (.caopen x) 1 (fun c s => timed c s ∧ s.heldArray c.cur.strand.owner c.t.grp ≠ none)
      (fun c s => (refused c s).issuedFill c (.caopen x) x.d [3]) ∧
    Traps (.caopen x) 1 (fun c s => s.untimed c.cur.strand.owner = true) 0x10 0 (fun _ _ => 0) ∧
    Traps (.caopen x) 1 (fun c s => s.untimed c.cur.strand.owner = false ∧ 1 < (c.lane0 x.b).toNat) 0x0F 9 (fun _ _ => 0)

/-- JOIN of a counter at zero writes its word at once and else waits; of the strand's own launch counter or one above it, traps with 0x09;
CNTRD writes the word and the parent; CANCEL writes its status; a counter beyond the owner's quota traps with 0x08 (R271 to R273, R282 to R286). -/
def Obligations.CounterInstructionsComplete : Prop :=
  ∀ (x : XOps) (level : CLevel) (w : Owner) (g : Group),
    let k (c : Ctx) : Nat := (c.lane0 x.a).toNat
    let at_ (c : Ctx) (s : State) : Prop := s.owner? c.cur.strand.owner = some w ∧ s.group? c.t.grp = some g ∧ k c ≤ 4095 ∧ k c < w.orec.ctrq
    let y (c : Ctx) : Counter := tblGet ctr0 w.snap (k c)
    Completes (.join x) 1 (fun c s => at_ c s ∧ reaches w (k c) chainFuel g.comp = false ∧ (y c).count = 0)
      (fun c s => s.issuedFill c (.join x) x.d [(y c).word false]) ∧
    Completes (.join x) 1 (fun c s => at_ c s ∧ reaches w (k c) chainFuel g.comp = false ∧ (y c).count ≠ 0)
      (fun c s => s.waits c (.join x) [BitVec.ofNat 64 (k c)]) ∧
    Traps (.join x) 1 (fun c s => at_ c s ∧ reaches w (k c) chainFuel g.comp = true) 0x09 0 (fun c _ => BitVec.ofNat 64 (k c)) ∧
    Completes (.cntrd x level) 1 at_ (fun c s => s.issuedFill c (.cntrd x level) x.d
      [(y c).word (decide ((y c).count ≠ 0 ∧ (y c).level ≠ level.code)),
        match (y c).parent with | some p => BitVec.ofNat 32 (p + 4096) | none => 0]) ∧
    Completes (.cancel x level) 1 at_ (fun c s =>
      (s.cancel c.cur.strand.owner level.code (k c)).1.issued c (.cancel x level) 1 (some 4)
        (c.fill x.d [BitVec.ofNat 32 (s.cancel c.cur.strand.owner level.code (k c)).2]) false none) ∧
    ∀ i ∈ ([.join x, .cntrd x level, .cancel x level] : List Instr),
      Traps i 1 (fun c s => s.owner? c.cur.strand.owner = some w ∧ (4095 < k c ∨ w.orec.ctrq ≤ k c)) 0x08 0
        (fun c _ => BitVec.ofNat 64 (k c))

/-- LAUNCH of a record at a multiple of 64 in a live window, WLPUT and WLGET of a list below 1,024 enter their act, 400 and 480 owner cycles
later for a timed owner, and no earlier where an access of the strand is in flight; WLGET's strand stops holding its set; a stale handle, a
misaligned offset, an address beyond 56 bits, a list or a set code out of range trap; without an active lane there is no access and no
trap (R276, R287 to R289, R470). -/
def Obligations.LaunchAndWorkListInstructionsComplete : Prop :=
  ∀ (x : XOps) (w : WinSlot),
    let win (c : Ctx) (s : State) : Prop := windowOf s c.t.grp c.now (c.lane0 x.a) = some w
    let timed (c : Ctx) (s : State) : Prop := s.untimed c.cur.strand.owner = false ∧ ∀ b ∈ s.accs, b.strand ≠ c.cur.strand
    let k (c : Ctx) : Nat := (c.low x.a).toNat
    let set (c : Ctx) : Nat := (c.low x.b).toNat
    let off (c : Ctx) : Nat := (c.lane0 x.b).toNat
    Answers (.launch x) 1 (fun c s => win c s ∧ off c % 64 = 0 ∧ w.base + off c + 64 ≤ 2 ^ 56) (fun c s t =>
      t.mem = s.mem ∧ ∃ a, t.accs = s.accs ++ [a] ∧ a.id = s.nextId ∧ a.instr = .launch x ∧ a.lanes.map (·.va) = [w.base + off c] ∧
        c.now + 400 ≤ a.due ∧ (timed c s → off c + 64 ≤ w.limit → a.due = c.now + 400) ∧ (timed c s → w.limit < off c + 64 → a.due = c.now + 2000)) ∧
    Traps (.launch x) 1 (fun c s => windowOf s c.t.grp c.now (c.lane0 x.a) = none) 0x07 0 (fun c _ => (c.lane0 x.a).setWidth 64) ∧
    Traps (.launch x) 1 (fun c s => win c s ∧ off c % 64 ≠ 0) 0x06 0 (fun c _ => BitVec.ofNat 64 (w.base + off c)) ∧
    Traps (.launch x) 1 (fun c s => win c s ∧ off c % 64 = 0 ∧ 2 ^ 56 < w.base + off c + 64) 0x08 0
      (fun c _ => BitVec.ofNat 64 (w.base + off c)) ∧
    (∀ i, (i = .wlput x ∨ i = .wlget x) →
      Answers i 1 (fun c _ => k c ≤ 1023 ∧ (i = .wlget x → set c ≤ 10) ∧ c.lanes ≠ []) (fun c s t =>
        t.mem = s.mem ∧ ∃ a, t.accs = s.accs ++ [a] ∧ a.id = s.nextId ∧ a.instr = i ∧ a.lanes.map (·.lane) = c.lanes ∧
          (∀ l ∈ a.lanes, l.va = k c ∧ l.data = if i = .wlput x then [c.src x.b l.lane] else []) ∧ c.now + 480 ≤ a.due ∧
          (timed c s → a.due = c.now + 480) ∧
          (i = .wlget x → ∀ u, t.strand? c.cur.strand = some u → u.wlset = [])) ∧
      Traps i 1 (fun c _ => c.lanes ≠ [] ∧ 1023 < k c) 0x08 0 (fun c _ => BitVec.ofNat 64 (k c))) ∧
    Completes (.wlput x) 1 (fun c _ => c.lanes = []) (fun c s => s.issued c (.wlput x) 1 (some 480) [] false none) ∧
    Completes (.wlget x) 1 (fun c _ => c.lanes = []) (fun c s =>
      (s.modStrand c.cur.strand fun t => { t with wlset := [] }).issued c (.wlget x) 1 (some 480) [] false none) ∧
    Traps (.wlget x) 1 (fun c _ => c.lanes ≠ [] ∧ k c ≤ 1023 ∧ 10 < set c) 0x08 0 (fun c _ => BitVec.ofNat 64 (set c))

/-- SRD writes a system register's value, a pair's in two registers; SWR writes one that a strand may write, unless a higher logical core
wrote it in the same index (R86, R87, R442, R449); that bits of TCAUSE and TSTRAND which R297 calls zero stay zero is the model's reading (log 54).
HGATE schedules a swap and writes its status (R127, R403); INTR leaves its record to a store 400
owner cycles later or after every earlier access (R405). -/
def Obligations.SystemInstructionsComplete : Prop :=
  ∀ (x : XOps) (n : BitVec 12),
    let pair : Bool := ((sysReg n.toNat).map (·.pair)).getD false
    let v (c : Ctx) : DWord := if pair then c.pair0 x.a else (c.lane0 x.a).setWidth 64
    Completes (.srd x n) 1 Always (fun c s => s.issuedFill c (.srd x n) x.d
      (if pair then [(s.sysRead c.t n.toNat).lo, (s.sysRead c.t n.toNat).hi] else [(s.sysRead c.t n.toNat).lo])) ∧
    Completes (.swr x n) 1 (fun c s => s.outwritten c.t n.toNat = false)
      (fun c s => ((s.noteSwr c.t n.toNat).sysWrite c.t n.toNat (v c)).issuedPlain c (.swr x n)) ∧
    Completes (.swr x n) 1 (fun c s => s.outwritten c.t n.toNat = true) (fun c s => s.issuedPlain c (.swr x n)) ∧
    (let status (c : Ctx) (s : State) : Nat := s.hgateStatus ((s.lcore? c.cur.strand.owner c.cur.strand.lcore).map (·.core))
      (c.lane0 x.a) (c.pair0 x.b) (c.pair0 x.c)
     Completes (.hgate x) 1 (fun c s => status c s = 0) (fun c s =>
      (s.schedule (c.lane0 x.a) (c.pair0 x.b) (c.pair0 x.c) none).issuedFill c (.hgate x) x.d [0]) ∧
     Completes (.hgate x) 1 (fun c s => status c s ≠ 0) (fun c s => s.issuedFill c (.hgate x) x.d [BitVec.ofNat 32 (status c s)])) ∧
    ∀ w, Completes (.intr x) 1 (fun c s => s.owner? c.cur.strand.owner = some w) (fun c s =>
      { s with intrs := s.intrs ++ [⟨s.nextId, c.cur.strand,
          max (c.now + 400) ((s.horizon c.cur.strand [8] s.nextId).upTo + 1), w.ogen, (c.lane0 x.a).toNat % 65536, c.ocyc, c.lane0 x.b, false⟩] :
        State }.issuedPlain c (.intr x))

/-! ### The steps of the machine's engines and clocks -/

/-- An instruction that waited at issue issues again: a flume instruction once the flume has room, VPOP and a VLOOP with FT once their gang
finds a token or misuse, VSEND once the return queue has a place, FRECV once the oldest entry is there (R20, R22, R32, R33). -/
def Obligations.WaitingInstructionsIssueAgain : Prop :=
  ∀ (st : StrandId) (k : Nat) (x : XOps) (mask : BitVec 8) (rel : Bool) (d : Dst) (m : SendMode) (a : Src),
    (∀ i ∈ ([.frun x mask rel, .ftrip x mask, .fmask x mask, .fval x mask rel, .regang x mask, .exit] : List Instr),
      Resumes (.flumeSendResume st) ⟨st, none⟩ i fun c => c.t.flume.length < 16) ∧
    Resumes (.vpopTakesVal st k) ⟨st, some k⟩ (.vpop d) (fun c => ∀ g, c.set? = some g → findToken c.t g c.now ≠ .nothing) ∧
    Resumes (.vloopTakesTrip st k) ⟨st, some k⟩ (.vloop x true) (fun c => ∀ g, c.set? = some g → findToken c.t g c.now ≠ .nothing) ∧
    (∀ i, i = .vsend m a ∨ i = .vsendLit m a → Resumes (.vsendPushResume st k) ⟨st, some k⟩ i fun c => c.t.rq.length < 8) ∧
    Resumes (.frecvPop st) ⟨st, none⟩ (.frecv d) fun c => ∃ e l, c.t.rq = e :: l ∧ e.here = true

/-- An idle gang set takes its next token: RUN parts the named slices into a set at the block's address with the token's clock; MASK writes
four mask bits for each named slice; REGANG parts the named slices to wait, and fuses them when all wait; END stops them; a TRIP or VAL
token is misuse (R21 to R25, R477). A block
address of 2^32 or more stands as one that no store reaches, and misuse traps the whole idle set without a split: the model's readings (logs 48, 49).
That MASK and a fused REGANG leave the set ready for a further token is its choice (log 63). FRECV with nothing left to come traps with 0x13 (R34), and a flume instruction with nothing left to take
a token with 0x05 and subcode 1 (R35). -/
def Obligations.SetsTakeTokensAndDeadlocksTrap : Prop :=
  ∀ (i : StrandId) (k : Nat) (t : Strand) (g : GSet) (e : Token) (now : Nat) (d : Dst) (w : Wait),
    let at_ (s : State) (kind : TokKind) : Prop := idleToken s i k = some (t, g, e, now) ∧ e.kind = kind
    let named : List Nat := g.slices.filter e.left.contains
    let a (u : Strand) : Nat := u.vbase.toNat + 4 * e.payload.toNat
    let bits : Word := BitVec.ofNat 32 (maskOf (named.flatMap fun i => [4 * i, 4 * i + 1, 4 * i + 2, 4 * i + 3]))
    Steps (.sliceTakesRun i k) (fun s => at_ s .run) (fun s => s.modStrand i fun u => { u with
      flume := dropSlices u.flume e.id named
      sets := splitSets u.sets g named fun h => { h with
        st := .block, loops := [], clock := e.stamp
        str := ({ h.str with pc := if a u < 2 ^ 32 then BitVec.ofNat 32 (a u) else 0xFFFFFFFC, ready := now + 1, stood := now + 1, res := [],
                             replay := none } : Stream).takeHz h.slices e.hz } }) ∧
    Steps (.sliceTakesMask i k) (fun s => at_ s .mask) (fun s => s.modStrand i fun u => { u with
      bmask := (u.bmask &&& ~~~bits) ||| (e.payload &&& bits), flume := dropSlices u.flume e.id named }) ∧
    Steps (.sliceTakesRegang i k) (fun s => at_ s .regang) (fun s => s.modStrand i fun u =>
      fuse { u with sets := splitSets u.sets g named fun h => { h with st := .regang e.id } } e) ∧
    Steps (.sliceTakesEnd i k) (fun s => at_ s .fin) (fun s => s.modStrand i fun u => { u with
      sets := splitSets u.sets g named fun h => { h with st := .stopped }, flume := dropSlices u.flume e.id named }) ∧
    Steps (.returnQueueStarvation i) (fun s => s.strand? i = some t ∧ t.ctl.wait.map Wait.instr = some (.frecv d) ∧ t.rq = [] ∧
        ∀ g ∈ t.sets, g.st = .stopped ∨ g.str.trap ≠ none ∨ (g.st = .idle ∧ t.tokenOf g = none))
      (fun s => s.takeTrap ⟨i, none⟩ ⟨0x13, 0, 0, 0xF⟩ false) ∧
    Steps (.flumeDeadlock i) (fun s => s.strand? i = some t ∧ t.ctl.wait = some w ∧ sends w.instr = true ∧ 16 ≤ t.flume.length ∧
        ∀ g ∈ t.sets, (∃ q, g.st = .regang q) ∨ (8 ≤ t.rq.length ∧ g.st = .block ∧ ∃ m a,
          g.str.wait.map Wait.instr = some (.vsend m a) ∨ g.str.wait.map Wait.instr = some (.vsendLit m a)))
      (fun s => s.takeTrap ⟨i, none⟩ ⟨0x05, 1, 0, 0xF⟩ false) ∧
    ∀ r ∈ ([.sliceTakesRun i k, .sliceTakesMask i k, .sliceTakesRegang i k, .sliceTakesEnd i k] : List Instr),
      Steps r (fun s => at_ s .trip ∨ at_ s .val) (fun s => idleMisuse s t g)

/-- A result is written at its owner cycle, for an untimed owner in a turn of its logical core once its steps are done: exactly the registers
and lanes that it names take its words (R40, R115, R124). -/
def Obligations.ResultsAreWrittenWhenDue : Prop :=
  ∀ (id : Nat) (t : Strand) (p : Pend),
    Steps (.resultWriteback id) (fun s => s.strands.findSome? (fun u => (u.pends.find? fun q => q.id == id).map (u, ·)) = some (t, p) ∧
        p.due ≤ s.lcNow t.id.owner t.id.lcore ∧ (s.untimed t.id.owner = false ∨
          (p.steps = 0 ∧ ∃ n, s.turn = some n ∧ n.tail = true ∧ n.owner = t.id.owner ∧ n.lc = t.id.lcore)))
      (fun s => s.modStrand t.id (·.writePend p)) ∧
    (p.set = none → (t.writePend p).cregs = tblSets 0 t.cregs (p.writes.map fun w => (w.1 * 4 + w.2.1, w.2.2)) ∧
      (t.writePend p).vregs = t.vregs) ∧
    (∀ k, p.set = some k → (t.writePend p).vregs = tblSets 0 t.vregs (p.writes.map fun w => (w.1 * 32 + w.2.1, w.2.2)) ∧
      (t.writePend p).cregs = t.cregs) ∧
    (t.writePend p).pends = t.pends.filter (fun q => q.id != p.id) ∧ (t.writePend p).n = t.n ∧ (t.writePend p).priv = t.priv

/-- A strand that has ended leaves, and with the last of its group the group ends; a waiting RALLOC or RFREE is served at a quiet point; a
strand swaps out and in, 400 owner cycles and the traffic of its registers each way (R36, R50 to R54, R280, R281, R389). The number of a strand
that is out, its slot on return (logs 52, 60) and a group's end in the step of its last strand (log 55) are the model's readings. -/
def Obligations.StrandLifeSteps : Prop :=
  ∀ (i : StrandId) (t : Strand) (x : XOps) (id since till g o lc : Nat) (m v : DWord) (r : Word) (s' : State) (w : Wait) (q : Group) (l : LCore),
    Steps (.strandEnd i) (fun s => s.strand? i = some t ∧ s.ended t = true) (fun s =>
      let s1 : State := ({ s with strands := s.strands.filter fun u => u.id != i } : State).modLcore i.owner i.lcore (·.forget i)
      match s1.group? t.grp with
      | some g => if s1.strands.any fun u => u.grp == g.id
          then (s1.gsyncCheck g.id).roomFreed i.owner ((s1.ownerNow i.owner).getD 0) else s1.endGroup g
      | none => s1) ∧
    Steps (.rallocGrant i) (fun s => s.strand? i = some t ∧ waitOf s ⟨i, none⟩ = some ⟨.ralloc x, id, [m], since⟩ ∧ t.res = .here ∧
        s.rallocNow t m.toNat id = some (s', r)) (fun _ => s'.complete ⟨i, none⟩ (some 4) fun c => c.fill x.d [r]) ∧
    Steps (.rfreeQuietAct i) (fun s => s.strand? i = some t ∧ waitOf s ⟨i, none⟩ = some w ∧ w.vals = [m] ∧
        (∃ a, w.instr = .rfree a ∨ w.instr = .rfreeLit a) ∧ s.quietAt t (some w.id) = true)
      (fun s => ((s.modStrand i (·.shrink m.toNat)).roomFreed i.owner ((s.ownerNow i.owner).getD 0)).complete ⟨i, none⟩ none fun _ => []) ∧
    Steps (.strandSwapOutEnd i) (fun s => s.strand? i = some t ∧ t.res = .leaving till ∧ till ≤ s.lcNow i.owner i.lcore)
      (fun s =>
        (((s.modStrand i fun u => { u with res := .out }).renameStrand i { i with slot := s.outNumber i.owner i.lcore }).spillStrand
        { i with slot := s.outNumber i.owner i.lcore }).roomFreed
        i.owner ((s.ownerNow i.owner).getD 0)) ∧
    Steps (.strandSwapIn i) (fun s => s.strand? i = some t ∧ t.res = .out ∧ t.joinOut = false ∧ s.roomFor t = true ∧
        ∀ u ∈ s.strandsOf i.owner i.lcore, u.res = .out → u.joinOut = false → t.leftAt ≤ u.leftAt) (fun s => s.beginReturn t) ∧
    (let back (s : State) : State := (s.modStrand i fun u => { u with
        res := .here, age := l.nextAge, joinOut := false
        ctl := { u.ctl with wait := u.ctl.wait.map fun x => { x with since := x.since + (s.lcNow i.owner i.lcore - u.leftNow) } } })
          |>.modLcore i.owner i.lcore fun l => { l with nextAge := l.nextAge + 1 }
     let due (s : State) : Prop := s.strand? i = some t ∧ s.lcore? i.owner i.lcore = some l ∧ t.res = .back till ∧
        till ≤ s.lcNow i.owner i.lcore
     Steps (.strandSwapInEnd i) (fun s => due s ∧ ∀ x id a b n, t.ctl.wait ≠ some ⟨.join x, id, [a, b], n⟩) back ∧
     Steps (.strandSwapInEnd i) (fun s => due s ∧ t.ctl.wait = some ⟨.join x, id, [m, v], since⟩)
      fun s => (back s).complete ⟨i, none⟩ (some 4) fun c => c.fill x.d [v.lo]) ∧
    Reaches (.strandSwapOut o lc) (fun s => (∃ u ∈ s.strandsOf o lc, u.res = .here ∧
          ∀ m id since, u.ralloc? = some (m, id, since) → s.olderWaiter u id = false) ∧
        (∀ u ∈ s.strandsOf o lc, (u.res = .here → s.wantsMore u = true ∧
          ∀ m id since, u.ralloc? = some (m, id, since) → s.rallocNow u m id = none) ∧ ∀ n, u.res ≠ .leaving n ∧ u.res ≠ .back n) ∧
        s.swapped o lc < 32 ∧ 2 ≤ ((s.strandsOf o lc).filter fun u => u.res == .here).length ∧
        (s.strandsOf o lc).Pairwise fun a b => a.id ≠ b.id)
      (fun s u => ∃ a ∈ s.strandsOf o lc, u = s.beginLeave a false) ∧
    Reaches (.groupStrandsStart g) (fun s => s.group? g = some q ∧ (∃ w l, s.owner? q.owner = some w ∧
        (w.launches.find? fun l => l.id == q.launch) = some l) ∧ (s.lcore? q.owner q.lcore).isSome = true ∧
        q.start ≤ s.lcNow q.owner q.lcore ∧ ∃ u ∈ s.strands, u.grp = g ∧ u.res = .coming)
      (fun s u => (∀ y ∈ u.strands, y.grp = g → y.res ≠ .coming) ∧ u.mem = s.mem ∧ u.groups = s.groups)

/-- The core rota: an accepted ROTAC write is pending for its boundary, and in force from there; a ROTAF write leaves the port's register as
R104 says, what one refused whole leaves being the model's choice (log 64), and a committed table is in force 1,024 core cycles later; an accepted LCMAP write places or removes a logical core; a refused write
changes nothing (R101 to R107, R326). The writes of a strand's registers from outside do what SWR of them does (R449). -/
def Obligations.RotaAndRegisterWritesFromOutside : Prop :=
  ∀ (p due flen o : Nat) (v : DWord) (a : Word) (t : List Nat),
    Steps (.rotacWrite p v) (fun s => s.rotacOk p v = true) (fun s => s.setCore p { s.core p with pend := some (v, rotacDue s.dcyc) }) ∧
    Steps (.rotacWrite p v) (fun s => s.rotacOk p v = false) id ∧
    (∀ n, rotacDue n % 8 = 0 ∧ n + 64 ≤ rotacDue n ∧ rotacDue n < n + 72) ∧
    Steps (.rotacTakesEffect p) (fun s => (s.core p).pend = some (v, due) ∧ due ≤ s.dcyc)
      (fun s => s.setCore p { s.core p with rotac := v, pend := none }) ∧
    Steps (.rotafStage v) (fun _ => v.getLsbD 63 = false) (fun s => { s with dev := { s.dev with fabric := s.rotafAfter v, portWas := none } }) ∧
    Steps (.rotafCommit v) (fun _ => v.getLsbD 63 = true) (fun s => { s with dev := { s.dev with fabric := s.rotafAfter v, portWas := none } }) ∧
    (∀ s : State, v.getLsbD 63 = true → rotafBad v = false → v.getLsbD 62 = false → s.rotafOk s.dev.fabric.stage (v.toNat / 2 ^ 16 % 8) = true →
      (s.rotafAfter v).pend = some (s.dev.fabric.stage, v.toNat / 2 ^ 16 % 8, s.dcyc + 1024) ∧ (s.rotafAfter v).refused = false) ∧
    Steps .rotafTableInForce (fun s => s.dev.fabric.pend = some (t, flen, due) ∧ due ≤ s.dcyc)
      (fun s => { s with dev := { s.dev with
        fabric := { s.dev.fabric with table := t, flen := flen, pend := none }
        portWas := s.dev.portWas.map fun x => (x.1, x.2.due s.dcyc) } }) ∧
    Steps (.lcmapWrite v) (fun s => s.lcmapOk v = true ∧ v.getLsbD 31 = true) (fun s =>
      { s with dev := { s.dev with lcmap := v } : State }.place (dfield v 5 0) (dfield v 14 6) (dfield v 25 17) (dfield v 35 32)) ∧
    Steps (.lcmapWrite v) (fun s => s.lcmapOk v = true ∧ v.getLsbD 31 = false) (fun s =>
      { s with dev := { s.dev with lcmap := v } : State }.unplace (dfield v 5 0) (dfield v 14 6)) ∧
    Steps (.lcmapWrite v) (fun s => s.lcmapOk v = false) id ∧
    Steps (.lovfWrite o 0) (fun s => (s.owner? o).isSome = true)
      (fun s => s.modOwner o fun w => { w with lovf := 0, staged := [], dist := { w.dist with read := none, stuck := false } }) ∧
    Steps (.lovfWrite o v) (fun s => (s.owner? o).isSome = true ∧ v ≠ 0) id ∧
    Steps (.parkbaseWrite o v) (fun s => (s.owner? o).isSome = true) (fun s => s.writeParkbase o v) ∧
    Steps (.qtimeoutWrite o a) (fun s => (s.owner? o).isSome = true)
      (fun s => s.modOwner o fun w => { w with qtimeout := if 4096 < a.toNat then 4096 else a }) ∧
    Steps (.jswapWrite o a) (fun s => (s.owner? o).isSome = true) (fun s => s.modOwner o fun w => { w with jswap := a, jswapAt := s.ownerNow o }) ∧
    Steps .intdropWrite (fun _ => True) (fun s => { s with dev := { s.dev with intdrop := 0 } })

/-- The phases of a swap follow its turns: begin, quiet end at 4,096, save at 6,144, on the state that the drain leaves, restore at 49,835,
rebind at 93,526, complete at 98,304 (R129 to R133); that the drain moves its bytes at the save is the model's reading (log 27); a slot saved empty fills when the link is up and no effect of its
owner is late, on the part or in an image (R131). -/
def Obligations.SwapPhasesFollowItsTurns : Prop :=
  ∀ (p id : Nat) (w : Swap) (m : Option Image) (r : Nat),
    let in_ (s : State) : Prop := (s.core p).swap = some w
    let at_ (s : State) (j : Nat) : Prop := in_ s ∧ (∃ n, w.turns = some n ∧ j ≤ n) ∧ s.swapTurn p w = true ∧ s.notDealt p = true
    Steps (.swapBegin p) (fun s => in_ s ∧ w.turns = none ∧ w.start ≤ s.dcyc ∧ s.swapTurn p w = true) (fun s =>
      let s1 := s.setSwap p { w with turns := some 0, quiet := w.force }
      if w.force = true then s1.freeze w.out (.swap p) else s1) ∧
    Steps (.swapQuietEnd p) (fun s => w.quiet = false ∧ (at_ s 4096 ∨ (in_ s ∧ w.turns ≠ none ∧ s.coreQuiet w.out p = true)))
      (fun s => (s.setSwap p { w with quiet := true }).freeze w.out (.swap p)) ∧
    Steps (.swapSavePhase p) (fun s => at_ s 6144 ∧ w.quiet = true ∧ w.saved = false ∧ w.nosave = true) (fun s =>
      ((s.onCore w.out p).foldl (fun x l => match x.drainCore w.out l.num with
        | (y, some l') => y.discardCore l'
        | (y, none) => y) s).setSwap p { w with saved := true, result := 0 }) ∧
    (∀ l y l', Steps (.swapSavePhase p) (fun s => at_ s 6144 ∧ w.quiet = true ∧ w.saved = false ∧ w.nosave = false ∧ s.onCore w.out p = [l] ∧
        s.drainCore w.out l.num = (y, some l'))
      (fun _ => (y.saveCore l' w.save w.force).1.setSwap p { w with
        saved := true, result := if (y.saveCore l' w.save w.force).2 = true then 0 else 1 })) ∧
    Steps (.swapRestorePhase p) (fun s => at_ s 49835 ∧ w.saved = true ∧ w.read = false ∧ s.swapLoad p w = .ok m)
      (fun s => s.setSwap p { w with read := true, loaded := m }) ∧
    Steps (.swapRestorePhase p) (fun s => at_ s 49835 ∧ w.saved = true ∧ w.read = false ∧ s.swapLoad p w = .error r)
      (fun s => s.setSwap p { w with read := true, result := r }) ∧
    Steps (.swapRebind p) (fun s => at_ s 93526 ∧ w.read = true ∧ w.bound = false) (fun s => s.setSwap p { w with bound := true }) ∧
    Steps (.swapComplete p) (fun s => at_ s 98304 ∧ w.bound = true ∧ w.queue = none ∧ w.reset = false) (fun s => s.endSwap p w) ∧
    (∀ q, Steps (.swapComplete p) (fun s => at_ s 98304 ∧ w.bound = true ∧ w.queue = some q) (fun s => (s.endSwap p w).endCommand 0 q 0)) ∧
    let empty (s : State) (a : Acc) : Bool := a.id == id && a.slot && !s.isLate a.strand.owner
    Steps (.drainSlotArrival id) (fun s => s.dev.link = true ∧ ((∃ a ∈ s.accs, empty s a = true) ∨
        ∃ m ∈ s.images, ∃ a ∈ m.accs, empty s a = true)) (fun s => { s with
      accs := modWhere s.accs (empty s) fun a => { a with slot := false }
      images := s.images.map fun m => { m with accs := modWhere m.accs (empty s) fun a => { a with slot := false } } })

/-- A DRAINING tile with nothing in flight is FREE and empty; a waiting TALLOC is granted; a copy's next unit lands when it is due, a copy that
waited on a page goes on, an ended copy leaves; the first MAT command starts at S and ends at END; the waits of TWANY, TWALL, SWAIT, BWAIT and
GSYNC end (R169, R180 to R191, R192, R195, R364, R402, R451). That a stream whose wait has ended issues again from the next owner cycle on (log 70),
what a copy that waited starts again with (log 36), what a barrier's settling takes in (log 37), and that the state of a MAT command's logical core
comes into the bank before the command reads it (log 51) are the model's choices and readings. -/
def Obligations.TileCopyMatrixAndWaitSteps : Prop :=
  ∀ (o lc h id due n : Nat) (i : StrandId) (t : Strand) (l l' : LCore) (w : Owner) (g : Group) (x : XOps) (level : TLevel) (c : Copy)
    (a b m : DWord) (v : Word) (k : MatCmd) (ks : List MatCmd) (out : MatOut) (s' : State),
    let cur : Cur := ⟨i, none⟩
    let lat (s : State) : Nat := s.lcNow l.owner l.num
    let mine (s : State) : Prop := s.lcore? i.owner i.lcore = some l
    Steps (.tileDrainComplete o lc h) (fun s => s.lcore? o lc = some l ∧ (l.tile h).st = .draining ∧ (l.tile h).uses = 0)
      (fun s => s.modLcore o lc fun q => q.setTile h ⟨.free, (l.tile h).gen, 0, 0, 0, 0, 0, [], []⟩) ∧
    Steps (.tallocPickGrant i) (fun s => waitOf s cur = some ⟨.talloc x level, id, [a, b], n⟩ ∧ s.strand? i = some t ∧ mine s ∧
        s.owner? i.owner = some w ∧ s.group? t.grp = some g ∧ tallocDecide l w.orec g.id g.quota level.code a.lo b.lo = some (l', v))
      (fun s => (s.modLcore i.owner i.lcore fun _ => l').complete cur (some 4) fun c => c.fill x.d [v]) ∧
    Steps (.copyUnitLands id) (fun s => s.copy? id = some (l, c) ∧ c.sendsRead s l (lat s) = false ∧ l.landing c = some due ∧
        due ≤ lat s ∧ c.ended = false ∧ c.waits = false ∧ c.need = 0 ∧ landUnit s l c (lat s) = .ok s') (fun _ => s') ∧
    Steps (.copyPageGranted id) (fun s => s.copy? id = some (l, c) ∧ c.ended = false ∧ c.waits = true ∧
        ∀ va, landUnit s l c (lat s) ≠ .error (.wait va))
      (fun s => s.modCopy l id fun c => { c with waits := false, base := some (max (lat s + 400) c.landed, c.moved) }) ∧
    Steps (.copyComplete id) (fun s => s.copy? id = some (l, c) ∧ c.ended = true) (fun s =>
      ((s.modLcore l.owner l.num fun l => l.endCopy c (s.lcNow l.owner l.num) (((s.strand? c.strand).map (·.batch.toNat)).getD 0)
        s.nextId).closeTransfer id).fresh) ∧
    Steps (.matCommandStart id) (fun s => s.matOwner? id = some l ∧ l.mats = k :: ks ∧ k.id = id ∧ k.out = none ∧ k.tag = none ∧
        max (k.entered + matLead k.op) l.matEnd ≤ lat s ∧ (s.bankIn l).lcore? l.owner l.num = some l') (fun s =>
      (s.bankIn l).modLcore l.owner l.num fun q => { q with
      mats := modWhere q.mats (fun y => y.id == id) fun _ => { k with
        out := some (matCompute l' k.grp k.op), ends := lat s + matOcc ((l'.latch.map (·.ty)).getD 0) k.op } }) ∧
    Steps (.matCommandEnd id) (fun s => s.matOwner? id = some l ∧ (l.mats.find? fun m => m.id == id) = some k ∧ k.out = some out ∧
        k.ends ≤ lat s ∧ k.macro_ = none ∧ k.tag = none) (fun s => s.modLcore l.owner l.num fun q => LCore.leaveMat (match out with
      | .writes ws => { q with tbuf := q.tbuf ++ ws }
      | .latch y => { q with latch := some y }
      | .codebook cb => { q with codebook := some cb }) k (lat s)) ∧
    Steps (.twanyReturn i) (fun s => waitOf s cur = some ⟨.twany x, id, [m], n⟩ ∧ mine s ∧
        ((∃ g ∈ tagsOf m, (l.tag g).bit = true) ∨ ∀ g ∈ tagsOf m, (l.tag g).count = 0))
      (fun s => s.complete cur (some 4) fun c => c.fill x.d (l.report ((tagsOf m).find? fun g => (l.tag g).bit))) ∧
    Steps (.twallReturn i) (fun s => waitOf s cur = some ⟨.twall x, id, [m], n⟩ ∧ mine s ∧ ∀ g ∈ tagsOf m, (l.tag g).count = 0)
      (fun s => s.complete cur (some 4) fun c => c.fill x.d (l.report ((tagsOf m).find? fun g => (l.tag g).code != 0))) ∧
    Steps (.swaitComplete i) (fun s => waitOf s cur = some ⟨.swait x, id, [m], n⟩ ∧ s.strand? i = some t ∧ swaitPending s t m.lo = false)
      (fun s => s.complete cur none fun _ => []) ∧
    Reaches (.bwaitRelease i) (fun s => waitOf s cur = some ⟨.bwait x, id, [m], n⟩ ∧ mine s ∧
        ((l.settleBars.bar m.toNat).expected = 0 ∨ (l.settleBars.bar m.toNat).expected.toNat ≤ (l.settleBars.bar m.toNat).arrived.toNat))
      (fun s u => u = barAcquire ((s.modLcore i.owner i.lcore fun _ => (l.settleBars.takeBar m.toNat).2).complete cur (some 4)
        fun c => c.fill x.d (l.settleBars.takeBar m.toNat).1) cur l.settleBars m.toNat) ∧
    Reaches (.gsyncComplete h) (fun s => s.group? h = some g ∧ g.gsDue = some due ∧ due ≤ s.lcNow g.owner g.lcore)
      (fun s u => u.mem = s.mem ∧ u.owners = s.owners ∧ u.lcores = s.lcores ∧ u.accs = s.accs)

/-- The lanes of an access act one at a time, the lowest first whose act cycle has come and before which every lane that must act has acted, a
FESET's all at once, each setting or clearing the bits of its run of words and no other bit, and no byte; a lane retries, is woken or
returns SPURIOUS when due, without binding a window of its own (the model's choice, log 66); XLAT, LAUNCH, WLPUT and WLGET act when due (R208, R213, R217, R221 to R225, R228, R247, R276, R287 to R289, R394). What a kill leaves
parked goes in a step of its own (R39, R224). -/
def Obligations.MemorySideSteps : Prop :=
  ∀ (id lane due k n : Nat) (a : Acc) (l : LaneAcc) (x : XOps) (p : Page) (q : Place) (w : Owner) (st : Nat) (by_ : Bool),
    let there (s : State) : Prop := (s.accs.find? fun a => a.id == id) = some a
    let laned (s : State) : Prop := there s ∧ (a.lanes.find? fun l => l.lane == lane) = some l
    let tried (s : State) (k : Nat) (retry spill : Bool) : State :=
      { ((s.acting a).tryLane a l (a.now s) k retry spill).settle id (a.now s) with actClock := none }
    let free (s : State) : Prop := there s ∧ isMemory a.instr = true ∧ a.need = 0 ∧ s.accWaits a = false
    let can (s : State) (l : LaneAcc) : Bool := l.st == .todo && decide (l.due ≤ a.now s) && s.laneFree a l
    Steps (.memoryAccessAct id) (fun s => there s ∧ a.purgeable (a.now s) = true) (fun s => s.purge a (a.now s)) ∧
    Reaches (.memoryAccessAct id) (fun s => free s ∧ a.purgeable (a.now s) = false ∧ (∀ x m, a.instr ≠ .feset x m) ∧
        a.lanes.find? (can s) = some l) (fun s u =>
      let t := (s.acting a).tryLane a l (a.now s) 0 false false
      (∃ b ∈ t.accs, b.id = id ∧ ∃ l ∈ b.lanes, l.st = .todo) ∧ u = { t.settle id (a.now s) with actClock := none } ∨
      (∀ b ∈ t.accs, b.id = id → ∀ l ∈ b.lanes, l.st ≠ .todo) ∧ u = { (t.tickAct a).settle id (a.now s) with actClock := none }) ∧
    Reaches (.memoryAccessAct id) (fun s => free s ∧ (∃ x m, a.instr = .feset x m) ∧ a.lanes ≠ [] ∧ ∀ l ∈ a.lanes, can s l = true)
      (fun s u => u.hostMem = s.hostMem ∧ u.dcyc = s.dcyc) ∧
    (∀ (m : MemMod) (o : Owner),
      let run (s : State) (l : LaneAcc) (ws : List FeWord) : Prop := ∃ p, lanePage s a l.va = .ok p ∧ wordsNat l.data ≤ 16384 ∧
        l.va + 4 * wordsNat l.data ≤ p.base + p.size ∧ ∃ vs, feWords s a p l.va (max 1 (wordsNat l.data)) = .ok vs ∧
        ws = vs.take (wordsNat l.data)
      Reaches (.memoryAccessAct id) (fun s => free s ∧ a.instr = .feset x m ∧ a.lanes ≠ [] ∧ (∀ l ∈ a.lanes, can s l = true) ∧
          s.owner? a.strand.owner = some o ∧ o.parkbase = 0 ∧ ∀ l ∈ a.lanes, ∃ ws, run s l ws)
        (fun s u => u.mem = s.mem ∧ u.hostMem = s.hostMem ∧
          (∀ l ∈ a.lanes, ∀ ws, run s l ws → ∀ q ∈ ws, u.isFull (q.pa / 4) = decide (m.fef = .filling)) ∧
          ∀ k, (∀ l ∈ a.lanes, ∀ ws, run s l ws → ∀ q ∈ ws, q.pa / 4 ≠ k) → u.isFull k = s.isFull k)) ∧
    Steps (.feRetryAttempt id lane) (fun s => laned s ∧ l.st = .retry due k ∧ due ≤ a.now s) (fun s => tried s k false false) ∧
    Steps (.feRetryAttempt id lane) (fun s => laned s ∧ l.st = .over due ∧ due ≤ a.now s) (fun s => tried s 0 false true) ∧
    Steps (.wokenRetry id lane) (fun s => laned s ∧ l.st = .woken due n by_ ∧ due ≤ a.now s) (fun s => tried s 0 true false) ∧
    Steps (.waitaSpuriousReturn id lane) (fun s => laned s ∧ l.st = .spurious due ∧ due ≤ a.now s) (fun s => tried s 0 true false) ∧
    Reaches (.xlatAct id) (fun s => there s ∧ a.instr = .xlat x ∧ a.lanes = [l] ∧ a.due ≤ s.lcNow a.strand.owner a.strand.lcore ∧
        s.pageOf a.strand.owner l.va = .ok p ∧ q ≠ .malformed ∧ (p.kind = 1 → s.placeIn a.strand.owner p l.va = .ok q))
      (fun s u => u.mem = s.mem ∧ u.accs = s.accs.filter (fun b => b.id != a.id)) ∧
    (∀ pa, Reaches (.launchAct id) (fun s => there s ∧ a.instr = .launch x ∧ a.lanes = [l] ∧ a.need = 0 ∧
        a.due ≤ s.lcNow a.strand.owner a.strand.lcore ∧ s.accFree a = true ∧ launchPlace s a l = .ok pa) (fun s u =>
      u = ((s.acceptLaunch a.strand.owner a.strand.lcore ((s.ownerNow a.strand.owner).getD 0) l.va (s.bytes pa 64)).1.endAct a x.d a.resultLanes
        (BitVec.ofNat 32 (s.acceptLaunch a.strand.owner a.strand.lcore ((s.ownerNow a.strand.owner).getD 0) l.va (s.bytes pa 64)).2)).actedAt a l
          (s.lcNow a.strand.owner a.strand.lcore))) ∧
    Steps (.wlputAct id) (fun s => there s ∧ a.instr = .wlput x ∧ s.owner? a.strand.owner = some w ∧ a.due ≤ a.now s ∧
        s.accFree a = true) (fun s =>
      let k := (a.lanes.map (·.va)).headD 0
      let r := putItems w.orec.wlcap (w.wlist k) a.lanes
      ((a.lanes.foldl (fun s l => s.actedAt a l (a.now s)) s).modOwner w.id fun w => { w with lists := tblSet [] w.lists k r.1 }).endWl a x.d fun l => [if r.2.contains l then 1 else 0]) ∧
    Steps (.wlgetAttempt id) (fun s => there s ∧ a.instr = .wlget x ∧ s.owner? a.strand.owner = some w ∧ a.lanes.head? = some l ∧
        a.due ≤ a.now s ∧ s.accFree a = true ∧ w.wlist l.va = [] ∧ s.quiescent w (wlSet l.va l.status) = true)
      (fun s => (a.lanes.foldl (fun s l => s.actedAt a l (a.now s)) s).endWl a x.d fun _ => [0, 0x10000]) ∧
    Steps (.wlgetAttempt id) (fun s => there s ∧ a.instr = .wlget x ∧ s.owner? a.strand.owner = some w ∧ a.lanes.head? = some l ∧
        a.due ≤ a.now s ∧ s.accFree a = true ∧ w.wlist l.va = [] ∧ s.quiescent w (wlSet l.va l.status) = false ∧ a.killed = false)
      (fun s => { s with accs := modWhere s.accs (fun b => b.id == id) fun b => { b with
        due := a.now s + 64, lanes := b.lanes.map fun l => { l with st := .retry (a.now s + 64) 1 } } }) ∧
    Reaches (.wlgetAttempt id) (fun s => there s ∧ a.instr = .wlget x ∧ s.owner? a.strand.owner = some w ∧ a.lanes.head? = some l ∧
        a.due ≤ a.now s ∧ s.accFree a = true ∧ st = min (w.wlist l.va).length a.lanes.length ∧ w.wlist l.va ≠ [])
      (fun s u => u.mem = s.mem ∧ ∃ v, u.owner? w.id = some v ∧ v.wlist l.va = tblGet [] (tblSet [] w.lists l.va ((w.wlist l.va).drop st)) l.va)

/-- The commands of a CLAUSE array: the first starts at S = max(I, E of the one before); a CAPROP round completes at S + 8k, which is the
model's reading (log 39: R265 gives E alone); CALOAD writes a column every 2 owner cycles; at E the command acts and its result is written
(R256 to R268). -/
def Obligations.ClauseArraySteps : Prop :=
  ∀ (o k n b f now st e : Nat) (a : ClauseArray) (m : ClauseCmd) (l : LCore) (d : Desc),
    let first (s : State) : Prop := firstClause s o k = some (a, m, l, now)
    let put (s : State) (a : ClauseArray) (g : ClauseCmd → ClauseCmd) : State := s.setClause o k { a with cmds := a.cmds.modify 0 g }
    Steps (.clauseCommandStart o k) (fun s => first s ∧ m.start = none ∧ max m.issued a.lastEnd ≤ now ∧ m.op.occupancy = some e ∧
        (∀ d f n, m.op ≠ .load d f n) ∧ ∀ d, m.op ≠ .learn d) (fun s => put s a fun m => { m with
      start := some (max m.issued a.lastEnd), ends := m.op.occupancy.map (max m.issued a.lastEnd + ·), out := [], row := 0 }) ∧
    (∀ p, Reaches (.clauseCommandStart o k) (fun s => first s ∧ m.start = none ∧ max m.issued a.lastEnd ≤ now ∧
        (m.op = .prop p ∨ m.op = .learn d ∨ m.op = .load d f n)) (fun s u => u.mem = s.mem ∧ u.lcores = s.lcores)) ∧
    Reaches (.capropRound o k) (fun s => first s ∧ m.op = .prop b ∧ m.start = some st ∧ m.ends = none ∧ st + 8 * (m.step + 1) ≤ now)
      (fun s u => u = put s a.round.1 fun m => match a.round.2 with
        | .conflict c => { m with step := m.step + 1, ends := some (st + 12 + 8 * (m.step + 1)), out := [1, BitVec.ofNat 32 c] }
        | .quiet => { m with step := m.step + 1, ends := some (st + 12 + 8 * (m.step + 1)), out := [0, BitVec.ofNat 32 a.round.1.trail.length] }
        | .progress => if m.step + 1 = b
          then { m with step := m.step + 1, ends := some (st + 12 + 8 * (m.step + 1)), out := [2, BitVec.ofNat 32 a.round.1.trail.length] }
          else { m with step := m.step + 1 }) ∧
    Steps (.caloadColumnWrite o k) (fun s => first s ∧ m.op = .load d f n ∧ m.start = some st ∧ m.step < n ∧ st + 18 + 2 * m.step ≤ now ∧
        malformed (columnOf l d m.step) = false)
      (fun s => put s (a.putColumn (f + m.step) (columnOf l d m.step) true) fun m => { m with step := m.step + 1 }) ∧
    Steps (.clauseCommandEnd o k) (fun s => first s ∧ m.ends = some e ∧ e ≤ now ∧ ∀ d f n, m.op = .load d f n → n ≤ m.step) (fun s =>
      ((s.setClause o k { (a.finish m).1 with cmds := (a.finish m).1.cmds.drop 1, lastEnd := e }).modLcore o m.strand.lcore fun l =>
        l.dropAll m.op.tiles).clauseResult m (a.finish m).2)

/-- What a CLAUSE command does at its end: CADEC assigns a free variable at a new level, CABACK undoes the trail above a level, CAVAL reads a
variable's record, CATRAIL an entry of the trail, CADEL disables a column (R263, R264, R266, R267). A command that a drain brought to its end
has done so before (R131, R270). -/
def Obligations.ClauseCommandEffects : Prop :=
  ∀ (a : ClauseArray) (m : ClauseCmd) (w : Word) (v i c l : Nat), (m.done = true → a.finish m = (a, m.out)) ∧ (m.done = false →
    (m.op = .dec w → recordVal (a.rowOf (field w 9 0)) = 0 → a.level < 1023 →
      (a.finish m).1.level = a.level + 1 ∧ (a.finish m).2 = [BitVec.ofNat 32 ((a.level + 1) * 2 ^ 16)] ∧
      (a.finish m).1.trail = a.trail ++ [(field w 9 0, recordWord (if w.getLsbD 10 then 2 else 1) (a.level + 1) 0x1000)]) ∧
    (m.op = .dec w → recordVal (a.rowOf (field w 9 0)) ≠ 0 → (a.finish m).1 = a ∧ (a.finish m).2 = [BitVec.ofNat 32 (1 + a.level * 2 ^ 16)]) ∧
    (m.op = .back l → l < a.level → (a.finish m).1.level = l ∧
      ∃ cut, a.trail = (a.finish m).1.trail ++ cut ∧ (∀ e ∈ cut, l < recordLevel e.2) ∧
        ∀ e, (a.finish m).1.trail.getLast? = some e → recordLevel e.2 ≤ l) ∧
    (m.op = .back l → a.level ≤ l → (a.finish m).1 = a) ∧
    (m.op = .val v → a.finish m = (a, [a.rowOf v])) ∧
    (∀ v w, m.op = .trail i → a.trail[i]? = some (v, w) → a.finish m = (a, [w, BitVec.ofNat 32 v])) ∧
    (m.op = .trail i → a.trail.length ≤ i → a.finish m = (a, [0xFFFFFFFF, 0xFFFFFFFF])) ∧
    (m.op = .del c → c ∉ (a.finish m).1.enabled ∧ (a.finish m).1.trail = a.trail ∧ (a.finish m).1.rows = a.rows))

/-- The distributor takes a step when it has something to do, and reads the head of the overflow list 400 indices after its choice; JOIN observes
zero, swaps out after JSWAP owner cycles and back in; a cancelled strand stops at a quiet point or is killed at QTIMEOUT; a launch whose strands
all wait on parked lanes for 65,536 owner cycles is killed (R276 to R280, R283, R286, R291). -/
def Obligations.DistributorJoinAndCancelSteps : Prop :=
  ∀ (o comp now addr due : Nat) (i : StrandId) (t : Strand) (w : Owner) (x : XOps) (id since : Nat) (k : DWord) (act : DistAct) (l : Launch),
    let owns (s : State) : Prop := s.owner? i.owner = some w
    let own0 (s : State) : Prop := s.owner? o = some w ∧ s.ownerNow o = some now
    Reaches (.distributorStep o) (fun s => own0 s ∧ w.dist.next ≤ now ∧ s.distAct w now = some act)
      (fun s u => u.mem = s.mem ∧ u.lcores = s.lcores ∧ u.accs = s.accs) ∧
    Steps (.distributorStep o) (fun s => own0 s ∧ w.dist.next ≤ now ∧ s.distAct w now = some (.read addr)) (fun s =>
      (s.modOwner o (·.stepTaken now)).modOwner o fun w => { w with dist := { w.dist with read := some (addr, now + 400) } }) ∧
    Reaches (.overflowRecordRead o) (fun s => own0 s ∧ w.dist.read = some (addr, due) ∧ due ≤ now) (fun s u => u.mem = s.mem ∧ u.lcores = s.lcores) ∧
    (let waits (s : State) : Prop := s.strand? i = some t ∧ t.ctl.wait = some ⟨.join x, id, [k], since⟩ ∧ owns s
     Steps (.joinObserveZero i) (fun s => waits s ∧ t.res = .here ∧ (w.before k.toNat).count = 0)
      (fun s => s.complete ⟨i, none⟩ (some 4) fun c => c.fill x.d [(w.before k.toNat).word false]) ∧
     Steps (.joinSwapOut i) (fun s => waits s ∧ w.jswap ≠ 0 ∧ t.res = .here ∧ since + w.jswap.toNat ≤ s.lcNow i.owner i.lcore ∧
        (w.before k.toNat).count ≠ 0 ∧ s.swapped i.owner i.lcore < 32 ∧ s.quietAt t (some id) = true ∧ t.quietBy = none ∧
        (w.jswapAt = none ∨ w.jswapAt ≠ s.ownerNow i.owner))
      (fun s => s.beginLeave t true) ∧
     Reaches (.joinSwapIn i) (fun s => waits s ∧ s.ownerNow i.owner = some now ∧ t.res = .out ∧ t.joinOut = true ∧
        (w.before k.toNat).count = 0 ∧ w.dist.next ≤ now ∧ s.roomFor t = true) (fun s u => u.mem = s.mem ∧ u.accs = s.accs)) ∧
    Steps (.cancelStrandStop i) (fun s => s.strand? i = some t ∧ t.quietBy ≠ none ∧ t.killed = false ∧ t.cst = .run ∧ t.res = .here ∧
        s.quietAt t none = true) (fun s => s.modStrand i fun t => { t with
      cst := .exited, ctl := t.ctl.stopped, sets := t.sets.map fun g => { g with st := .stopped, str := g.str.stopped } }) ∧
    Steps (.cancelQtimeoutKill i) (fun s => s.strand? i = some t ∧ t.quietBy = some due ∧ due ≤ s.lcNow i.owner i.lcore ∧ t.killed = false ∧
        (t.cst ≠ .exited ∨ ∃ g ∈ t.sets, g.st ≠ .stopped)) (fun s => s.killStrand i) ∧
    Reaches (.strandedDetect o comp) (fun s => own0 s ∧ (w.launches.find? fun l => l.lrec.comp == comp && l.parked.isSome) = some l ∧
        l.parked = some due ∧ due + 65536 ≤ now) (fun s u => ((∀ a ∈ s.accs, a.betweenGets = false) → u.accs.length = s.accs.length) ∧ u.hostMem = s.hostMem)

/-- A control stream whose results are written enters its handler; a trap record is stored when due and then counted in PUT; a control stream that
waits for 2^24 owner cycles traps with 0x15; a pre-emption quiets, drains and saves in turn; an INTR record is stored when due; a freeze that is
over ends; the window 32 ahead is released (R299, R300, R307 to R311, R404, R116, R120). That a stored record and its count are full words (log 42),
and that the save of a pre-emption makes its drain in its own step (log 27), are the model's readings. -/
def Obligations.TrapPreemptAndFreezeSteps : Prop :=
  ∀ (id o lc off pa now : Nat) (i : StrandId) (t : Strand) (tr : Trap) (since port : Nat) (l : LCore) (r : TrapRec) (w : Owner) (p : Preempt)
    (q : IntrRec) (tn : Turn) (s1 : State) (till : Nat),
    let own (s : State) : Prop := s.owner? o = some w ∧ w.preempt = some p
    let rec_ (s : State) : Prop := s.lcores.findSome? (fun l => (l.trecs.find? fun r => r.id == id).map (l, ·)) = some (l, r) ∧
      s.owner? l.owner = some w ∧ r.due ≤ s.lcNow l.owner l.num ∧ l.resident = true ∧ Freeze.record id ∉ w.freezes
    Steps (.trapInPlaceEntry i) (fun s => s.strand? i = some t ∧ t.ctl.trap = some ⟨tr, .entry, since, port⟩ ∧ ∀ r ∈ t.ctl.res, r.written = true)
      (fun s => s.trapEntry i tr) ∧
    Steps (.trapRecordStore id) (fun s => rec_ s ∧ r.put = true ∧ s.queuePa w 0 = some pa) (fun s =>
      (s.store w.id (w.parkbase.toNat + 0x40000) pa (numBytes 4 ((w.tput + 1 - s.unpublished w.id) % 2 ^ 32)) (some true) false none).modLcore
        l.owner l.num fun l => { l with trecs := l.trecs.filter fun q => q.id != id }) ∧
    Steps (.trapRecordStore id) (fun s => rec_ s ∧ r.put = false ∧ off = 128 + 32 * (w.tput % 2044) ∧ s.queueFull w = some false ∧
        s.queuePa w off = some pa) (fun s =>
      (((s.store w.id (w.parkbase.toNat + 0x40000 + off) pa (r.words.flatMap fun x => numBytes 4 x.toNat) (some true) false none).modOwner w.id
        fun w => { w with tput := w.tput + 1 }).modLcore l.owner l.num fun q => q.modRec id fun r => { r with
          put := true, due := s.lcNow l.owner l.num + 1 }).placeFree l.owner l.num) ∧
    Steps (.watchdogTrap i) (fun s => s.strand? i = some t ∧ t.res = .here ∧ t.killed = false ∧ t.cst = .run ∧ t.ctl.trap = none ∧
        s.longWlget t (s.lcNow i.owner i.lcore) = none ∧ t.ctl.wait = none ∧ t.ctl.stood + 2 ^ 24 ≤ s.lcNow i.owner i.lcore ∧
        s.fenceOnParked t = false ∧ ∀ x, s.nextInstr i t.ctl.pc ≠ some (.join x))
      (fun s => s.takeTrap ⟨i, none⟩ ⟨0x15, 0, 0, 0xF⟩ false) ∧
    Reaches (.preemptQuietEnd o) (fun s => own s ∧ p.phase = .quiet till ∧ s.atIndexEnd o = true ∧
        (s.preemptQuiet o p = true ∨ ∃ n, s.ownerNow o = some n ∧ till ≤ n))
      (fun s u => ∃ n, n ≤ 2048 ∧ u = ({ s with freeN := s.freeN + 1 }.modOwner o fun w => { w with preempt := some { p with
        phase := .drain n } }).freeze o .preempt) ∧
    Steps (.preemptDrainEnd o) (fun s => own s ∧ p.phase = .drain 0 ∧ (s.atIndexEnd o = true ∨ p.forced = true) ∧
        ∀ t, s.turn = some t → t.owner ≠ o)
      (fun s => (s.saveEntries o p).1.modOwner o fun w => { w with preempt := some { p with phase := .save (s.saveEntries o p).2 } }) ∧
    (∀ left, Steps (.preemptSaveEnd o) (fun s => own s ∧ p.phase = .save left ∧ ∀ x ∈ left, x.2 = 0) (fun s =>
      ((s.modOwner o fun w => { w with preempt := none }).thaw o .preempt).endCommand 0 p.queue 0)) ∧
    (let now (s : State) : Nat := s.lcNow q.strand.owner q.strand.lcore
     let intr (s : State) : Prop := (s.intrs.find? fun r => r.id == id) = some q ∧ q.due ≤ now s
     let gone (s : State) : State := { s with intrs := s.intrs.filter fun r => r.id != id }
     Steps (.intrRecordStore id) (fun s => intr s ∧ q.put = true ∧ (gone s).logPublish q.strand.owner = .ok s1) (fun _ => s1) ∧
     Steps (.intrRecordStore id) (fun s => intr s ∧ q.put = false ∧ s.intrHeld q = false ∧ (∀ r ∈ s.log, r.owner ≠ q.strand.owner) ∧
        (gone s).logPlace ⟨q.strand.owner, 9, q.code, q.ogen, q.stamp, [q.value.toNat]⟩ = .ok (s1, true)) (fun s =>
      { s1 with intrs := s1.intrs ++ [{ q with put := true, due := now s + 1 }] })) ∧
    Reaches (.ownerFreezeEnd o) (fun s => s.owner? o = some w ∧ ∃ f ∈ w.freezes, s.freezeOver w f = true) (fun s u => u.hostMem = s.hostMem) ∧
    Reaches (.windowCommitPoint o lc) (fun s => s.turn = some tn ∧ tn.owner = o ∧ tn.lc = lc ∧ tn.slot = 4 ∧ s.lcore? o lc = some l)
      (fun s u => u.turn = some { tn with slot := 5 } ∧ (s.remotes = [] → u.mem = s.mem) ∧ u.dcyc = s.dcyc) ∧
    Steps (.coreCycle now) (fun s => (s.turn = none ∨ ∃ t, s.turn = some t ∧ (5 ≤ t.slot ∨ s.lcore? t.owner t.lc = none)) ∧
      s.coreNow = now) (fun s => s.closeTurn.goOn)

/-- A command that has been taken acts and ends in its step: LAUNCH, OPEN, CLOSE, CANCEL of any owner; OCREATE, ODESTROY, LOAD, RESTORE, PAUSE, RESUME,
ROTA, RESOLVE, UNMAP, STATS, CLEARBOOT of owner 0 (R324, R330, R333, R342, R353). ENQUEUE answers its status; a command is taken from the
queue whose turn it is (R328 to R332). A CANCEL of a counter at or above CTRQ answers 1, which is the model's reading (log 30); a CLEARBOOT of a step byte
outside 1 to 11 answers 0 and changes nothing, which is its choice (log 68). PREEMPT and ORESET of an owner that is not there end with 4, and SWAP
of a refused form with its status. -/
def Obligations.CommandsActAndEnd : Prop :=
  ∀ (o q asid : Nat) (c : Command) (w w0 : Owner) (x : Queue),
    let num (off n : Nat) : Nat := cmdNum c off n
    let ends (i : Instr) (op : Nat) (f : State → State × Nat) : Prop :=
      Steps i (fun s => s.taken? 0 op c = some q ∧ s.owner? 0 = some w0) fun s => (f s).1.endCommand 0 q (f s).2
    let owns (i : Instr) (op : Nat) (f : State → State × Nat) : Prop :=
      Steps i (fun s => s.taken? o op c = some q ∧ s.owner? o = some w) fun s => (f s).1.endCommand o q (f s).2
    owns (.hostLaunch o c) 0x01 (fun s => s.hostLaunch w c) ∧
    owns (.hostOpen o c) 0x02 (fun s => s.hostOpen w c) ∧
    owns (.hostClose o c) 0x03 (fun s => s.hostClose w c) ∧
    owns (.hostCancel o c) 0x04 (fun s => if num 12 4 < w.orec.ctrq then s.cancel w.id (num 8 1) (num 12 4) else (s, 1)) ∧
    ends (.ocreate c) 0x10 (fun s => s.ocreate c) ∧
    ends (.odestroy c) 0x12 (fun s => s.odestroy (num 8 1)) ∧
    ends (.load c) 0x13 (fun s => s.loadCode c) ∧
    ends (.restore c) 0x15 (fun s => s.restore c) ∧
    ends (.pause c) 0x17 (fun s => (s.freeze (num 8 1) .paused, 0)) ∧
    ends (.resume c) 0x18 (fun s => ((s.thaw (num 8 1) .paused).sendHeld (num 8 1), 0)) ∧
    ends (.rota c) 0x19 (fun s => (s.writeRotac (num 8 4) (BitVec.ofNat 64 (num 16 8)),
      if s.rotacOk (num 8 4) (BitVec.ofNat 64 (num 16 8)) then 0 else 5)) ∧
    ends (.resolve c) 0x1A (fun s => (s.modOwner (num 8 1) fun w => w.resolve (num 16 8) (num 9 1 == 1), 0)) ∧
    ends (.unmap c) 0x1B (fun s => (if num 8 1 ≠ 0 ∧ ((s.queue? (num 8 1) (num 9 1)).map (·.slot.isSome)).getD false = true
      then (s.unmapQueue (num 8 1) (num 9 1)).servePending else s, 0)) ∧
    ends (.clearboot c) 0x1D (fun s => ({ s with dev := { s.dev with
      boot := if num 8 1 = 0 then s.dev.boot else s.dev.boot.set (num 8 1 - 1) 0 } }, 0)) ∧
    Reaches (.stats c) (fun s => s.taken? 0 0x1C c = some q ∧ s.owner? 0 = some w0) (fun s u => u.hostMem = s.hostMem ∧ u.dcyc = s.dcyc) ∧
    Steps (.oreset c) (fun s => s.taken? 0 0x11 c = some q ∧ s.owner? (num 8 1) = none) (fun s => s.endCommand 0 q 4) ∧
    Reaches (.oreset c) (fun s => s.taken? 0 0x11 c = some q ∧ s.owner? (num 8 1) = some w ∧ w.reset = false ∧ w.preempt = none ∧
      ∀ p ∈ s.coresOf (num 8 1), (s.core p).swap = none ∧ (s.core p).pend = none) (fun s u => u.hostMem = s.hostMem ∧ u.dcyc = s.dcyc) ∧
    Steps (.preempt c) (fun s => s.taken? 0 0x14 c = some q ∧ s.owner? (num 8 1) = none) (fun s => s.endCommand 0 q 4) ∧
    Reaches (.preempt c) (fun s => s.taken? 0 0x14 c = some q ∧ s.owner? (num 8 1) = some w ∧ w.preempt = none ∧ w.reset = false)
      (fun s u => u.hostMem = s.hostMem ∧ u.dcyc = s.dcyc) ∧
    Steps (.swap c) (fun s => s.taken? 0 0x16 c = some q ∧ (∀ k ∈ s.cores, ∀ w, k.2.swap = some w → w.queue ≠ some q)) (fun s =>
      let st := s.hgateStatus none (BitVec.ofNat 32 (num 8 4)) (BitVec.ofNat 64 (num 16 8)) (BitVec.ofNat 64 (num 24 8))
      if st = 0 then s.schedule (BitVec.ofNat 32 (num 8 4)) (BitVec.ofNat 64 (num 16 8)) (BitVec.ofNat 64 (num 24 8)) (some q)
      else s.endCommand 0 q st) ∧
    Steps (.enqueue asid q c) (fun s => s.dev.on = true ∧ enqueueRejects (s.owners.find? fun w => w.orec.asid == asid) q c = true)
      (fun s => { s with dev := { s.dev with status := s.dev.status ++ [3] } }) ∧
    Steps (.enqueue asid q c) (fun s => s.dev.on = true ∧ (s.owners.find? fun w => w.orec.asid == asid) = some w ∧
        enqueueRejects (some w) q c = false) (fun s => { (s.enqueueTo w q c).1 with
      dev := { (s.enqueueTo w q c).1.dev with status := (s.enqueueTo w q c).1.dev.status ++ [(s.enqueueTo w q c).2] } }) ∧
    Reaches (.commandTake o) (fun s => s.owner? o = some w ∧ s.nextQueue w = some x ∧ s.mayTake w = true) (fun s u =>
      u.mem = s.mem ∧ u.dev.queues = (s.modQueue o x.num fun x => { x with taken := x.cmds.head?, cmds := x.cmds.tail }).dev.queues)

/-- What reaches the part from its memory stacks, links and rails: error counts, storage errors, RFM, a skipped refresh, a retrain, remote packets,
power (R304 to R306, R339 to R349, R352 to R356). Counts and masks of activations come with the events, and the values the spec leaves open are
free (the model's readings and choices, logs 5, 16, 45, 57). A request that fails its CRC is dropped, and the transfer of a reply that fails it is
sent again, which is the model's reading of who sends again (R345, log 45). -/
def Obligations.DeviceEventSteps : Prop :=
  ∀ (e : StorageErr) (banks : List BankCounts) (ws : List Nat) (bank o n amps d : Nat) (up ok : Bool) (p : Packet) (g : Group) (x : Nat × DWord)
    (t : Transfer) (w : Owner) (r : BootReport),
    Steps .correctedError (fun _ => True) id ∧
    Steps (.storageErrorKill e) (fun s => s.chargedTo e = (some g.id, x.1, x.2) ∧ s.group? g.id = some g ∧ g.killed = false)
      (fun s => { s.killGroup g x.1 x.2 with freeN := s.freeN + 1 }) ∧
    Steps (.storageErrorKill e) (fun s => (s.chargedTo e).1 = none) id ∧
    Steps (.errorCountPoll banks ws) (fun _ => True) (fun s =>
      { banks.foldl State.pollBank s with poison := ws.foldl natInsert (banks.foldl State.pollBank s).poison }) ∧
    Steps (.rfmCommand bank o n) (fun s => Config.rfmThreshold (bank / 512) / 2 ^ s.dev.fabric.flen ≤ n ∧
        tblGet 0 s.dev.acts (bank * 64 + if o = 63 ∨ s.untimed o = true then 63 else o) ≤ n ∧ ((o = 63 ∨ s.untimed o = true) → s.released ≠ 0)) (fun s => { s with
      dev := { s.dev with
        acts := tblSet 0 s.dev.acts (bank * 64 + if o = 63 ∨ s.untimed o = true then 63 else o) (n - Config.rfmThreshold (bank / 512) / 2 ^ s.dev.fabric.flen) }
      released := if o = 63 ∨ s.untimed o = true then s.released - 1 else s.released }) ∧
    Steps (.refreshSkip n (BitVec.allOnes 64)) (fun _ => True) (fun s =>
      { s with dev := { s.dev with rowMask := tblSet 0 s.dev.rowMask n 0 }, released := s.released + 1 : State }.serveReleased) ∧
    Steps (.kwayrLinkRetrain up) (fun _ => True) (fun s => { s with dev := { s.dev with link := up } }) ∧
    Steps (.remoteRequestReceive p) (fun s => s.dev.on = true ∧ packetGood p = false ∧ (p.kind = 1 ∨ p.kind = 2)) id ∧
    (∀ i, (i = .remoteReplyReceive p ∧ (p.kind = 3 ∨ p.kind = 4)) ∨ (i = .nackReceive p ∧ p.kind = 5) →
      Steps i (fun s => packetGood p = false ∧ s.replyTo p = none) id ∧
      Steps i (fun s => packetGood p = false ∧ s.replyTo p = some t)
        (fun s => { s with outbox := s.outbox ++ [(t.port, packetOf t t.powner)] })) ∧
    (let asks (s : State) : Prop := (p.kind = 1 ∨ p.kind = 2) ∧ s.dev.on = true ∧ packetGood p = true
     Steps (.remoteRequestReceive p) (fun s => asks s ∧ s.owner? p.down = none) (fun s => s.answer p 5 6 []) ∧
     Steps (.remoteRequestReceive p) (fun s => asks s ∧ s.owner? p.down = some w) (fun s =>
       ({ s.fresh with remotes := s.remotes ++ [⟨s.nextId, p.down, packetWindows p, p⟩] } : State).serveReleased)) ∧
    (∀ (s : State) (q : Remote), (s.remotes.find? fun q => q.id == n) = some q → q.need ≤ 1 →
      s.windowRemote n = ({ s with remotes := s.remotes.filter fun q => q.id != n } : State).serveRemote q.pkt) ∧
    (∀ (s : State) qs k, p.kind = 1 → s.owner? p.down = some w → s.peerOf w p.peer p.sown = some k →
        p.addr.toNat % 4 = 0 → p.addr.toNat + p.len ≤ 2 ^ 56 →
        s.remotePlaces w false ((List.range ((p.len + 3) / 4)).map fun i => p.addr.toNat + 4 * i) = .ok qs →
      s.serveRemote p = s.answer p 3 0 ((qs.flatMap fun x => placeBytes s x.2 4).take p.len)) ∧
    Steps (.remoteReplyReceive p) (fun s => (p.kind = 3 ∨ p.kind = 4) ∧ packetGood p = true ∧ s.replyTo p = some t)
      (fun s => s.modTransfer t.id fun t => { t with reply := some 0, data := if t.write then t.data else p.data }) ∧
    Steps (.nackReceive p) (fun s => p.kind = 5 ∧ packetGood p = true ∧ s.replyTo p = some t)
      (fun s => s.modTransfer t.id fun t => { t with reply := some (max 1 (min 6 p.cause)) }) ∧
    Steps (.remoteTimeout n) (fun s => (s.transfers.find? fun t => t.id == n) = some t ∧ t.sentAt = some d ∧ t.reply = none ∧
        s.owner? t.owner = some w ∧ d + w.rtmo.toNat ≤ s.dcyc) (fun s => s.modTransfer n fun t => { t with reply := some 7 }) ∧
    Steps (.transferResend n) (fun s => (s.transfers.find? fun t => t.id == n) = some t ∧ t.sentAt = some d ∧ t.reply = none)
      (fun s => { s with outbox := s.outbox ++ [(t.port, packetOf t t.powner)] }) ∧
    Steps (.powerOn r) (fun _ => True) (fun s => { State.booted (bootRecord s.dev.boot r) r with hostMem := s.hostMem, inputs := s.inputs, freeN := s.freeN }) ∧
    Steps (.recoveryImageReceive ok) (fun s => s.dev.loader = true) (fun s => { s with dev := { s.dev with
      loader := !ok, boot := if ok = true then s.dev.boot.set 1 0 else s.dev.boot } }) ∧
    Steps (.coreRailOvercurrent amps) (fun s => 6000 < amps ∧ s.dev.on = true)
      (fun s => { s with dev := { s.dev with amps := amps, withheld := some (s.dev.withheld.getD s.dcyc) } }) ∧
    Steps (.tailwaterWithholdEnd amps) (fun s => amps ≤ 6000 ∧ s.dev.withheld ≠ none ∧ s.dev.powerOff = false)
      (fun s => { s with dev := { s.dev with amps := amps, withheld := none } }) ∧
    Reaches .powerFault (fun s => s.dev.withheld = some d ∧ d + 850000 ≤ s.dcyc ∧ 6000 < s.dev.amps ∧ s.dev.powerOff = false)
      (fun s u => u.dev.powerOff = true ∧ u.hostMem = s.hostMem) ∧
    Steps (.powerRecover amps) (fun s => amps < 5400 ∧ s.dev.powerOff = true) (fun s =>
      s.owners.foldl (fun s w => s.thaw w.id .power) { s with dev := { s.dev with powerOff := false, withheld := none, amps := amps } })

/-! ### What issuing, trapping, memory, decoding and stepping come to in general -/

/-- What an instruction leaves that issues (R40, R43, R44, R57, R292): its stream goes on at its next instruction and may issue again `cost`
owner cycles later, 2 after a jump of the control stream; its clock counts one; its result is due `lat` owner cycles later; registers are as
before; and nothing else changes but the pipe or port, the open turn's mark and the count of identities. -/
def Obligations.IssuedInstructionsGoOn : Prop :=
  ∀ (s : State) (c : Ctx) (i : Instr) (cost : Nat) (lat : Option Nat) (ws : List (Nat × Nat × Word)) (pc : Option Word) (t : Strand)
    (x : Stream), s.strand? c.cur.strand = some t → t.killed = false → t.stream? c.cur.set = some x →
  let u := s.issued c i cost lat ws false pc
  let gap := if c.isCtl && pc.isSome then 2 else if s.untimed c.cur.strand.owner = true then 1 else cost
  (∃ t' x', u.strand? c.cur.strand = some t' ∧ t'.stream? c.cur.set = some x' ∧
    x'.pc = pc.getD (x.pc + BitVec.ofNat 32 (4 * i.words)) ∧ x'.ready = c.now + gap ∧ x'.wait = none ∧
    t'.cregs = t.cregs ∧ t'.vregs = t.vregs ∧ t'.n = t.n ∧ t'.priv = t.priv ∧ t'.depth = t.depth ∧ t'.tpc = t.tpc ∧ t'.bmask = t.bmask ∧
    t'.flume = t.flume ∧ t'.rq = t.rq ∧ t'.batch = t.batch ∧
    (atActInDet i = false → c.cur.set = none → t'.lclk = t.lclk + 1) ∧ (c.cur.set ≠ none → t'.lclk = t.lclk) ∧
    (lat = none → t'.pends = t.pends) ∧
    ∀ n, lat = some n → ws ≠ [] → ∃ p, t'.pends = t.pends ++ [p] ∧ p.writes = ws ∧ p.set = c.cur.set ∧
      p.due = s.lcNow c.cur.strand.owner c.cur.strand.lcore + n) ∧
  (∀ v ∈ s.strands, v.id ≠ c.cur.strand → v ∈ u.strands) ∧ u.nextId = s.nextId + 1 ∧
  (let pipes (l : LCore) : LCore := { l with ctl := ⟨none, 0, 0⟩, port0 := ⟨none, 0, 0⟩, port1 := ⟨none, 0, 0⟩ }
   u.lcores.map pipes = s.lcores.map pipes) ∧
  { u with strands := s.strands, lcores := s.lcores, turn := s.turn, cur := s.cur, nextId := s.nextId } = s

/-- The frame of the instructions that compute (base opcodes 0x01 to 0x21, extended 0x40 to 0x4E; spec/12 to spec/15), whatever comes of their
issue: no byte of memory, no full/empty bit, no register, level, trap register or count of any strand, no owner, core or array changes. -/
def Obligations.ComputingInstructionsChangeNoState : Prop :=
  ∀ (i : Instr) (s t : State), ((1 ≤ (fieldsOf i).op ∧ (fieldsOf i).op ≤ 0x21) ∨ (0x40 ≤ (fieldsOf i).op ∧ (fieldsOf i).op ≤ 0x4E)) →
    exec i s = .next t →
  (∀ a, t.byte a = s.byte a) ∧ t.mem = s.mem ∧ t.hostMem = s.hostMem ∧ t.empties = s.empties ∧ t.poison = s.poison ∧ t.dev = s.dev ∧
  t.cores = s.cores ∧ t.owners = s.owners ∧ t.clauses = s.clauses ∧ t.images = s.images ∧ t.dcyc = s.dcyc ∧ t.transfers = s.transfers ∧
  t.outbox = s.outbox ∧ t.intrs = s.intrs ∧ t.log = s.log ∧
  (let regs (u : Strand) := (u.id, u.cregs, u.vregs, u.n, u.slices, u.bmask, u.batch, u.cbase, u.vbase)
   let sys (u : Strand) := (u.id, u.priv, u.tpriv, u.depth, u.tcause, u.tpc, u.tmask, u.taddr, u.tstrand)
   t.strands.map regs = s.strands.map regs ∧ t.strands.map sys = s.strands.map sys)

/-- No instruction changes memory at its issue: every store, by an instruction or by hardware, acts in a later step (R213, R300, R404); but a
CANCEL that ends a DET launch applies its records (R246, R286), and is left out here where such records are there. And an instruction
reaches no strand and no record of an owner other than its own. -/
def Obligations.IssuesTouchNoMemoryAndNoOtherOwner : Prop :=
  ∀ (i : Instr) (s t : State) (cur : Cur), i.enc ≠ .none → s.cur = some cur → exec i s = .next t →
    (((∀ x level, i ≠ .cancel x level) ∨ s.dets = []) → (∀ a, t.byte a = s.byte a) ∧ t.mem = s.mem ∧ t.empties = s.empties ∧
      t.poison = s.poison) ∧ t.hostMem = s.hostMem ∧ t.dcyc = s.dcyc ∧
    (∀ u ∈ s.strands, u.id.owner ≠ cur.strand.owner → u ∈ t.strands) ∧ (∀ w ∈ s.owners, w.id ≠ cur.strand.owner → w ∈ t.owners)

/-- The act of a lane (R213, R216, R217, R225 to R227, R229, R231, R361, R411), in an owner without a park area: a plain ST writes its bytes, sets
their words full and changes no other byte of memory and no other bit; a plain LD changes none, and its registers take the bytes, zero- or sign-extended; an ATOM
that is neither CAS nor DET writes the combined value, CAS the new one where the old one is that of its comparison and nothing where it is not, no
bit changes, and their registers take the old value. A waiting load leaves its words full and a consuming
one sets them empty, and its registers take the bytes; a filling store writes its bytes into empty words and sets them full; a lane that finds its
words otherwise changes no byte and no bit, and with attempts left makes the next 64 owner cycles later; FEGET returns the bits of the 32 words of
its block; WAITA returns the word with status 0 where it differs, and WAKE 0; no other bit changes in any of these. Where a park area lies, WAKE
returns at most the count of the word's WAITA lanes that the records of its bucket name, and at most its own; where every one of them is parked on
the word it returns the lesser of the two counts, and where none is, 0, and it changes nothing. -/
def Obligations.LaneActsReadAndWriteMemory : Prop :=
  ∀ (id : Nat) (a : Acc) (l : LaneAcc) (x : XOps) (m : MemMod) (fn : AtomFn) (pa : Nat) (cm : Bool) (w : Owner) (t : Strand),
    let size := 2 ^ m.size.code
    let at_ (s : State) : Prop := (s.accs.find? fun a => a.id == id) = some a ∧ a.lanes = [l] ∧ l.st = .todo ∧ l.due ≤ a.now s ∧
      a.need = 0 ∧ s.accWaits a = false ∧ s.laneFree a l = true ∧ checkLane s a l.va = .ok (.dev pa cm) ∧
      s.owner? a.strand.owner = some w ∧ w.parkbase = 0 ∧ memWf s.mem
    let ready (s : State) : Prop := at_ s ∧ anyPoison s pa size = false
    let wrote (s u : State) (bs : List Byte) : Prop :=
      ∀ p, u.byte p = if pa ≤ p ∧ p < pa + bs.length then bs.getD (p - pa) 0 else s.byte p
    let reads (s u : State) (ws : List Word) : Prop := a.killed = false → s.strand? a.strand = some t → ∃ t',
      u.strand? a.strand = some t' ∧
      (a.set = none → t'.cregs = tblSets 0 t.cregs ((dstOuts x.d l.lane ws).map fun w => (w.1 * 4 + w.2.1, w.2.2)) ∧ t'.vregs = t.vregs) ∧
      (a.set ≠ none → t'.vregs = tblSets 0 t.vregs ((dstOuts x.d l.lane ws).map fun w => (w.1 * 32 + w.2.1, w.2.2)) ∧ t'.cregs = t.cregs)
    let bytes : List Byte := (l.data.flatMap fun w => numBytes 4 w.toNat).take size
    Reaches (.memoryAccessAct id) (fun s => ready s ∧ a.instr = .st x m ∧ m.fef = .plain ∧ size ≤ 4 * l.data.length)
      (fun s u => wrote s u bytes ∧ (∀ k ∈ wordsIn l.va size, u.isFull ((pa / 4 * 4 + k) / 4) = true) ∧
        (∀ k, (∀ i ∈ wordsIn l.va size, (pa / 4 * 4 + i) / 4 ≠ k) → u.isFull k = s.isFull k) ∧ u.hostMem = s.hostMem) ∧
    Reaches (.memoryAccessAct id) (fun s => ready s ∧ a.instr = .ld x m ∧ m.fef = .plain)
      (fun s u => u.mem = s.mem ∧ u.empties = s.empties ∧ u.hostMem = s.hostMem ∧ reads s u (loadWords size m.sx (s.num pa size))) ∧
    Reaches (.memoryAccessAct id) (fun s => ready s ∧ a.instr = .atom x fn m ∧ m.det = false ∧ fn ≠ .cas)
      (fun s u => wrote s u (numBytes size (atomNew fn size (s.num pa size) (wordsNat (l.data.take (size / 4))))) ∧
        (∀ k, u.isFull k = s.isFull k) ∧ u.hostMem = s.hostMem ∧ reads s u (wordsOf (size / 4) (s.num pa size))) ∧
    Reaches (.memoryAccessAct id) (fun s => ready s ∧ a.instr = .atom x .cas m ∧ m.det = false ∧
        s.num pa size = wordsNat (l.data.take (size / 4)))
      (fun s u => wrote s u (numBytes size (wordsNat (l.data.drop (size / 4)))) ∧
        (∀ k, u.isFull k = s.isFull k) ∧ u.hostMem = s.hostMem ∧ reads s u (wordsOf (size / 4) (s.num pa size))) ∧
    Reaches (.memoryAccessAct id) (fun s => ready s ∧ a.instr = .atom x .cas m ∧ m.det = false ∧
        s.num pa size ≠ wordsNat (l.data.take (size / 4)))
      (fun s u => u.mem = s.mem ∧ u.empties = s.empties ∧ u.hostMem = s.hostMem ∧ reads s u (wordsOf (size / 4) (s.num pa size))) ∧
    (∀ n v, (n = 4 → loadWords n m.sx v = [BitVec.ofNat 32 v]) ∧
      (n = 1 → m.sx = true → loadWords n m.sx v = [(BitVec.ofNat 8 v).signExtend 32]) ∧
      (n = 2 → m.sx = true → loadWords n m.sx v = [(BitVec.ofNat 16 v).signExtend 32]) ∧
      (n ≤ 2 → 0 < n → m.sx = false → loadWords n m.sx v = [BitVec.ofNat 32 v]) ∧
      (n = 8 → loadWords n m.sx v = [BitVec.ofNat 32 v, BitVec.ofNat 32 (v / 2 ^ 32)])) ∧
    (∀ old arg, atomNew .add size old arg = (old + arg) % 2 ^ (8 * size) ∧ atomNew .xchg size old arg = arg) ∧
    let words : List Nat := (wordsIn pa size).map fun i => pa / 4 + i / 4
    let keeps (s u : State) : Prop := u.mem = s.mem ∧ u.empties = s.empties ∧ u.hostMem = s.hostMem
    let again (s u : State) : Prop := a.killed = false → 0 < m.budget.toNat →
      ∃ b ∈ u.accs, b.id = id ∧ ∀ y ∈ b.lanes, y.st = .retry (a.now s + 64) 1
    let word (s : State) : Word := BitVec.ofNat 32 (s.num pa 4)
    Reaches (.memoryAccessAct id) (fun s => ready s ∧ a.instr = .ld x m ∧ (m.fef = .waiting ∨ m.fef = .consuming) ∧ ∀ k ∈ words, s.isFull k = true)
      (fun s u => u.mem = s.mem ∧ u.hostMem = s.hostMem ∧ (∀ k ∈ words, u.isFull k = decide (m.fef = .waiting)) ∧
        (∀ k, k ∉ words → u.isFull k = s.isFull k) ∧ reads s u (loadWords size m.sx (s.num pa size))) ∧
    Reaches (.memoryAccessAct id) (fun s => ready s ∧ a.instr = .ld x m ∧ m.fef ≠ .plain ∧ ∃ k ∈ words, s.isFull k = false)
      (fun s u => keeps s u ∧ again s u) ∧
    Reaches (.memoryAccessAct id) (fun s => ready s ∧ a.instr = .st x m ∧ m.fef = .filling ∧ size ≤ 4 * l.data.length ∧
        ∀ k ∈ words, s.isFull k = false)
      (fun s u => wrote s u bytes ∧ (∀ i ∈ wordsIn l.va size, u.isFull ((pa / 4 * 4 + i) / 4) = true) ∧
        (∀ k, (∀ i ∈ wordsIn l.va size, (pa / 4 * 4 + i) / 4 ≠ k) → u.isFull k = s.isFull k) ∧ u.hostMem = s.hostMem) ∧
    Reaches (.memoryAccessAct id) (fun s => ready s ∧ a.instr = .st x m ∧ m.fef = .filling ∧ ∃ k ∈ words, s.isFull k = true)
      (fun s u => keeps s u ∧ again s u) ∧
    Reaches (.memoryAccessAct id) (fun s => at_ s ∧ a.instr = .feget x m)
      (fun s u => keeps s u ∧ reads s u [BitVec.ofNat 32 (maskOf ((List.range 32).filter fun i => s.isFull (pa / 128 * 32 + i)))]) ∧
    Reaches (.memoryAccessAct id) (fun s => at_ s ∧ a.instr = .waita x m ∧ anyPoison s pa 4 = false ∧ word s ≠ BitVec.ofNat 32 (wordsNat l.data))
      (fun s u => keeps s u ∧ (a.killed = false → s.strand? a.strand = some t → ∃ t', u.strand? a.strand = some t' ∧
        (a.set = none → tblWf 0 t.cregs = true → ∀ k, tblGet 0 t'.cregs k =
          tblGet 0 (tblSets 0 t.cregs ((dstOuts x.d l.lane [word s, 0]).map fun w => (w.1 * 4 + w.2.1, w.2.2))) k) ∧
        (a.set ≠ none → tblWf 0 t.vregs = true → ∀ k, tblGet 0 t'.vregs k =
          tblGet 0 (tblSets 0 t.vregs ((dstOuts x.d l.lane [word s, 0]).map fun w => (w.1 * 32 + w.2.1, w.2.2))) k))) ∧
    Reaches (.memoryAccessAct id) (fun s => at_ s ∧ a.instr = .waita x m ∧ anyPoison s pa 4 = false ∧ word s = BitVec.ofNat 32 (wordsNat l.data))
      (fun s u => keeps s u ∧ (cm = false → again s u) ∧
        (cm = true → a.killed = false → ∃ b ∈ u.accs, b.id = id ∧ ∀ y ∈ b.lanes, y.st = .over (a.now s + 64))) ∧
    Reaches (.memoryAccessAct id) (fun s => at_ s ∧ a.instr = .wake x m) (fun s u => keeps s u ∧ reads s u [0]) ∧
    ∀ (s u : State) (v : List Word) (n b : Nat), attemptLane s a l = .ok u v n → a.instr = .wake x m → checkLane s a l.va = .ok (.dev pa false) →
      s.bucketAt a.strand.owner l.va = .at_ b → (∀ r ∈ s.bucket b, r.lanes ≠ 0) →
      let named : List ParkRec := (s.bucket b).filter fun r => r.va == l.va && r.kind == 3
      let lanes : Nat := (named.map fun r => (bitsOf 32 r.lanes).length).sum
      u.empties = s.empties ∧ (∃ k, k ≤ min (wordsNat l.data) lanes ∧ v = [BitVec.ofNat 32 k]) ∧
      ((∀ r ∈ named, ∀ k ∈ bitsOf 32 r.lanes, s.isParkedAt a.strand.owner r k = true) →
        (named.map fun r => (r.lcore, r.slot, r.slices)).Nodup → v = [BitVec.ofNat 32 (min (wordsNat l.data) lanes)]) ∧
      ((∀ r ∈ named, ∀ k ∈ bitsOf 32 r.lanes, s.isParkedAt a.strand.owner r k = false) → u = s ∧ v = [0])

/-- What a lane's attempt may store (R212, R213, R220, R222): only ST and ATOM change device memory in an owner without a park area, and then
only from the lane's place on for its SIZE; with a park area a plain store of at most a word changes nothing besides but its word's bucket of
64 bytes. -/
def Obligations.OnlyStoresAndAtomsChangeBytes : Prop :=
  ∀ (s u : State) (a : Acc) (l : LaneAcc) (v : List Word) (n : Nat) (w : Owner), memWf s.mem → attemptLane s a l = .ok u v n →
    s.owner? a.strand.owner = some w →
    (w.parkbase = 0 → (∀ x fn m, a.instr ≠ .st x m ∧ a.instr ≠ .atom x fn m) → u.mem = s.mem ∧ u.hostMem = s.hostMem) ∧
    (w.parkbase = 0 → ∀ pa cm, checkLane s a l.va = .ok (.dev pa cm) → u.hostMem = s.hostMem ∧
      ∀ p, (p < pa ∨ pa + accSize a.instr ≤ p) → u.byte p = s.byte p) ∧
    ∀ x m pa cm, a.instr = .st x m → m.fef = .plain → accSize a.instr ≤ 4 → checkLane s a l.va = .ok (.dev pa cm) →
      l.va % 4 + accSize a.instr ≤ 4 →
      let bs := (l.data.flatMap fun w => numBytes 4 w.toNat).take (accSize a.instr)
      let bucket := ({ s with poison := s.poison.filter fun w => !(decide (pa / 4 ≤ w ∧ w < (pa + bs.length + 3) / 4)) }.putBytes pa
        bs).bucketAt a.strand.owner (l.va / 4 * 4)
      ((∀ b, bucket ≠ .at_ b) → ∀ p, u.byte p = (s.putBytes pa bs).byte p) ∧
      ∀ b, bucket = .at_ b → ∀ p, (p < b ∨ b + 64 ≤ p) → u.byte p = (s.putBytes pa bs).byte p

/-- In-place entry (R299, R300): it waits until every pending result of the control stream is written; then the trap registers take the trap's
values, the level rises to SUPER, DEPTH is 1 and the stream goes on at TVEC two owner cycles later; with a bad TVEC, or inside a handler, the
strand is killed, its group ends FAULTED, and a record with KILLED and the reason takes a place when there is a park area. -/
def Obligations.TrapEntrySavesAndRedirects : Prop :=
  ∀ (i : StrandId) (tr : Trap) (t : Strand) (w : Owner) (since port : Nat),
    let row : Instr := .trapInPlaceEntry i
    let at_ (s : State) : Prop := s.strand? i = some t ∧ s.owner? i.owner = some w ∧ t.ctl.trap = some ⟨tr, .entry, since, port⟩
    let good : Prop := w.tvec ≠ 0 ∧ w.tvec.toNat % 4 = 0 ∧ w.tvec.toNat < 0x40000
    (∀ s, at_ s → (∃ r ∈ t.ctl.res, r.written = false) → exec row s = .fault .notEnabled) ∧
    Reaches row (fun s => at_ s ∧ (∀ r ∈ t.ctl.res, r.written = true) ∧ good ∧ t.depth ≠ 1) (fun s u => ∃ t', u.strand? i = some t' ∧
      t'.tcause = BitVec.ofNat 32 (tr.sub * 2 ^ 8 + tr.cause) ∧ t'.tpc = t.ctl.pc ∧ t'.tmask = tr.mask ∧ t'.taddr = tr.addr ∧
      t'.tstrand = BitVec.ofNat 32 (t.id.lcore * 2 ^ 23 + t.id.slot * 2 ^ 18 + 2 ^ 17) ∧
      t'.tpriv = t.priv ∧ t'.priv = 1 ∧ t'.depth = 1 ∧
      t'.ctl.pc = w.tvec ∧ t'.ctl.ready = s.lcNow i.owner i.lcore + 2 ∧ t'.ctl.trap = none ∧
      t'.cregs = t.cregs ∧ t'.vregs = t.vregs ∧ t'.n = t.n ∧ t'.sets = t.sets ∧
      (∀ v ∈ s.strands, v.id ≠ i → v ∈ u.strands) ∧ { u with strands := s.strands } = s) ∧
    Reaches row (fun s => at_ s ∧ (∀ r ∈ t.ctl.res, r.written = true) ∧ (¬ good ∨ t.depth = 1)) (fun s u =>
      (∃ t', u.strand? i = some t' ∧ t'.killed = true ∧ t'.cst = .exited ∧ t'.cregs = t.cregs) ∧ u.mem = s.mem ∧ u.owners = s.owners ∧
      (∀ g, s.group? t.grp = some g → ∃ g', u.group? t.grp = some g' ∧ g'.fault = true) ∧
      ∀ l, s.lcore? i.owner i.lcore = some l → ∃ l', u.lcore? i.owner i.lcore = some l' ∧
        (w.parkbase = 0 → l'.trecs = l.trecs) ∧
        (w.parkbase ≠ 0 → ∃ r, l'.trecs = l.trecs ++ [r] ∧ r.put = false ∧ r.due = s.lcNow i.owner i.lcore + 400 ∧
          r.words.take 6 = [BitVec.ofNat 32 ((5 + (if t.depth = 1 then 8 else 0) +
            (if w.tvec ≠ 0 ∧ w.tvec.toNat % 4 = 0 ∧ w.tvec.toNat < 0x40000 then 0 else 16)) * 2 ^ 16 + tr.sub * 2 ^ 8 + tr.cause),
            t.ctl.pc, t.tstrandOf none, tr.mask, tr.addr.lo, tr.addr.hi]))

/-- R85: an instruction below its level takes the privilege trap, and at or above it none; PRIV reads the level. -/
def Obligations.PrivilegeLevelsAreEnforced : Prop :=
  let levels : List (BitVec 12 × Nat × Option Nat) := [(0x000, 0, none), (0x002, 0, none), (0x004, 0, none), (0x006, 0, none),
    (0x007, 0, none), (0x008, 0, none), (0x010, 1, some 1), (0x011, 1, some 1), (0x012, 1, some 1), (0x013, 1, some 1), (0x014, 1, some 1),
    (0x016, 1, some 1), (0x020, 0, some 1), (0x022, 1, some 1), (0x024, 0, some 1), (0x025, 0, some 2), (0x026, 0, some 1), (0x030, 0, none),
    (0x032, 0, none), (0x040, 0, none), (0x041, 0, none), (0x100, 2, some 2), (0x102, 2, some 2), (0x104, 2, some 2), (0x106, 2, none),
    (0x110, 2, some 2)]
  (∀ (s : State) (cur : Cur) (c : Ctx) (i : Instr), s.cur = some cur → ctxAt s cur = some c → i.enc ≠ .none →
    streamOk (fieldsOf i) c.isCtl = true →
    (∀ (level : Nat) (x : XOps), ((i = .eret x ∨ i = .eretDispose x) ∧ level = 1) ∨ (i = .hgate x ∧ level = 2) ∨
        (∃ e ∈ levels, i = .srd x e.1 ∧ level = e.2.1) ∨ (∃ e ∈ levels, i = .swr x e.1 ∧ e.2.2 = some level) →
      (c.t.priv < level → exec i s = .next (s.trapped c ⟨0x11, 0, 0, BitVec.ofNat 32 (maskOf c.lanes)⟩)) ∧
      (level ≤ c.t.priv → ∀ tr, issueError c i = some tr → tr.cause ≠ 0x11)) ∧
    ((∀ x, i ≠ .eret x ∧ i ≠ .eretDispose x ∧ i ≠ .hgate x ∧ ∀ n, i ≠ .srd x n ∧ i ≠ .swr x n) →
      ∀ tr, issueError c i = some tr → tr.cause ≠ 0x11)) ∧
  ∀ (s : State) (t : Strand), s.sysRead t 0x008 = BitVec.ofNat 64 t.priv

/-- The checks at issue (R15, R16, R41, R50, R83): an instruction of the other stream traps with 0x01 and subcode 4, one that names a register at or
above the strand's count with 0x02 and that register, one that touches a register whose lookahead window is open with 0x03; a control instruction
whose guard fails issues with no effect (an untimed owner's of cost 2 in two halves, R124). The order in which registers are checked, and that a
failed guard's window opens, are the model's readings (log 53). In every such case no byte of memory and no register changes. -/
def Obligations.IssueChecksAndGuards : Prop :=
  ∀ (s : State) (cur : Cur) (c : Ctx) (i : Instr), s.cur = some cur → ctxAt s cur = some c → i.enc ≠ .none →
    let mask : Word := BitVec.ofNat 32 (maskOf c.lanes)
    let f := fieldsOf i
    let named := f.writes ++ f.reads
    let passes : Prop := streamOk f c.isCtl = true ∧ privOk i c.t.priv = true
    (streamOk f c.isCtl = false → exec i s = .next (s.trapped c ⟨0x01, 0x04, 0, mask⟩)) ∧
    (∀ r, passes → named.find? (fun r => decide (c.t.n ≤ r)) = some r →
      exec i s = .next (s.trapped c ⟨0x02, 0, BitVec.ofNat 64 r, mask⟩)) ∧
    (passes → rangeError c i = none → (∃ r ∈ c.str.res, r.ext = true ∧ 0 < r.left ∧ ∃ d ∈ r.dsts, d ∈ named) →
      exec i s = .next (s.trapped c ⟨0x03, 0, 0, mask⟩)) ∧
    (issueError c i = none → c.isCtl = true → c.guard f.g 0 = false →
      ∃ cost, exec i s = .next (if cost = 2 ∧ s.untimed cur.strand.owner = true ∧ c.str.half = false then s.firstHalf cur
        else s.issued (c.guarded f.g) i cost none [] true none)) ∧
    (c.isCtl = false → (c.guarded f.g).lanes = c.lanes.filter (c.guard f.g)) ∧
    ∀ (tr : Trap) (u : State), (u = s.trapped c tr ∨ u = s.firstHalf cur ∨ ∃ cost, u = s.issued c i cost none [] true none) →
      (∀ a, u.byte a = s.byte a) ∧ u.hostMem = s.hostMem ∧ u.owners = s.owners ∧
      (u.strands.map fun t => (t.id, t.cregs, t.vregs, t.priv, t.depth)) = s.strands.map fun t => (t.id, t.cregs, t.vregs, t.priv, t.depth)

/-- The machine after reset (R88, R109, R324, R352, R353): device cycle 0, every word of memory zero and full and not poisoned, no strand, group, access
or command, owner 0 with its registers at their reset values and four mapped queues, and memory in its form. Owner 0's place on core 0 and the
tables of the rotas (log 2), device cycle 0 and a zero INTDROP (log 1), the start that passed every step (log 5) and owner 0's record (log 8) are
the model's choice. -/
def Obligations.ResetState : Prop :=
  let s := State.reset
  s.dcyc = 0 ∧ s.dev.on = true ∧ s.dev.boot = List.replicate 11 1 ∧ (∀ a, s.byte a = 0) ∧ (∀ w, s.isFull w = true ∧ s.poisoned w = false) ∧
  s.strands = [] ∧ s.groups = [] ∧ s.accs = [] ∧ s.turn = none ∧ s.cur = none ∧ (s.dev.queues.map fun q => (q.owner, q.num, q.cmds)) =
    [(0, 0, []), (0, 1, []), (0, 2, []), (0, 3, [])] ∧ s.dev.intdrop = 0 ∧ s.dev.errs = [] ∧
  (∃ w, s.owners = [w] ∧ w.id = 0 ∧ w.tvec = 0 ∧ w.jswap = 0 ∧ w.qtimeout = 4096 ∧ w.rtmo = 85000 ∧ w.parkbase = 0 ∧ w.lovf = 0 ∧
    w.counters = []) ∧ (∃ l, s.lcores = [l] ∧ l.owner = 0 ∧ l.num = 0 ∧ l.ocyc = 0 ∧ l.ostolen = 0) ∧ s.memOk

/-- A step runs the decoded instruction (R57, R83, R89): with no external event and no engine's step due, a stream that the offered issue slot
picks, standing at words that decode, the step is that instruction's `exec` with the stream as the one that issues; words that are an illegal
instruction trap with 0x01 and their subcode. -/
def Obligations.StepRunsTheDecodedInstruction : Prop :=
  ∀ (s : State) (tn : Turn) (l : LCore) (cur : Cur) (c : Ctx), s.arrived = none → s.dev.on = true →
    s.firstDue (s.deviceRows ++ s.indexRows) = none → s.turn = some tn → tn.slot ≤ 2 → s.lcore? tn.owner tn.lc = some l →
    s.firstDue (s.lcoreRows l) = none → s.pick l tn.slot = some cur → ctxAt s cur = some c → c.str.wait = none →
    (∀ i n, decode (codeWords s cur.strand.owner c.str.pc.toNat 5) = .ok (i, n) → step s = exec i { s with cur := some cur }) ∧
    ∀ sub cls, decode (codeWords s cur.strand.owner c.str.pc.toNat 5) = .error (.illegal sub cls) →
      lenWords ((codeWords s cur.strand.owner c.str.pc.toNat 5).headD 0) ≤ (codeWords s cur.strand.owner c.str.pc.toNat 5).length →
      step s = .next ({ s with cur := some c.cur }.trapped c
        ⟨0x01, if wrongStream cls c.isCtl then 0x04 else sub, 0, BitVec.ofNat 32 (maskOf c.lanes)⟩)

/-- Words that the spec's examples write out decode to their instructions (R59, R60, R68 to R70, and the examples of the entries). -/
def Obligations.SpecWordsDecode : Prop :=
  decodeTableWord 32 0x0308120C = some (.sub ⟨.reg 9, .reg 8, .reg 6⟩) ∧
  decodeTableWord 64 0x000000083C01064D = some (.rotLit ⟨.reg 3, .reg 1, .lit 8⟩) ∧
  decodeTableWord 32 0x3D810458 = some (.brev ⟨.reg 2, .reg 1, .zero⟩) ∧
  decodeTableWord 32 0x01010664 = some (.fsub ⟨.reg 3, .reg 1, .reg 2⟩) ∧
  decodeTableWord 96 0x0000000000003DFB0101090E = some (.div ⟨0, .always, .reg 4, .reg 1, .reg 2, .zero⟩ .s32) ∧
  decodeTableWord 96 0x0000006400003DFB01010732 = some (.nadd ⟨0, .always, .reg 3, .reg 1, .reg 2, .zero⟩ ⟨4, true, true⟩) ∧
  decodeTableWord 96 0x0000000001003DFB3DFBF77E = some (.eret ⟨0, .always, .none, .zero, .zero, .zero⟩) ∧
  decodeTableWord 96 0x0000000001003D840182037E = some (.eretDispose ⟨0, .always, .reg 1, .reg 2, .reg 3, .reg 4⟩) ∧
  decodeTableWord 96 0x0000000100203DFB3D8AF772 = some (.mwld ⟨0, .always, .none, .reg 10, .zero, .zero⟩ .bf16 true) ∧
  decodeTableWord 160 0x00000000000000040000000001803DF81B34F773 =
    some (.mclose ⟨0, .always, .none, .reg 52, .reg 54, .lit 4⟩)

/-- Decoding inverts encoding for every well-formed instruction, whatever words follow it (R57 to R82). -/
def Obligations.DecodeInvertsEncode : Prop :=
  ∀ (i : Instr) (rest : List Word), WellFormed i = true → decode (encode i ++ rest) = .ok (i, i.words)

/-- Every step keeps device memory and host memory in their canonical form: addresses rising, no byte listed that reads as an unlisted one; so
does every row of the opcode table (the form of `mem` and `hostMem`, notes/assumptions/4.md; the addresses are those of R203, R205). -/
def Obligations.StepsKeepMemoryCanonical : Prop :=
  (∀ (s t : State), s.memOk → step s = .next t → t.memOk) ∧ ∀ (i : Instr) (s t : State), s.memOk → exec i s = .next t → t.memOk

/-- The machine never stops: with the package up, or an external event to come, every step goes on; with the package down and no event, none
does (R100, R109, R352). No row of the opcode table is refused. -/
def Obligations.TheMachineGoesOn : Prop :=
  (∀ s : State, s.dev.on = true ∨ s.inputs ≠ [] → ∃ t, step s = .next t) ∧
  (∀ s : State, s.dev.on = false → s.inputs = [] → step s = .fault .notEnabled) ∧
  ∀ (i : Instr) (s : State) (r : Refusal), exec i s ≠ .refused r

/-! ### Where each step of an engine, each event and each command completes, one clause to a row -/

/-- Each step of the core's clock, of its streams and strands, of a swap and of the rota completes: one clause to a row, with the condition
under which the step is due (R20 to R36, R50 to R54, R100 to R107, R129 to R133, R215, R276, R298 to R301, R307). -/
def Obligations.CoreStepsComplete : Prop :=
  (∀ (s : State) (now : Nat), s.coreNow = now → (s.turn = none ∨ ∃ n, s.turn = some n ∧ (5 ≤ n.slot ∨ s.lcore? n.owner n.lc = none)) →
    ∃ t, exec (.coreCycle now) s = .next t) ∧
  (∀ (s : State) (o lc : Nat) (n : Turn), s.turn = some n → n.owner = o → n.lc = lc → n.slot = 4 → (s.lcore? o lc).isSome = true →
    ∃ t, exec (.windowCommitPoint o lc) s = .next t) ∧
  (∀ (s : State) (o : Nat) (w : Owner), s.owner? o = some w → (∃ f ∈ w.freezes, s.freezeOver w f = true) →
    ∃ t, exec (.ownerFreezeEnd o) s = .next t) ∧
  (∀ (s : State) (id : Nat) (u : Strand) (p : Pend), s.strands.findSome? (fun u => (u.pends.find? fun q => q.id == id).map (u, ·)) = some (u, p) →
    p.due ≤ s.lcNow u.id.owner u.id.lcore → s.untimed u.id.owner = false → ∃ t, exec (.resultWriteback id) s = .next t) ∧
  (∀ (s : State) (i : StrandId) (w : Wait) (c : Ctx), waitOf s ⟨i, none⟩ = some w → w.instr = .exit → s.offered ⟨i, none⟩ = true →
    issuing (s.reissued ⟨i, none⟩) .exit 1 = some c → c.t.flume.length < 16 → ∃ t, exec (.flumeSendResume i) s = .next t) ∧
  (∀ (s : State) (i : StrandId) (k : Nat) (u : Strand) (g : GSet) (e : Token) (now : Nat), idleToken s i k = some (u, g, e, now) →
    (e.kind = .run → ∃ t, exec (.sliceTakesRun i k) s = .next t) ∧ (e.kind = .mask → ∃ t, exec (.sliceTakesMask i k) s = .next t) ∧
    (e.kind = .regang → ∃ t, exec (.sliceTakesRegang i k) s = .next t) ∧ (e.kind = .fin → ∃ t, exec (.sliceTakesEnd i k) s = .next t)) ∧
  (∀ (s : State) (i : StrandId) (k : Nat) (w : Wait) (d : Dst) (c : Ctx), waitOf s ⟨i, some k⟩ = some w → w.instr = .vpop d →
    s.offered ⟨i, some k⟩ = true → issuing (s.reissued ⟨i, some k⟩) (.vpop d) 1 = some c →
    (∀ g, c.set? = some g → findToken c.t g c.now ≠ .nothing) → ∃ t, exec (.vpopTakesVal i k) s = .next t) ∧
  (∀ (s : State) (i : StrandId) (k : Nat) (w : Wait) (x : XOps) (c : Ctx), waitOf s ⟨i, some k⟩ = some w → w.instr = .vloop x true →
    s.offered ⟨i, some k⟩ = true → issuing (s.reissued ⟨i, some k⟩) (.vloop x true) 1 = some c →
    (∀ g, c.set? = some g → findToken c.t g c.now ≠ .nothing) → ∃ t, exec (.vloopTakesTrip i k) s = .next t) ∧
  (∀ (s : State) (i : StrandId) (u : Strand), s.strand? i = some u →
    (u.rq.findIdx? fun e => !e.here && decide (e.enters ≤ s.lcNow i.owner i.lcore)).isSome = true →
    ∃ t, exec (.returnQueueEntryArrive i) s = .next t) ∧
  (∀ (s : State) (i : StrandId) (k : Nat) (w : Wait) (m : SendMode) (a : Src) (c : Ctx), waitOf s ⟨i, some k⟩ = some w → w.instr = .vsend m a →
    s.offered ⟨i, some k⟩ = true → issuing (s.reissued ⟨i, some k⟩) (.vsend m a) 1 = some c → c.t.rq.length < 8 →
    ∃ t, exec (.vsendPushResume i k) s = .next t) ∧
  (∀ (s : State) (i : StrandId) (w : Wait) (d : Dst) (c : Ctx), waitOf s ⟨i, none⟩ = some w → w.instr = .frecv d → s.offered ⟨i, none⟩ = true →
    issuing (s.reissued ⟨i, none⟩) (.frecv d) 1 = some c → (∃ e l, c.t.rq = e :: l ∧ e.here = true) → ∃ t, exec (.frecvPop i) s = .next t) ∧
  (∀ (s : State) (i : StrandId) (u : Strand) (d : Dst), s.strand? i = some u → u.ctl.wait.map Wait.instr = some (.frecv d) → u.rq = [] →
    (∀ g ∈ u.sets, g.st = .stopped) → ∃ t, exec (.returnQueueStarvation i) s = .next t) ∧
  (∀ (s : State) (i : StrandId) (u : Strand) (w : Wait), s.strand? i = some u → u.ctl.wait = some w → sends w.instr = true →
    16 ≤ u.flume.length → (∀ g ∈ u.sets, ∃ q, g.st = .regang q) → ∃ t, exec (.flumeDeadlock i) s = .next t) ∧
  (∀ (s : State) (i : StrandId) (u : Strand), s.strand? i = some u → s.ended u = true → ∃ t, exec (.strandEnd i) s = .next t) ∧
  (∀ (s : State) (i : StrandId) (u : Strand) (x : XOps) (id since : Nat) (m : DWord), s.strand? i = some u →
    waitOf s ⟨i, none⟩ = some ⟨.ralloc x, id, [m], since⟩ → u.res = .here → (s.rallocNow u m.toNat id).isSome = true →
    ∃ t, exec (.rallocGrant i) s = .next t) ∧
  (∀ (s : State) (i : StrandId) (u : Strand) (w : Wait) (m : DWord) (a : Src), s.strand? i = some u → waitOf s ⟨i, none⟩ = some w →
    w.vals = [m] → w.instr = .rfree a ∨ w.instr = .rfreeLit a → s.quietAt u (some w.id) = true → ∃ t, exec (.rfreeQuietAct i) s = .next t) ∧
  (∀ (s : State) (o lc : Nat), (s.strandsOf o lc).Pairwise (fun a b => a.id ≠ b.id) → s.swapped o lc < 32 →
    2 ≤ ((s.strandsOf o lc).filter fun u => u.res == .here).length →
    (∃ u ∈ s.strandsOf o lc, u.res = .here ∧ ∀ m id since, u.ralloc? = some (m, id, since) → s.olderWaiter u id = false) →
    (∀ u ∈ s.strandsOf o lc, (u.res = .here → s.wantsMore u = true ∧ ∀ m id since, u.ralloc? = some (m, id, since) →
      s.rallocNow u m id = none) ∧ ∀ n, u.res ≠ .leaving n ∧ u.res ≠ .back n) → ∃ t, exec (.strandSwapOut o lc) s = .next t) ∧
  (∀ (s : State) (i : StrandId) (u : Strand) (till : Nat), s.strand? i = some u → till ≤ s.lcNow i.owner i.lcore →
    (u.res = .leaving till → ∃ t, exec (.strandSwapOutEnd i) s = .next t) ∧
    ((s.lcore? i.owner i.lcore).isSome = true → u.res = .back till → u.ctl.wait = none → ∃ t, exec (.strandSwapInEnd i) s = .next t)) ∧
  (∀ (s : State) (i : StrandId) (u : Strand), s.strand? i = some u → u.res = .out → u.joinOut = false → s.roomFor u = true →
    (∀ v ∈ s.strandsOf i.owner i.lcore, v.res = .out → v.joinOut = false → u.leftAt ≤ v.leftAt) → ∃ t, exec (.strandSwapIn i) s = .next t) ∧
  (∀ (s : State) (p due : Nat) (v : DWord), (s.core p).pend = some (v, due) → due ≤ s.dcyc → ∃ t, exec (.rotacTakesEffect p) s = .next t) ∧
  (∀ (s : State) (v : List Nat) (flen due : Nat), s.dev.fabric.pend = some (v, flen, due) → due ≤ s.dcyc →
    ∃ t, exec .rotafTableInForce s = .next t) ∧
  (∀ (s : State) (p : Nat) (w : Swap), (s.core p).swap = some w → s.swapTurn p w = true → w.turns = none → w.start ≤ s.dcyc →
    ∃ t, exec (.swapBegin p) s = .next t) ∧
  (∀ (s : State) (p n : Nat) (w : Swap), (s.core p).swap = some w → s.swapTurn p w = true → s.notDealt p = true → w.turns = some n →
    (4096 ≤ n → w.quiet = false → ∃ t, exec (.swapQuietEnd p) s = .next t) ∧
    (6144 ≤ n → w.quiet = true → w.saved = false → ∃ t, exec (.swapSavePhase p) s = .next t) ∧
    (49835 ≤ n → w.saved = true → w.read = false → ∃ t, exec (.swapRestorePhase p) s = .next t) ∧
    (93526 ≤ n → w.read = true → w.bound = false → ∃ t, exec (.swapRebind p) s = .next t) ∧
    (98304 ≤ n → w.bound = true → ∃ t, exec (.swapComplete p) s = .next t)) ∧
  (∀ (s : State) (id : Nat), s.dev.link = true → (∃ a ∈ s.accs, a.id = id ∧ a.slot = true ∧ s.isLate a.strand.owner = false) →
    ∃ t, exec (.drainSlotArrival id) s = .next t) ∧
  (∀ (s : State) (g : Nat) (q : Group), s.group? g = some q → (∃ w l, s.owner? q.owner = some w ∧
      (w.launches.find? fun l => l.id == q.launch) = some l) → (s.lcore? q.owner q.lcore).isSome = true → q.start ≤ s.lcNow q.owner q.lcore →
    (∃ u ∈ s.strands, u.grp = g ∧ u.res = .coming) → ∃ t, exec (.groupStrandsStart g) s = .next t) ∧
  (∀ (s : State) (i : StrandId) (u : Strand) (tr : Trap) (since port : Nat), s.strand? i = some u →
    u.ctl.trap = some ⟨tr, .entry, since, port⟩ → (∀ r ∈ u.ctl.res, r.written = true) → ∃ t, exec (.trapInPlaceEntry i) s = .next t) ∧
  ∀ (s : State) (i : StrandId) (u : Strand), s.strand? i = some u → u.res = .here → u.killed = false → u.cst = .run → u.ctl.trap = none →
    u.ctl.wait = none → s.longWlget u (s.lcNow i.owner i.lcore) = none → u.ctl.stood + 2 ^ 24 ≤ s.lcNow i.owner i.lcore →
    s.fenceOnParked u = false → (∀ x, s.nextInstr i u.ctl.pc ≠ some (.join x)) → ∃ t, exec (.watchdogTrap i) s = .next t

/-- Each step of a tile, copy, matrix sequencer, clause array, memory access and launch completes, each event that reaches the part, each write of
a register from outside and each command: one clause to a row, with the condition under which it is due (R169 to R202, R208 to R228, R256 to R268,
R276 to R296, R300 to R356). -/
def Obligations.EngineEventAndCommandStepsComplete : Prop :=
  (∀ (s : State) (o lc h : Nat) (l : LCore), s.lcore? o lc = some l → (l.tile h).st = .draining → (l.tile h).uses = 0 →
    ∃ t, exec (.tileDrainComplete o lc h) s = .next t) ∧
  (∀ (s : State) (i : StrandId) (u : Strand) (l : LCore) (w : Owner) (g : Group) (x : XOps) (level : TLevel) (id n : Nat) (a b : DWord),
    waitOf s ⟨i, none⟩ = some ⟨.talloc x level, id, [a, b], n⟩ → s.strand? i = some u → s.lcore? i.owner i.lcore = some l →
    s.owner? i.owner = some w → s.group? u.grp = some g → (tallocDecide l w.orec g.id g.quota level.code a.lo b.lo).isSome = true →
    ∃ t, exec (.tallocPickGrant i) s = .next t) ∧
  (∀ (s : State) (id : Nat) (l : LCore) (c : Copy), s.copy? id = some (l, c) →
    (∀ due s', c.sendsRead s l (s.lcNow l.owner l.num) = false → l.landing c = some due → due ≤ s.lcNow l.owner l.num → c.ended = false →
      c.waits = false → c.need = 0 → landUnit s l c (s.lcNow l.owner l.num) = .ok s' → ∃ t, exec (.copyUnitLands id) s = .next t) ∧
    (c.ended = false → c.waits = true → (∀ va, landUnit s l c (s.lcNow l.owner l.num) ≠ .error (.wait va)) →
      ∃ t, exec (.copyPageGranted id) s = .next t) ∧
    (c.ended = true → ∃ t, exec (.copyComplete id) s = .next t)) ∧
  (∀ (s : State) (id : Nat) (l : LCore) (k : MatCmd) (ks : List MatCmd), s.matOwner? id = some l → l.mats = k :: ks → k.id = id → k.tag = none →
    (k.out = none → max (k.entered + matLead k.op) l.matEnd ≤ s.lcNow l.owner l.num → ∃ t, exec (.matCommandStart id) s = .next t) ∧
    (∀ out, k.out = some out → k.ends ≤ s.lcNow l.owner l.num → k.macro_ = none → ∃ t, exec (.matCommandEnd id) s = .next t)) ∧
  (∀ (s : State) (i : StrandId) (u : Strand) (l : LCore) (x : XOps) (id n : Nat) (m : DWord), s.strand? i = some u →
    s.lcore? i.owner i.lcore = some l →
    (waitOf s ⟨i, none⟩ = some ⟨.twany x, id, [m], n⟩ → (∃ g ∈ tagsOf m, (l.tag g).bit = true) → ∃ t, exec (.twanyReturn i) s = .next t) ∧
    (waitOf s ⟨i, none⟩ = some ⟨.twall x, id, [m], n⟩ → (∀ g ∈ tagsOf m, (l.tag g).count = 0) → ∃ t, exec (.twallReturn i) s = .next t) ∧
    (waitOf s ⟨i, none⟩ = some ⟨.swait x, id, [m], n⟩ → swaitPending s u m.lo = false → ∃ t, exec (.swaitComplete i) s = .next t) ∧
    (waitOf s ⟨i, none⟩ = some ⟨.bwait x, id, [m], n⟩ → (l.settleBars.bar m.toNat).expected = 0 → ∃ t, exec (.bwaitRelease i) s = .next t)) ∧
  (∀ (s : State) (h due : Nat) (g : Group), s.group? h = some g → g.gsDue = some due → due ≤ s.lcNow g.owner g.lcore →
    ∃ t, exec (.gsyncComplete h) s = .next t) ∧
  (∀ (s : State) (id lane : Nat) (a : Acc) (l : LaneAcc), (s.accs.find? fun a => a.id == id) = some a →
    (isMemory a.instr = true → a.need = 0 → s.accWaits a = false → (∀ x m, a.instr ≠ .feset x m) → l ∈ a.lanes → l.st = .todo → l.due ≤ a.now s →
      s.laneFree a l = true → ∃ t, exec (.memoryAccessAct id) s = .next t) ∧
    ((a.lanes.find? fun l => l.lane == lane) = some l →
      (∀ due k, l.st = .retry due k → due ≤ a.now s → ∃ t, exec (.feRetryAttempt id lane) s = .next t) ∧
      (∀ due n b, l.st = .woken due n b → due ≤ a.now s → ∃ t, exec (.wokenRetry id lane) s = .next t) ∧
      (∀ due, l.st = .spurious due → due ≤ a.now s → ∃ t, exec (.waitaSpuriousReturn id lane) s = .next t)) ∧
    (∀ x p q, a.instr = .xlat x → a.lanes = [l] → a.due ≤ s.lcNow a.strand.owner a.strand.lcore → s.pageOf a.strand.owner l.va = .ok p →
      q ≠ .malformed → (p.kind = 1 → s.placeIn a.strand.owner p l.va = .ok q) → ∃ t, exec (.xlatAct id) s = .next t) ∧
    (∀ x pa, a.instr = .launch x → a.lanes = [l] → a.need = 0 → a.due ≤ s.lcNow a.strand.owner a.strand.lcore → s.accFree a = true →
      launchPlace s a l = .ok pa → ∃ t, exec (.launchAct id) s = .next t) ∧
    (∀ w, s.owner? a.strand.owner = some w → a.due ≤ a.now s →
      (∀ x, a.instr = .wlput x → s.accFree a = true → ∃ t, exec (.wlputAct id) s = .next t) ∧
      (∀ x, a.instr = .wlget x → a.lanes.head? = some l → s.accFree a = true → ∃ t, exec (.wlgetAttempt id) s = .next t))) ∧
  (∀ (s : State) (o k now st e : Nat) (a : ClauseArray) (m : ClauseCmd) (l : LCore), firstClause s o k = some (a, m, l, now) →
    (m.start = none → max m.issued a.lastEnd ≤ now → ∃ t, exec (.clauseCommandStart o k) s = .next t) ∧
    (∀ b, m.op = .prop b → m.start = some st → m.ends = none → st + 8 * (m.step + 1) ≤ now → ∃ t, exec (.capropRound o k) s = .next t) ∧
    (∀ d f n, m.op = .load d f n → m.start = some st → m.step < n → st + 18 + 2 * m.step ≤ now →
      ∃ t, exec (.caloadColumnWrite o k) s = .next t) ∧
    (m.ends = some e → e ≤ now → (∀ d f n, m.op ≠ .load d f n) → ∃ t, exec (.clauseCommandEnd o k) s = .next t)) ∧
  (∀ (s : State) (o now : Nat) (w : Owner), s.owner? o = some w → s.ownerNow o = some now →
    (∀ act, w.dist.next ≤ now → s.distAct w now = some act → ∃ t, exec (.distributorStep o) s = .next t) ∧
    (∀ addr due, w.dist.read = some (addr, due) → due ≤ now → ∃ t, exec (.overflowRecordRead o) s = .next t) ∧
    (∀ comp l due, (w.launches.find? fun l => l.lrec.comp == comp && l.parked.isSome) = some l → l.parked = some due → due + 65536 ≤ now →
      ∃ t, exec (.strandedDetect o comp) s = .next t)) ∧
  (∀ (s : State) (i : StrandId) (u : Strand) (w : Owner) (x : XOps) (id since now : Nat) (k : DWord), s.strand? i = some u →
    u.ctl.wait = some ⟨.join x, id, [k], since⟩ → s.owner? i.owner = some w →
    (u.res = .here → (w.before k.toNat).count = 0 → ∃ t, exec (.joinObserveZero i) s = .next t) ∧
    (u.res = .here → w.jswap ≠ 0 → since + w.jswap.toNat ≤ s.lcNow i.owner i.lcore → (w.before k.toNat).count ≠ 0 →
      s.swapped i.owner i.lcore < 32 → s.quietAt u (some id) = true → u.quietBy = none → w.jswapAt = none →
      ∃ t, exec (.joinSwapOut i) s = .next t) ∧
    (u.res = .out → u.joinOut = true → s.ownerNow i.owner = some now → (w.before k.toNat).count = 0 → w.dist.next ≤ now → s.roomFor u = true →
      ∃ t, exec (.joinSwapIn i) s = .next t)) ∧
  (∀ (s : State) (i : StrandId) (u : Strand) (due : Nat), s.strand? i = some u → u.quietBy = some due → u.killed = false → u.cst = .run →
    (u.res = .here → s.quietAt u none = true → ∃ t, exec (.cancelStrandStop i) s = .next t) ∧
    (due ≤ s.lcNow i.owner i.lcore → ∃ t, exec (.cancelQtimeoutKill i) s = .next t)) ∧
  (∀ (s : State) (id pa : Nat) (l : LCore) (r : TrapRec) (w : Owner),
    s.lcores.findSome? (fun l => (l.trecs.find? fun r => r.id == id).map (l, ·)) = some (l, r) → s.owner? l.owner = some w →
    r.due ≤ s.lcNow l.owner l.num → l.resident = true → Freeze.record id ∉ w.freezes → r.put = true → s.queuePa w 0 = some pa →
    ∃ t, exec (.trapRecordStore id) s = .next t) ∧
  (∀ (s : State) (id : Nat) (q : IntrRec), (s.intrs.find? fun r => r.id == id) = some q → q.due ≤ s.lcNow q.strand.owner q.strand.lcore →
    q.put = false → s.intrHeld q = false → ∃ t, exec (.intrRecordStore id) s = .next t) ∧
  (∀ (s : State) (o : Nat) (w : Owner) (p : Preempt), s.owner? o = some w → w.preempt = some p →
    (∀ till, p.phase = .quiet till → s.atIndexEnd o = true → s.preemptQuiet o p = true → ∃ t, exec (.preemptQuietEnd o) s = .next t) ∧
    (p.phase = .drain 0 → s.atIndexEnd o = true → (∀ n, s.turn = some n → n.owner ≠ o) → ∃ t, exec (.preemptDrainEnd o) s = .next t) ∧
    (∀ left, p.phase = .save left → (∀ x ∈ left, x.2 = 0) → ∃ t, exec (.preemptSaveEnd o) s = .next t)) ∧
  (∀ (s : State) (n d : Nat) (v : Transfer), (s.transfers.find? fun t => t.id == n) = some v → v.sentAt = some d → v.reply = none →
    (∃ t, exec (.transferResend n) s = .next t) ∧
    ∀ w, s.owner? v.owner = some w → d + w.rtmo.toNat ≤ s.dcyc → ∃ t, exec (.remoteTimeout n) s = .next t) ∧
  (∀ (s : State) (p : Packet),
    (p.kind = 1 ∨ p.kind = 2 → s.dev.on = true → ∃ t, exec (.remoteRequestReceive p) s = .next t) ∧
    (p.kind = 3 ∨ p.kind = 4 → ∃ t, exec (.remoteReplyReceive p) s = .next t) ∧ (p.kind = 5 → ∃ t, exec (.nackReceive p) s = .next t)) ∧
  (∀ (s : State) (e : StorageErr) (banks : List BankCounts) (ws : List Nat) (up : Bool) (grp : Nat),
    (∃ t, exec .correctedError s = .next t) ∧ (∃ t, exec (.storageErrorKill e) s = .next t) ∧ (∃ t, exec (.errorCountPoll banks ws) s = .next t) ∧
    (∃ t, exec (.kwayrLinkRetrain up) s = .next t) ∧ ∃ t, exec (.refreshSkip grp (BitVec.allOnes 64)) s = .next t) ∧
  (∀ (s : State) (bank o n : Nat), Config.rfmThreshold (bank / 512) / 2 ^ s.dev.fabric.flen ≤ n →
    tblGet 0 s.dev.acts (bank * 64 + if o = 63 ∨ s.untimed o = true then 63 else o) ≤ n →
    s.released ≠ 0 → ∃ t, exec (.rfmCommand bank o n) s = .next t) ∧
  (∀ (s : State) (r : BootReport) (ok : Bool) (amps d : Nat),
    (∃ t, exec (.powerOn r) s = .next t) ∧ (s.dev.loader = true → ∃ t, exec (.recoveryImageReceive ok) s = .next t) ∧
    (6000 < amps → s.dev.on = true → ∃ t, exec (.coreRailOvercurrent amps) s = .next t) ∧
    (amps ≤ 6000 → s.dev.withheld ≠ none → s.dev.powerOff = false → ∃ t, exec (.tailwaterWithholdEnd amps) s = .next t) ∧
    (s.dev.withheld = some d → d + 850000 ≤ s.dcyc → 6000 < s.dev.amps → s.dev.powerOff = false → ∃ t, exec .powerFault s = .next t) ∧
    (amps < 5400 → s.dev.powerOff = true → ∃ t, exec (.powerRecover amps) s = .next t)) ∧
  (∀ (s : State) (p o : Nat) (v : DWord) (a : Word),
    (∃ t, exec (.rotacWrite p v) s = .next t) ∧ (v.getLsbD 63 = false → ∃ t, exec (.rotafStage v) s = .next t) ∧
    (v.getLsbD 63 = true → ∃ t, exec (.rotafCommit v) s = .next t) ∧ (∃ t, exec (.lcmapWrite v) s = .next t) ∧
    (∃ t, exec .intdropWrite s = .next t) ∧
    ((s.owner? o).isSome = true → (∃ t, exec (.lovfWrite o v) s = .next t) ∧ (∃ t, exec (.parkbaseWrite o v) s = .next t) ∧
      (∃ t, exec (.qtimeoutWrite o a) s = .next t) ∧ ∃ t, exec (.jswapWrite o a) s = .next t)) ∧
  (∀ (s : State) (q asid : Nat) (c : Command), s.dev.on = true → ∃ t, exec (.enqueue asid q c) s = .next t) ∧
  (∀ (s : State) (o q : Nat) (c : Command) (w : Owner) (x : Queue), s.owner? o = some w →
    (s.nextQueue w = some x → s.mayTake w = true → ∃ t, exec (.commandTake o) s = .next t) ∧
    (s.taken? o 0x01 c = some q → ∃ t, exec (.hostLaunch o c) s = .next t) ∧ (s.taken? o 0x02 c = some q → ∃ t, exec (.hostOpen o c) s = .next t) ∧
    (s.taken? o 0x03 c = some q → ∃ t, exec (.hostClose o c) s = .next t) ∧ (s.taken? o 0x04 c = some q → ∃ t, exec (.hostCancel o c) s = .next t)) ∧
  ∀ (s : State) (q : Nat) (c : Command) (w w0 : Owner), s.owner? 0 = some w0 →
    (s.taken? 0 0x10 c = some q → ∃ t, exec (.ocreate c) s = .next t) ∧ (s.taken? 0 0x12 c = some q → ∃ t, exec (.odestroy c) s = .next t) ∧
    (s.taken? 0 0x13 c = some q → ∃ t, exec (.load c) s = .next t) ∧ (s.taken? 0 0x15 c = some q → ∃ t, exec (.restore c) s = .next t) ∧
    (s.taken? 0 0x16 c = some q → (∀ k ∈ s.cores, ∀ w, k.2.swap = some w → w.queue ≠ some q) → ∃ t, exec (.swap c) s = .next t) ∧
    (s.taken? 0 0x17 c = some q → ∃ t, exec (.pause c) s = .next t) ∧ (s.taken? 0 0x18 c = some q → ∃ t, exec (.resume c) s = .next t) ∧
    (s.taken? 0 0x19 c = some q → ∃ t, exec (.rota c) s = .next t) ∧ (s.taken? 0 0x1A c = some q → ∃ t, exec (.resolve c) s = .next t) ∧
    (s.taken? 0 0x1B c = some q → ∃ t, exec (.unmap c) s = .next t) ∧ (s.taken? 0 0x1C c = some q → ∃ t, exec (.stats c) s = .next t) ∧
    (s.taken? 0 0x1D c = some q → ∃ t, exec (.clearboot c) s = .next t) ∧
    (s.owner? (cmdNum c 8 1) = some w → w.preempt = none → w.reset = false →
      (s.taken? 0 0x11 c = some q → (∀ p ∈ s.coresOf (cmdNum c 8 1), (s.core p).swap = none ∧ (s.core p).pend = none) →
        ∃ t, exec (.oreset c) s = .next t) ∧
      (s.taken? 0 0x14 c = some q → ∃ t, exec (.preempt c) s = .next t))
end

