-- ==== Sys2Proof/Laws/State.lean ====
section
/-!
SUPPORT. What each update of the state leaves of each field: true by definition, for `simp`.
-/

namespace Sys2Proof.Machine

/-! ### `modStrand` -/

@[simp] theorem modStrand_dcyc (s : State) (i : StrandId) (f : Strand → Strand) : (s.modStrand i f).dcyc = s.dcyc := rfl
@[simp] theorem modStrand_dev (s : State) (i : StrandId) (f : Strand → Strand) : (s.modStrand i f).dev = s.dev := rfl
@[simp] theorem modStrand_turn (s : State) (i : StrandId) (f : Strand → Strand) : (s.modStrand i f).turn = s.turn := rfl
@[simp] theorem modStrand_atCore (s : State) (i : StrandId) (f : Strand → Strand) : (s.modStrand i f).atCore = s.atCore := rfl
@[simp] theorem modStrand_cur (s : State) (i : StrandId) (f : Strand → Strand) : (s.modStrand i f).cur = s.cur := rfl
@[simp] theorem modStrand_cores (s : State) (i : StrandId) (f : Strand → Strand) : (s.modStrand i f).cores = s.cores := rfl
@[simp] theorem modStrand_owners (s : State) (i : StrandId) (f : Strand → Strand) : (s.modStrand i f).owners = s.owners := rfl
@[simp] theorem modStrand_lcores (s : State) (i : StrandId) (f : Strand → Strand) : (s.modStrand i f).lcores = s.lcores := rfl
@[simp] theorem modStrand_strands (s : State) (i : StrandId) (f : Strand → Strand) : (s.modStrand i f).strands = modWhere s.strands (fun t => t.id == i) f := rfl
@[simp] theorem modStrand_groups (s : State) (i : StrandId) (f : Strand → Strand) : (s.modStrand i f).groups = s.groups := rfl
@[simp] theorem modStrand_accs (s : State) (i : StrandId) (f : Strand → Strand) : (s.modStrand i f).accs = s.accs := rfl
@[simp] theorem modStrand_dets (s : State) (i : StrandId) (f : Strand → Strand) : (s.modStrand i f).dets = s.dets := rfl
@[simp] theorem modStrand_mem (s : State) (i : StrandId) (f : Strand → Strand) : (s.modStrand i f).mem = s.mem := rfl
@[simp] theorem modStrand_empties (s : State) (i : StrandId) (f : Strand → Strand) : (s.modStrand i f).empties = s.empties := rfl
@[simp] theorem modStrand_poison (s : State) (i : StrandId) (f : Strand → Strand) : (s.modStrand i f).poison = s.poison := rfl
@[simp] theorem modStrand_hostMem (s : State) (i : StrandId) (f : Strand → Strand) : (s.modStrand i f).hostMem = s.hostMem := rfl
@[simp] theorem modStrand_transfers (s : State) (i : StrandId) (f : Strand → Strand) : (s.modStrand i f).transfers = s.transfers := rfl
@[simp] theorem modStrand_seqs (s : State) (i : StrandId) (f : Strand → Strand) : (s.modStrand i f).seqs = s.seqs := rfl
@[simp] theorem modStrand_outbox (s : State) (i : StrandId) (f : Strand → Strand) : (s.modStrand i f).outbox = s.outbox := rfl
@[simp] theorem modStrand_clauses (s : State) (i : StrandId) (f : Strand → Strand) : (s.modStrand i f).clauses = s.clauses := rfl
@[simp] theorem modStrand_feHz (s : State) (i : StrandId) (f : Strand → Strand) : (s.modStrand i f).feHz = s.feHz := rfl
@[simp] theorem modStrand_released (s : State) (i : StrandId) (f : Strand → Strand) : (s.modStrand i f).released = s.released := rfl
@[simp] theorem modStrand_begun (s : State) (i : StrandId) (f : Strand → Strand) : (s.modStrand i f).begun = s.begun := rfl
@[simp] theorem modStrand_log (s : State) (i : StrandId) (f : Strand → Strand) : (s.modStrand i f).log = s.log := rfl
@[simp] theorem modStrand_intrs (s : State) (i : StrandId) (f : Strand → Strand) : (s.modStrand i f).intrs = s.intrs := rfl
@[simp] theorem modStrand_images (s : State) (i : StrandId) (f : Strand → Strand) : (s.modStrand i f).images = s.images := rfl
@[simp] theorem modStrand_kept (s : State) (i : StrandId) (f : Strand → Strand) : (s.modStrand i f).kept = s.kept := rfl
@[simp] theorem modStrand_remotes (s : State) (i : StrandId) (f : Strand → Strand) : (s.modStrand i f).remotes = s.remotes := rfl
@[simp] theorem modStrand_inputs (s : State) (i : StrandId) (f : Strand → Strand) : (s.modStrand i f).inputs = s.inputs := rfl
@[simp] theorem modStrand_actClock (s : State) (i : StrandId) (f : Strand → Strand) : (s.modStrand i f).actClock = s.actClock := rfl
@[simp] theorem modStrand_nextId (s : State) (i : StrandId) (f : Strand → Strand) : (s.modStrand i f).nextId = s.nextId := rfl
@[simp] theorem modStrand_freeN (s : State) (i : StrandId) (f : Strand → Strand) : (s.modStrand i f).freeN = s.freeN := rfl

/-! ### `modOwner` -/

@[simp] theorem modOwner_dcyc (s : State) (o : Nat) (f : Owner → Owner) : (s.modOwner o f).dcyc = s.dcyc := rfl
@[simp] theorem modOwner_dev (s : State) (o : Nat) (f : Owner → Owner) : (s.modOwner o f).dev = s.dev := rfl
@[simp] theorem modOwner_turn (s : State) (o : Nat) (f : Owner → Owner) : (s.modOwner o f).turn = s.turn := rfl
@[simp] theorem modOwner_atCore (s : State) (o : Nat) (f : Owner → Owner) : (s.modOwner o f).atCore = s.atCore := rfl
@[simp] theorem modOwner_cur (s : State) (o : Nat) (f : Owner → Owner) : (s.modOwner o f).cur = s.cur := rfl
@[simp] theorem modOwner_cores (s : State) (o : Nat) (f : Owner → Owner) : (s.modOwner o f).cores = s.cores := rfl
@[simp] theorem modOwner_owners (s : State) (o : Nat) (f : Owner → Owner) : (s.modOwner o f).owners = modWhere s.owners (fun t => t.id == o) f := rfl
@[simp] theorem modOwner_lcores (s : State) (o : Nat) (f : Owner → Owner) : (s.modOwner o f).lcores = s.lcores := rfl
@[simp] theorem modOwner_strands (s : State) (o : Nat) (f : Owner → Owner) : (s.modOwner o f).strands = s.strands := rfl
@[simp] theorem modOwner_groups (s : State) (o : Nat) (f : Owner → Owner) : (s.modOwner o f).groups = s.groups := rfl
@[simp] theorem modOwner_accs (s : State) (o : Nat) (f : Owner → Owner) : (s.modOwner o f).accs = s.accs := rfl
@[simp] theorem modOwner_dets (s : State) (o : Nat) (f : Owner → Owner) : (s.modOwner o f).dets = s.dets := rfl
@[simp] theorem modOwner_mem (s : State) (o : Nat) (f : Owner → Owner) : (s.modOwner o f).mem = s.mem := rfl
@[simp] theorem modOwner_empties (s : State) (o : Nat) (f : Owner → Owner) : (s.modOwner o f).empties = s.empties := rfl
@[simp] theorem modOwner_poison (s : State) (o : Nat) (f : Owner → Owner) : (s.modOwner o f).poison = s.poison := rfl
@[simp] theorem modOwner_hostMem (s : State) (o : Nat) (f : Owner → Owner) : (s.modOwner o f).hostMem = s.hostMem := rfl
@[simp] theorem modOwner_transfers (s : State) (o : Nat) (f : Owner → Owner) : (s.modOwner o f).transfers = s.transfers := rfl
@[simp] theorem modOwner_seqs (s : State) (o : Nat) (f : Owner → Owner) : (s.modOwner o f).seqs = s.seqs := rfl
@[simp] theorem modOwner_outbox (s : State) (o : Nat) (f : Owner → Owner) : (s.modOwner o f).outbox = s.outbox := rfl
@[simp] theorem modOwner_clauses (s : State) (o : Nat) (f : Owner → Owner) : (s.modOwner o f).clauses = s.clauses := rfl
@[simp] theorem modOwner_feHz (s : State) (o : Nat) (f : Owner → Owner) : (s.modOwner o f).feHz = s.feHz := rfl
@[simp] theorem modOwner_released (s : State) (o : Nat) (f : Owner → Owner) : (s.modOwner o f).released = s.released := rfl
@[simp] theorem modOwner_begun (s : State) (o : Nat) (f : Owner → Owner) : (s.modOwner o f).begun = s.begun := rfl
@[simp] theorem modOwner_log (s : State) (o : Nat) (f : Owner → Owner) : (s.modOwner o f).log = s.log := rfl
@[simp] theorem modOwner_intrs (s : State) (o : Nat) (f : Owner → Owner) : (s.modOwner o f).intrs = s.intrs := rfl
@[simp] theorem modOwner_images (s : State) (o : Nat) (f : Owner → Owner) : (s.modOwner o f).images = s.images := rfl
@[simp] theorem modOwner_kept (s : State) (o : Nat) (f : Owner → Owner) : (s.modOwner o f).kept = s.kept := rfl
@[simp] theorem modOwner_remotes (s : State) (o : Nat) (f : Owner → Owner) : (s.modOwner o f).remotes = s.remotes := rfl
@[simp] theorem modOwner_inputs (s : State) (o : Nat) (f : Owner → Owner) : (s.modOwner o f).inputs = s.inputs := rfl
@[simp] theorem modOwner_actClock (s : State) (o : Nat) (f : Owner → Owner) : (s.modOwner o f).actClock = s.actClock := rfl
@[simp] theorem modOwner_nextId (s : State) (o : Nat) (f : Owner → Owner) : (s.modOwner o f).nextId = s.nextId := rfl
@[simp] theorem modOwner_freeN (s : State) (o : Nat) (f : Owner → Owner) : (s.modOwner o f).freeN = s.freeN := rfl

/-! ### `modLcore` -/

@[simp] theorem modLcore_dcyc (s : State) (o n : Nat) (f : LCore → LCore) : (s.modLcore o n f).dcyc = s.dcyc := rfl
@[simp] theorem modLcore_dev (s : State) (o n : Nat) (f : LCore → LCore) : (s.modLcore o n f).dev = s.dev := rfl
@[simp] theorem modLcore_turn (s : State) (o n : Nat) (f : LCore → LCore) : (s.modLcore o n f).turn = s.turn := rfl
@[simp] theorem modLcore_atCore (s : State) (o n : Nat) (f : LCore → LCore) : (s.modLcore o n f).atCore = s.atCore := rfl
@[simp] theorem modLcore_cur (s : State) (o n : Nat) (f : LCore → LCore) : (s.modLcore o n f).cur = s.cur := rfl
@[simp] theorem modLcore_cores (s : State) (o n : Nat) (f : LCore → LCore) : (s.modLcore o n f).cores = s.cores := rfl
@[simp] theorem modLcore_owners (s : State) (o n : Nat) (f : LCore → LCore) : (s.modLcore o n f).owners = s.owners := rfl
@[simp] theorem modLcore_lcores (s : State) (o n : Nat) (f : LCore → LCore) : (s.modLcore o n f).lcores = modWhere s.lcores (fun t => t.owner == o && t.num == n) f := rfl
@[simp] theorem modLcore_strands (s : State) (o n : Nat) (f : LCore → LCore) : (s.modLcore o n f).strands = s.strands := rfl
@[simp] theorem modLcore_groups (s : State) (o n : Nat) (f : LCore → LCore) : (s.modLcore o n f).groups = s.groups := rfl
@[simp] theorem modLcore_accs (s : State) (o n : Nat) (f : LCore → LCore) : (s.modLcore o n f).accs = s.accs := rfl
@[simp] theorem modLcore_dets (s : State) (o n : Nat) (f : LCore → LCore) : (s.modLcore o n f).dets = s.dets := rfl
@[simp] theorem modLcore_mem (s : State) (o n : Nat) (f : LCore → LCore) : (s.modLcore o n f).mem = s.mem := rfl
@[simp] theorem modLcore_empties (s : State) (o n : Nat) (f : LCore → LCore) : (s.modLcore o n f).empties = s.empties := rfl
@[simp] theorem modLcore_poison (s : State) (o n : Nat) (f : LCore → LCore) : (s.modLcore o n f).poison = s.poison := rfl
@[simp] theorem modLcore_hostMem (s : State) (o n : Nat) (f : LCore → LCore) : (s.modLcore o n f).hostMem = s.hostMem := rfl
@[simp] theorem modLcore_transfers (s : State) (o n : Nat) (f : LCore → LCore) : (s.modLcore o n f).transfers = s.transfers := rfl
@[simp] theorem modLcore_seqs (s : State) (o n : Nat) (f : LCore → LCore) : (s.modLcore o n f).seqs = s.seqs := rfl
@[simp] theorem modLcore_outbox (s : State) (o n : Nat) (f : LCore → LCore) : (s.modLcore o n f).outbox = s.outbox := rfl
@[simp] theorem modLcore_clauses (s : State) (o n : Nat) (f : LCore → LCore) : (s.modLcore o n f).clauses = s.clauses := rfl
@[simp] theorem modLcore_feHz (s : State) (o n : Nat) (f : LCore → LCore) : (s.modLcore o n f).feHz = s.feHz := rfl
@[simp] theorem modLcore_released (s : State) (o n : Nat) (f : LCore → LCore) : (s.modLcore o n f).released = s.released := rfl
@[simp] theorem modLcore_begun (s : State) (o n : Nat) (f : LCore → LCore) : (s.modLcore o n f).begun = s.begun := rfl
@[simp] theorem modLcore_log (s : State) (o n : Nat) (f : LCore → LCore) : (s.modLcore o n f).log = s.log := rfl
@[simp] theorem modLcore_intrs (s : State) (o n : Nat) (f : LCore → LCore) : (s.modLcore o n f).intrs = s.intrs := rfl
@[simp] theorem modLcore_images (s : State) (o n : Nat) (f : LCore → LCore) : (s.modLcore o n f).images = s.images := rfl
@[simp] theorem modLcore_kept (s : State) (o n : Nat) (f : LCore → LCore) : (s.modLcore o n f).kept = s.kept := rfl
@[simp] theorem modLcore_remotes (s : State) (o n : Nat) (f : LCore → LCore) : (s.modLcore o n f).remotes = s.remotes := rfl
@[simp] theorem modLcore_inputs (s : State) (o n : Nat) (f : LCore → LCore) : (s.modLcore o n f).inputs = s.inputs := rfl
@[simp] theorem modLcore_actClock (s : State) (o n : Nat) (f : LCore → LCore) : (s.modLcore o n f).actClock = s.actClock := rfl
@[simp] theorem modLcore_nextId (s : State) (o n : Nat) (f : LCore → LCore) : (s.modLcore o n f).nextId = s.nextId := rfl
@[simp] theorem modLcore_freeN (s : State) (o n : Nat) (f : LCore → LCore) : (s.modLcore o n f).freeN = s.freeN := rfl

/-! ### `modGroup` -/

@[simp] theorem modGroup_dcyc (s : State) (g : Nat) (f : Group → Group) : (s.modGroup g f).dcyc = s.dcyc := rfl
@[simp] theorem modGroup_dev (s : State) (g : Nat) (f : Group → Group) : (s.modGroup g f).dev = s.dev := rfl
@[simp] theorem modGroup_turn (s : State) (g : Nat) (f : Group → Group) : (s.modGroup g f).turn = s.turn := rfl
@[simp] theorem modGroup_atCore (s : State) (g : Nat) (f : Group → Group) : (s.modGroup g f).atCore = s.atCore := rfl
@[simp] theorem modGroup_cur (s : State) (g : Nat) (f : Group → Group) : (s.modGroup g f).cur = s.cur := rfl
@[simp] theorem modGroup_cores (s : State) (g : Nat) (f : Group → Group) : (s.modGroup g f).cores = s.cores := rfl
@[simp] theorem modGroup_owners (s : State) (g : Nat) (f : Group → Group) : (s.modGroup g f).owners = s.owners := rfl
@[simp] theorem modGroup_lcores (s : State) (g : Nat) (f : Group → Group) : (s.modGroup g f).lcores = s.lcores := rfl
@[simp] theorem modGroup_strands (s : State) (g : Nat) (f : Group → Group) : (s.modGroup g f).strands = s.strands := rfl
@[simp] theorem modGroup_groups (s : State) (g : Nat) (f : Group → Group) : (s.modGroup g f).groups = modWhere s.groups (fun t => t.id == g) f := rfl
@[simp] theorem modGroup_accs (s : State) (g : Nat) (f : Group → Group) : (s.modGroup g f).accs = s.accs := rfl
@[simp] theorem modGroup_dets (s : State) (g : Nat) (f : Group → Group) : (s.modGroup g f).dets = s.dets := rfl
@[simp] theorem modGroup_mem (s : State) (g : Nat) (f : Group → Group) : (s.modGroup g f).mem = s.mem := rfl
@[simp] theorem modGroup_empties (s : State) (g : Nat) (f : Group → Group) : (s.modGroup g f).empties = s.empties := rfl
@[simp] theorem modGroup_poison (s : State) (g : Nat) (f : Group → Group) : (s.modGroup g f).poison = s.poison := rfl
@[simp] theorem modGroup_hostMem (s : State) (g : Nat) (f : Group → Group) : (s.modGroup g f).hostMem = s.hostMem := rfl
@[simp] theorem modGroup_transfers (s : State) (g : Nat) (f : Group → Group) : (s.modGroup g f).transfers = s.transfers := rfl
@[simp] theorem modGroup_seqs (s : State) (g : Nat) (f : Group → Group) : (s.modGroup g f).seqs = s.seqs := rfl
@[simp] theorem modGroup_outbox (s : State) (g : Nat) (f : Group → Group) : (s.modGroup g f).outbox = s.outbox := rfl
@[simp] theorem modGroup_clauses (s : State) (g : Nat) (f : Group → Group) : (s.modGroup g f).clauses = s.clauses := rfl
@[simp] theorem modGroup_feHz (s : State) (g : Nat) (f : Group → Group) : (s.modGroup g f).feHz = s.feHz := rfl
@[simp] theorem modGroup_released (s : State) (g : Nat) (f : Group → Group) : (s.modGroup g f).released = s.released := rfl
@[simp] theorem modGroup_begun (s : State) (g : Nat) (f : Group → Group) : (s.modGroup g f).begun = s.begun := rfl
@[simp] theorem modGroup_log (s : State) (g : Nat) (f : Group → Group) : (s.modGroup g f).log = s.log := rfl
@[simp] theorem modGroup_intrs (s : State) (g : Nat) (f : Group → Group) : (s.modGroup g f).intrs = s.intrs := rfl
@[simp] theorem modGroup_images (s : State) (g : Nat) (f : Group → Group) : (s.modGroup g f).images = s.images := rfl
@[simp] theorem modGroup_kept (s : State) (g : Nat) (f : Group → Group) : (s.modGroup g f).kept = s.kept := rfl
@[simp] theorem modGroup_remotes (s : State) (g : Nat) (f : Group → Group) : (s.modGroup g f).remotes = s.remotes := rfl
@[simp] theorem modGroup_inputs (s : State) (g : Nat) (f : Group → Group) : (s.modGroup g f).inputs = s.inputs := rfl
@[simp] theorem modGroup_actClock (s : State) (g : Nat) (f : Group → Group) : (s.modGroup g f).actClock = s.actClock := rfl
@[simp] theorem modGroup_nextId (s : State) (g : Nat) (f : Group → Group) : (s.modGroup g f).nextId = s.nextId := rfl
@[simp] theorem modGroup_freeN (s : State) (g : Nat) (f : Group → Group) : (s.modGroup g f).freeN = s.freeN := rfl

/-! ### `modStream` -/

@[simp] theorem modStream_dcyc (s : State) (c : Cur) (f : Stream → Stream) : (s.modStream c f).dcyc = s.dcyc := rfl
@[simp] theorem modStream_dev (s : State) (c : Cur) (f : Stream → Stream) : (s.modStream c f).dev = s.dev := rfl
@[simp] theorem modStream_turn (s : State) (c : Cur) (f : Stream → Stream) : (s.modStream c f).turn = s.turn := rfl
@[simp] theorem modStream_atCore (s : State) (c : Cur) (f : Stream → Stream) : (s.modStream c f).atCore = s.atCore := rfl
@[simp] theorem modStream_cur (s : State) (c : Cur) (f : Stream → Stream) : (s.modStream c f).cur = s.cur := rfl
@[simp] theorem modStream_cores (s : State) (c : Cur) (f : Stream → Stream) : (s.modStream c f).cores = s.cores := rfl
@[simp] theorem modStream_owners (s : State) (c : Cur) (f : Stream → Stream) : (s.modStream c f).owners = s.owners := rfl
@[simp] theorem modStream_lcores (s : State) (c : Cur) (f : Stream → Stream) : (s.modStream c f).lcores = s.lcores := rfl
@[simp] theorem modStream_strands (s : State) (c : Cur) (f : Stream → Stream) : (s.modStream c f).strands = modWhere s.strands (fun t => t.id == c.strand) (·.modStream c.set f) := rfl
@[simp] theorem modStream_groups (s : State) (c : Cur) (f : Stream → Stream) : (s.modStream c f).groups = s.groups := rfl
@[simp] theorem modStream_accs (s : State) (c : Cur) (f : Stream → Stream) : (s.modStream c f).accs = s.accs := rfl
@[simp] theorem modStream_dets (s : State) (c : Cur) (f : Stream → Stream) : (s.modStream c f).dets = s.dets := rfl
@[simp] theorem modStream_mem (s : State) (c : Cur) (f : Stream → Stream) : (s.modStream c f).mem = s.mem := rfl
@[simp] theorem modStream_empties (s : State) (c : Cur) (f : Stream → Stream) : (s.modStream c f).empties = s.empties := rfl
@[simp] theorem modStream_poison (s : State) (c : Cur) (f : Stream → Stream) : (s.modStream c f).poison = s.poison := rfl
@[simp] theorem modStream_hostMem (s : State) (c : Cur) (f : Stream → Stream) : (s.modStream c f).hostMem = s.hostMem := rfl
@[simp] theorem modStream_transfers (s : State) (c : Cur) (f : Stream → Stream) : (s.modStream c f).transfers = s.transfers := rfl
@[simp] theorem modStream_seqs (s : State) (c : Cur) (f : Stream → Stream) : (s.modStream c f).seqs = s.seqs := rfl
@[simp] theorem modStream_outbox (s : State) (c : Cur) (f : Stream → Stream) : (s.modStream c f).outbox = s.outbox := rfl
@[simp] theorem modStream_clauses (s : State) (c : Cur) (f : Stream → Stream) : (s.modStream c f).clauses = s.clauses := rfl
@[simp] theorem modStream_feHz (s : State) (c : Cur) (f : Stream → Stream) : (s.modStream c f).feHz = s.feHz := rfl
@[simp] theorem modStream_released (s : State) (c : Cur) (f : Stream → Stream) : (s.modStream c f).released = s.released := rfl
@[simp] theorem modStream_begun (s : State) (c : Cur) (f : Stream → Stream) : (s.modStream c f).begun = s.begun := rfl
@[simp] theorem modStream_log (s : State) (c : Cur) (f : Stream → Stream) : (s.modStream c f).log = s.log := rfl
@[simp] theorem modStream_intrs (s : State) (c : Cur) (f : Stream → Stream) : (s.modStream c f).intrs = s.intrs := rfl
@[simp] theorem modStream_images (s : State) (c : Cur) (f : Stream → Stream) : (s.modStream c f).images = s.images := rfl
@[simp] theorem modStream_kept (s : State) (c : Cur) (f : Stream → Stream) : (s.modStream c f).kept = s.kept := rfl
@[simp] theorem modStream_remotes (s : State) (c : Cur) (f : Stream → Stream) : (s.modStream c f).remotes = s.remotes := rfl
@[simp] theorem modStream_inputs (s : State) (c : Cur) (f : Stream → Stream) : (s.modStream c f).inputs = s.inputs := rfl
@[simp] theorem modStream_actClock (s : State) (c : Cur) (f : Stream → Stream) : (s.modStream c f).actClock = s.actClock := rfl
@[simp] theorem modStream_nextId (s : State) (c : Cur) (f : Stream → Stream) : (s.modStream c f).nextId = s.nextId := rfl
@[simp] theorem modStream_freeN (s : State) (c : Cur) (f : Stream → Stream) : (s.modStream c f).freeN = s.freeN := rfl

/-! ### `setCore` -/

@[simp] theorem setCore_dcyc (s : State) (p : Nat) (c : Core) : (s.setCore p c).dcyc = s.dcyc := rfl
@[simp] theorem setCore_dev (s : State) (p : Nat) (c : Core) : (s.setCore p c).dev = s.dev := rfl
@[simp] theorem setCore_turn (s : State) (p : Nat) (c : Core) : (s.setCore p c).turn = s.turn := rfl
@[simp] theorem setCore_atCore (s : State) (p : Nat) (c : Core) : (s.setCore p c).atCore = s.atCore := rfl
@[simp] theorem setCore_cur (s : State) (p : Nat) (c : Core) : (s.setCore p c).cur = s.cur := rfl
@[simp] theorem setCore_cores (s : State) (p : Nat) (c : Core) : (s.setCore p c).cores = tblSet core0 s.cores p c := rfl
@[simp] theorem setCore_owners (s : State) (p : Nat) (c : Core) : (s.setCore p c).owners = s.owners := rfl
@[simp] theorem setCore_lcores (s : State) (p : Nat) (c : Core) : (s.setCore p c).lcores = s.lcores := rfl
@[simp] theorem setCore_strands (s : State) (p : Nat) (c : Core) : (s.setCore p c).strands = s.strands := rfl
@[simp] theorem setCore_groups (s : State) (p : Nat) (c : Core) : (s.setCore p c).groups = s.groups := rfl
@[simp] theorem setCore_accs (s : State) (p : Nat) (c : Core) : (s.setCore p c).accs = s.accs := rfl
@[simp] theorem setCore_dets (s : State) (p : Nat) (c : Core) : (s.setCore p c).dets = s.dets := rfl
@[simp] theorem setCore_mem (s : State) (p : Nat) (c : Core) : (s.setCore p c).mem = s.mem := rfl
@[simp] theorem setCore_empties (s : State) (p : Nat) (c : Core) : (s.setCore p c).empties = s.empties := rfl
@[simp] theorem setCore_poison (s : State) (p : Nat) (c : Core) : (s.setCore p c).poison = s.poison := rfl
@[simp] theorem setCore_hostMem (s : State) (p : Nat) (c : Core) : (s.setCore p c).hostMem = s.hostMem := rfl
@[simp] theorem setCore_transfers (s : State) (p : Nat) (c : Core) : (s.setCore p c).transfers = s.transfers := rfl
@[simp] theorem setCore_seqs (s : State) (p : Nat) (c : Core) : (s.setCore p c).seqs = s.seqs := rfl
@[simp] theorem setCore_outbox (s : State) (p : Nat) (c : Core) : (s.setCore p c).outbox = s.outbox := rfl
@[simp] theorem setCore_clauses (s : State) (p : Nat) (c : Core) : (s.setCore p c).clauses = s.clauses := rfl
@[simp] theorem setCore_feHz (s : State) (p : Nat) (c : Core) : (s.setCore p c).feHz = s.feHz := rfl
@[simp] theorem setCore_released (s : State) (p : Nat) (c : Core) : (s.setCore p c).released = s.released := rfl
@[simp] theorem setCore_begun (s : State) (p : Nat) (c : Core) : (s.setCore p c).begun = s.begun := rfl
@[simp] theorem setCore_log (s : State) (p : Nat) (c : Core) : (s.setCore p c).log = s.log := rfl
@[simp] theorem setCore_intrs (s : State) (p : Nat) (c : Core) : (s.setCore p c).intrs = s.intrs := rfl
@[simp] theorem setCore_images (s : State) (p : Nat) (c : Core) : (s.setCore p c).images = s.images := rfl
@[simp] theorem setCore_kept (s : State) (p : Nat) (c : Core) : (s.setCore p c).kept = s.kept := rfl
@[simp] theorem setCore_remotes (s : State) (p : Nat) (c : Core) : (s.setCore p c).remotes = s.remotes := rfl
@[simp] theorem setCore_inputs (s : State) (p : Nat) (c : Core) : (s.setCore p c).inputs = s.inputs := rfl
@[simp] theorem setCore_actClock (s : State) (p : Nat) (c : Core) : (s.setCore p c).actClock = s.actClock := rfl
@[simp] theorem setCore_nextId (s : State) (p : Nat) (c : Core) : (s.setCore p c).nextId = s.nextId := rfl
@[simp] theorem setCore_freeN (s : State) (p : Nat) (c : Core) : (s.setCore p c).freeN = s.freeN := rfl

/-! ### `fresh` -/

@[simp] theorem fresh_dcyc (s : State) : (s.fresh).dcyc = s.dcyc := rfl
@[simp] theorem fresh_dev (s : State) : (s.fresh).dev = s.dev := rfl
@[simp] theorem fresh_turn (s : State) : (s.fresh).turn = s.turn := rfl
@[simp] theorem fresh_atCore (s : State) : (s.fresh).atCore = s.atCore := rfl
@[simp] theorem fresh_cur (s : State) : (s.fresh).cur = s.cur := rfl
@[simp] theorem fresh_cores (s : State) : (s.fresh).cores = s.cores := rfl
@[simp] theorem fresh_owners (s : State) : (s.fresh).owners = s.owners := rfl
@[simp] theorem fresh_lcores (s : State) : (s.fresh).lcores = s.lcores := rfl
@[simp] theorem fresh_strands (s : State) : (s.fresh).strands = s.strands := rfl
@[simp] theorem fresh_groups (s : State) : (s.fresh).groups = s.groups := rfl
@[simp] theorem fresh_accs (s : State) : (s.fresh).accs = s.accs := rfl
@[simp] theorem fresh_dets (s : State) : (s.fresh).dets = s.dets := rfl
@[simp] theorem fresh_mem (s : State) : (s.fresh).mem = s.mem := rfl
@[simp] theorem fresh_empties (s : State) : (s.fresh).empties = s.empties := rfl
@[simp] theorem fresh_poison (s : State) : (s.fresh).poison = s.poison := rfl
@[simp] theorem fresh_hostMem (s : State) : (s.fresh).hostMem = s.hostMem := rfl
@[simp] theorem fresh_transfers (s : State) : (s.fresh).transfers = s.transfers := rfl
@[simp] theorem fresh_seqs (s : State) : (s.fresh).seqs = s.seqs := rfl
@[simp] theorem fresh_outbox (s : State) : (s.fresh).outbox = s.outbox := rfl
@[simp] theorem fresh_clauses (s : State) : (s.fresh).clauses = s.clauses := rfl
@[simp] theorem fresh_feHz (s : State) : (s.fresh).feHz = s.feHz := rfl
@[simp] theorem fresh_released (s : State) : (s.fresh).released = s.released := rfl
@[simp] theorem fresh_begun (s : State) : (s.fresh).begun = s.begun := rfl
@[simp] theorem fresh_log (s : State) : (s.fresh).log = s.log := rfl
@[simp] theorem fresh_intrs (s : State) : (s.fresh).intrs = s.intrs := rfl
@[simp] theorem fresh_images (s : State) : (s.fresh).images = s.images := rfl
@[simp] theorem fresh_kept (s : State) : (s.fresh).kept = s.kept := rfl
@[simp] theorem fresh_remotes (s : State) : (s.fresh).remotes = s.remotes := rfl
@[simp] theorem fresh_inputs (s : State) : (s.fresh).inputs = s.inputs := rfl
@[simp] theorem fresh_actClock (s : State) : (s.fresh).actClock = s.actClock := rfl
@[simp] theorem fresh_nextId (s : State) : (s.fresh).nextId = s.nextId + 1 := rfl
@[simp] theorem fresh_freeN (s : State) : (s.fresh).freeN = s.freeN := rfl

/-! ### `putBytes` -/

@[simp] theorem putBytes_dcyc (s : State) (pa : Nat) (bs : List Byte) : (s.putBytes pa bs).dcyc = s.dcyc := rfl
@[simp] theorem putBytes_dev (s : State) (pa : Nat) (bs : List Byte) : (s.putBytes pa bs).dev = s.dev := rfl
@[simp] theorem putBytes_turn (s : State) (pa : Nat) (bs : List Byte) : (s.putBytes pa bs).turn = s.turn := rfl
@[simp] theorem putBytes_atCore (s : State) (pa : Nat) (bs : List Byte) : (s.putBytes pa bs).atCore = s.atCore := rfl
@[simp] theorem putBytes_cur (s : State) (pa : Nat) (bs : List Byte) : (s.putBytes pa bs).cur = s.cur := rfl
@[simp] theorem putBytes_cores (s : State) (pa : Nat) (bs : List Byte) : (s.putBytes pa bs).cores = s.cores := rfl
@[simp] theorem putBytes_owners (s : State) (pa : Nat) (bs : List Byte) : (s.putBytes pa bs).owners = s.owners := rfl
@[simp] theorem putBytes_lcores (s : State) (pa : Nat) (bs : List Byte) : (s.putBytes pa bs).lcores = s.lcores := rfl
@[simp] theorem putBytes_strands (s : State) (pa : Nat) (bs : List Byte) : (s.putBytes pa bs).strands = s.strands := rfl
@[simp] theorem putBytes_groups (s : State) (pa : Nat) (bs : List Byte) : (s.putBytes pa bs).groups = s.groups := rfl
@[simp] theorem putBytes_accs (s : State) (pa : Nat) (bs : List Byte) : (s.putBytes pa bs).accs = s.accs := rfl
@[simp] theorem putBytes_dets (s : State) (pa : Nat) (bs : List Byte) : (s.putBytes pa bs).dets = s.dets := rfl
@[simp] theorem putBytes_mem (s : State) (pa : Nat) (bs : List Byte) : (s.putBytes pa bs).mem = putCells s.mem pa bs := rfl
@[simp] theorem putBytes_empties (s : State) (pa : Nat) (bs : List Byte) : (s.putBytes pa bs).empties = s.empties := rfl
@[simp] theorem putBytes_poison (s : State) (pa : Nat) (bs : List Byte) : (s.putBytes pa bs).poison = s.poison := rfl
@[simp] theorem putBytes_hostMem (s : State) (pa : Nat) (bs : List Byte) : (s.putBytes pa bs).hostMem = s.hostMem := rfl
@[simp] theorem putBytes_transfers (s : State) (pa : Nat) (bs : List Byte) : (s.putBytes pa bs).transfers = s.transfers := rfl
@[simp] theorem putBytes_seqs (s : State) (pa : Nat) (bs : List Byte) : (s.putBytes pa bs).seqs = s.seqs := rfl
@[simp] theorem putBytes_outbox (s : State) (pa : Nat) (bs : List Byte) : (s.putBytes pa bs).outbox = s.outbox := rfl
@[simp] theorem putBytes_clauses (s : State) (pa : Nat) (bs : List Byte) : (s.putBytes pa bs).clauses = s.clauses := rfl
@[simp] theorem putBytes_feHz (s : State) (pa : Nat) (bs : List Byte) : (s.putBytes pa bs).feHz = s.feHz := rfl
@[simp] theorem putBytes_released (s : State) (pa : Nat) (bs : List Byte) : (s.putBytes pa bs).released = s.released := rfl
@[simp] theorem putBytes_begun (s : State) (pa : Nat) (bs : List Byte) : (s.putBytes pa bs).begun = s.begun := rfl
@[simp] theorem putBytes_log (s : State) (pa : Nat) (bs : List Byte) : (s.putBytes pa bs).log = s.log := rfl
@[simp] theorem putBytes_intrs (s : State) (pa : Nat) (bs : List Byte) : (s.putBytes pa bs).intrs = s.intrs := rfl
@[simp] theorem putBytes_images (s : State) (pa : Nat) (bs : List Byte) : (s.putBytes pa bs).images = s.images := rfl
@[simp] theorem putBytes_kept (s : State) (pa : Nat) (bs : List Byte) : (s.putBytes pa bs).kept = s.kept := rfl
@[simp] theorem putBytes_remotes (s : State) (pa : Nat) (bs : List Byte) : (s.putBytes pa bs).remotes = s.remotes := rfl
@[simp] theorem putBytes_inputs (s : State) (pa : Nat) (bs : List Byte) : (s.putBytes pa bs).inputs = s.inputs := rfl
@[simp] theorem putBytes_actClock (s : State) (pa : Nat) (bs : List Byte) : (s.putBytes pa bs).actClock = s.actClock := rfl
@[simp] theorem putBytes_nextId (s : State) (pa : Nat) (bs : List Byte) : (s.putBytes pa bs).nextId = s.nextId := rfl
@[simp] theorem putBytes_freeN (s : State) (pa : Nat) (bs : List Byte) : (s.putBytes pa bs).freeN = s.freeN := rfl

/-! ### `setFull` -/

@[simp] theorem setFull_dcyc (s : State) (w : Nat) (full : Bool) : (s.setFull w full).dcyc = s.dcyc := rfl
@[simp] theorem setFull_dev (s : State) (w : Nat) (full : Bool) : (s.setFull w full).dev = s.dev := rfl
@[simp] theorem setFull_turn (s : State) (w : Nat) (full : Bool) : (s.setFull w full).turn = s.turn := rfl
@[simp] theorem setFull_atCore (s : State) (w : Nat) (full : Bool) : (s.setFull w full).atCore = s.atCore := rfl
@[simp] theorem setFull_cur (s : State) (w : Nat) (full : Bool) : (s.setFull w full).cur = s.cur := rfl
@[simp] theorem setFull_cores (s : State) (w : Nat) (full : Bool) : (s.setFull w full).cores = s.cores := rfl
@[simp] theorem setFull_owners (s : State) (w : Nat) (full : Bool) : (s.setFull w full).owners = s.owners := rfl
@[simp] theorem setFull_lcores (s : State) (w : Nat) (full : Bool) : (s.setFull w full).lcores = s.lcores := rfl
@[simp] theorem setFull_strands (s : State) (w : Nat) (full : Bool) : (s.setFull w full).strands = s.strands := rfl
@[simp] theorem setFull_groups (s : State) (w : Nat) (full : Bool) : (s.setFull w full).groups = s.groups := rfl
@[simp] theorem setFull_accs (s : State) (w : Nat) (full : Bool) : (s.setFull w full).accs = s.accs := rfl
@[simp] theorem setFull_dets (s : State) (w : Nat) (full : Bool) : (s.setFull w full).dets = s.dets := rfl
@[simp] theorem setFull_mem (s : State) (w : Nat) (full : Bool) : (s.setFull w full).mem = s.mem := rfl
@[simp] theorem setFull_empties (s : State) (w : Nat) (full : Bool) : (s.setFull w full).empties = if full then natErase s.empties w else natInsert s.empties w := rfl
@[simp] theorem setFull_poison (s : State) (w : Nat) (full : Bool) : (s.setFull w full).poison = s.poison := rfl
@[simp] theorem setFull_hostMem (s : State) (w : Nat) (full : Bool) : (s.setFull w full).hostMem = s.hostMem := rfl
@[simp] theorem setFull_transfers (s : State) (w : Nat) (full : Bool) : (s.setFull w full).transfers = s.transfers := rfl
@[simp] theorem setFull_seqs (s : State) (w : Nat) (full : Bool) : (s.setFull w full).seqs = s.seqs := rfl
@[simp] theorem setFull_outbox (s : State) (w : Nat) (full : Bool) : (s.setFull w full).outbox = s.outbox := rfl
@[simp] theorem setFull_clauses (s : State) (w : Nat) (full : Bool) : (s.setFull w full).clauses = s.clauses := rfl
@[simp] theorem setFull_feHz (s : State) (w : Nat) (full : Bool) : (s.setFull w full).feHz = s.feHz := rfl
@[simp] theorem setFull_released (s : State) (w : Nat) (full : Bool) : (s.setFull w full).released = s.released := rfl
@[simp] theorem setFull_begun (s : State) (w : Nat) (full : Bool) : (s.setFull w full).begun = s.begun := rfl
@[simp] theorem setFull_log (s : State) (w : Nat) (full : Bool) : (s.setFull w full).log = s.log := rfl
@[simp] theorem setFull_intrs (s : State) (w : Nat) (full : Bool) : (s.setFull w full).intrs = s.intrs := rfl
@[simp] theorem setFull_images (s : State) (w : Nat) (full : Bool) : (s.setFull w full).images = s.images := rfl
@[simp] theorem setFull_kept (s : State) (w : Nat) (full : Bool) : (s.setFull w full).kept = s.kept := rfl
@[simp] theorem setFull_remotes (s : State) (w : Nat) (full : Bool) : (s.setFull w full).remotes = s.remotes := rfl
@[simp] theorem setFull_inputs (s : State) (w : Nat) (full : Bool) : (s.setFull w full).inputs = s.inputs := rfl
@[simp] theorem setFull_actClock (s : State) (w : Nat) (full : Bool) : (s.setFull w full).actClock = s.actClock := rfl
@[simp] theorem setFull_nextId (s : State) (w : Nat) (full : Bool) : (s.setFull w full).nextId = s.nextId := rfl
@[simp] theorem setFull_freeN (s : State) (w : Nat) (full : Bool) : (s.setFull w full).freeN = s.freeN := rfl

/-! ### `setLane` -/

@[simp] theorem setLane_dcyc (s : State) (id lane : Nat) (f : LaneAcc → LaneAcc) : (s.setLane id lane f).dcyc = s.dcyc := rfl
@[simp] theorem setLane_dev (s : State) (id lane : Nat) (f : LaneAcc → LaneAcc) : (s.setLane id lane f).dev = s.dev := rfl
@[simp] theorem setLane_turn (s : State) (id lane : Nat) (f : LaneAcc → LaneAcc) : (s.setLane id lane f).turn = s.turn := rfl
@[simp] theorem setLane_atCore (s : State) (id lane : Nat) (f : LaneAcc → LaneAcc) : (s.setLane id lane f).atCore = s.atCore := rfl
@[simp] theorem setLane_cur (s : State) (id lane : Nat) (f : LaneAcc → LaneAcc) : (s.setLane id lane f).cur = s.cur := rfl
@[simp] theorem setLane_cores (s : State) (id lane : Nat) (f : LaneAcc → LaneAcc) : (s.setLane id lane f).cores = s.cores := rfl
@[simp] theorem setLane_owners (s : State) (id lane : Nat) (f : LaneAcc → LaneAcc) : (s.setLane id lane f).owners = s.owners := rfl
@[simp] theorem setLane_lcores (s : State) (id lane : Nat) (f : LaneAcc → LaneAcc) : (s.setLane id lane f).lcores = s.lcores := rfl
@[simp] theorem setLane_strands (s : State) (id lane : Nat) (f : LaneAcc → LaneAcc) : (s.setLane id lane f).strands = s.strands := rfl
@[simp] theorem setLane_groups (s : State) (id lane : Nat) (f : LaneAcc → LaneAcc) : (s.setLane id lane f).groups = s.groups := rfl
@[simp] theorem setLane_dets (s : State) (id lane : Nat) (f : LaneAcc → LaneAcc) : (s.setLane id lane f).dets = s.dets := rfl
@[simp] theorem setLane_mem (s : State) (id lane : Nat) (f : LaneAcc → LaneAcc) : (s.setLane id lane f).mem = s.mem := rfl
@[simp] theorem setLane_empties (s : State) (id lane : Nat) (f : LaneAcc → LaneAcc) : (s.setLane id lane f).empties = s.empties := rfl
@[simp] theorem setLane_poison (s : State) (id lane : Nat) (f : LaneAcc → LaneAcc) : (s.setLane id lane f).poison = s.poison := rfl
@[simp] theorem setLane_hostMem (s : State) (id lane : Nat) (f : LaneAcc → LaneAcc) : (s.setLane id lane f).hostMem = s.hostMem := rfl
@[simp] theorem setLane_transfers (s : State) (id lane : Nat) (f : LaneAcc → LaneAcc) : (s.setLane id lane f).transfers = s.transfers := rfl
@[simp] theorem setLane_seqs (s : State) (id lane : Nat) (f : LaneAcc → LaneAcc) : (s.setLane id lane f).seqs = s.seqs := rfl
@[simp] theorem setLane_outbox (s : State) (id lane : Nat) (f : LaneAcc → LaneAcc) : (s.setLane id lane f).outbox = s.outbox := rfl
@[simp] theorem setLane_clauses (s : State) (id lane : Nat) (f : LaneAcc → LaneAcc) : (s.setLane id lane f).clauses = s.clauses := rfl
@[simp] theorem setLane_feHz (s : State) (id lane : Nat) (f : LaneAcc → LaneAcc) : (s.setLane id lane f).feHz = s.feHz := rfl
@[simp] theorem setLane_released (s : State) (id lane : Nat) (f : LaneAcc → LaneAcc) : (s.setLane id lane f).released = s.released := rfl
@[simp] theorem setLane_begun (s : State) (id lane : Nat) (f : LaneAcc → LaneAcc) : (s.setLane id lane f).begun = s.begun := rfl
@[simp] theorem setLane_log (s : State) (id lane : Nat) (f : LaneAcc → LaneAcc) : (s.setLane id lane f).log = s.log := rfl
@[simp] theorem setLane_intrs (s : State) (id lane : Nat) (f : LaneAcc → LaneAcc) : (s.setLane id lane f).intrs = s.intrs := rfl
@[simp] theorem setLane_images (s : State) (id lane : Nat) (f : LaneAcc → LaneAcc) : (s.setLane id lane f).images = s.images := rfl
@[simp] theorem setLane_kept (s : State) (id lane : Nat) (f : LaneAcc → LaneAcc) : (s.setLane id lane f).kept = s.kept := rfl
@[simp] theorem setLane_remotes (s : State) (id lane : Nat) (f : LaneAcc → LaneAcc) : (s.setLane id lane f).remotes = s.remotes := rfl
@[simp] theorem setLane_inputs (s : State) (id lane : Nat) (f : LaneAcc → LaneAcc) : (s.setLane id lane f).inputs = s.inputs := rfl
@[simp] theorem setLane_actClock (s : State) (id lane : Nat) (f : LaneAcc → LaneAcc) : (s.setLane id lane f).actClock = s.actClock := rfl
@[simp] theorem setLane_nextId (s : State) (id lane : Nat) (f : LaneAcc → LaneAcc) : (s.setLane id lane f).nextId = s.nextId := rfl
@[simp] theorem setLane_freeN (s : State) (id lane : Nat) (f : LaneAcc → LaneAcc) : (s.setLane id lane f).freeN = s.freeN := rfl

/-! ### `setClause` -/

@[simp] theorem setClause_dcyc (s : State) (o k : Nat) (a : ClauseArray) : (s.setClause o k a).dcyc = s.dcyc := rfl
@[simp] theorem setClause_dev (s : State) (o k : Nat) (a : ClauseArray) : (s.setClause o k a).dev = s.dev := rfl
@[simp] theorem setClause_turn (s : State) (o k : Nat) (a : ClauseArray) : (s.setClause o k a).turn = s.turn := rfl
@[simp] theorem setClause_atCore (s : State) (o k : Nat) (a : ClauseArray) : (s.setClause o k a).atCore = s.atCore := rfl
@[simp] theorem setClause_cur (s : State) (o k : Nat) (a : ClauseArray) : (s.setClause o k a).cur = s.cur := rfl
@[simp] theorem setClause_cores (s : State) (o k : Nat) (a : ClauseArray) : (s.setClause o k a).cores = s.cores := rfl
@[simp] theorem setClause_owners (s : State) (o k : Nat) (a : ClauseArray) : (s.setClause o k a).owners = s.owners := rfl
@[simp] theorem setClause_lcores (s : State) (o k : Nat) (a : ClauseArray) : (s.setClause o k a).lcores = s.lcores := rfl
@[simp] theorem setClause_strands (s : State) (o k : Nat) (a : ClauseArray) : (s.setClause o k a).strands = s.strands := rfl
@[simp] theorem setClause_groups (s : State) (o k : Nat) (a : ClauseArray) : (s.setClause o k a).groups = s.groups := rfl
@[simp] theorem setClause_accs (s : State) (o k : Nat) (a : ClauseArray) : (s.setClause o k a).accs = s.accs := rfl
@[simp] theorem setClause_dets (s : State) (o k : Nat) (a : ClauseArray) : (s.setClause o k a).dets = s.dets := rfl
@[simp] theorem setClause_mem (s : State) (o k : Nat) (a : ClauseArray) : (s.setClause o k a).mem = s.mem := rfl
@[simp] theorem setClause_empties (s : State) (o k : Nat) (a : ClauseArray) : (s.setClause o k a).empties = s.empties := rfl
@[simp] theorem setClause_poison (s : State) (o k : Nat) (a : ClauseArray) : (s.setClause o k a).poison = s.poison := rfl
@[simp] theorem setClause_hostMem (s : State) (o k : Nat) (a : ClauseArray) : (s.setClause o k a).hostMem = s.hostMem := rfl
@[simp] theorem setClause_transfers (s : State) (o k : Nat) (a : ClauseArray) : (s.setClause o k a).transfers = s.transfers := rfl
@[simp] theorem setClause_seqs (s : State) (o k : Nat) (a : ClauseArray) : (s.setClause o k a).seqs = s.seqs := rfl
@[simp] theorem setClause_outbox (s : State) (o k : Nat) (a : ClauseArray) : (s.setClause o k a).outbox = s.outbox := rfl
@[simp] theorem setClause_clauses (s : State) (o k : Nat) (a : ClauseArray) : (s.setClause o k a).clauses = tblSet clause0 s.clauses (o * 64 + k) a := rfl
@[simp] theorem setClause_feHz (s : State) (o k : Nat) (a : ClauseArray) : (s.setClause o k a).feHz = s.feHz := rfl
@[simp] theorem setClause_released (s : State) (o k : Nat) (a : ClauseArray) : (s.setClause o k a).released = s.released := rfl
@[simp] theorem setClause_begun (s : State) (o k : Nat) (a : ClauseArray) : (s.setClause o k a).begun = s.begun := rfl
@[simp] theorem setClause_log (s : State) (o k : Nat) (a : ClauseArray) : (s.setClause o k a).log = s.log := rfl
@[simp] theorem setClause_intrs (s : State) (o k : Nat) (a : ClauseArray) : (s.setClause o k a).intrs = s.intrs := rfl
@[simp] theorem setClause_images (s : State) (o k : Nat) (a : ClauseArray) : (s.setClause o k a).images = s.images := rfl
@[simp] theorem setClause_kept (s : State) (o k : Nat) (a : ClauseArray) : (s.setClause o k a).kept = s.kept := rfl
@[simp] theorem setClause_remotes (s : State) (o k : Nat) (a : ClauseArray) : (s.setClause o k a).remotes = s.remotes := rfl
@[simp] theorem setClause_inputs (s : State) (o k : Nat) (a : ClauseArray) : (s.setClause o k a).inputs = s.inputs := rfl
@[simp] theorem setClause_actClock (s : State) (o k : Nat) (a : ClauseArray) : (s.setClause o k a).actClock = s.actClock := rfl
@[simp] theorem setClause_nextId (s : State) (o k : Nat) (a : ClauseArray) : (s.setClause o k a).nextId = s.nextId := rfl
@[simp] theorem setClause_freeN (s : State) (o k : Nat) (a : ClauseArray) : (s.setClause o k a).freeN = s.freeN := rfl

/-! ### `modQueue` -/

@[simp] theorem modQueue_dcyc (s : State) (o q : Nat) (f : Queue → Queue) : (s.modQueue o q f).dcyc = s.dcyc := rfl
@[simp] theorem modQueue_turn (s : State) (o q : Nat) (f : Queue → Queue) : (s.modQueue o q f).turn = s.turn := rfl
@[simp] theorem modQueue_atCore (s : State) (o q : Nat) (f : Queue → Queue) : (s.modQueue o q f).atCore = s.atCore := rfl
@[simp] theorem modQueue_cur (s : State) (o q : Nat) (f : Queue → Queue) : (s.modQueue o q f).cur = s.cur := rfl
@[simp] theorem modQueue_cores (s : State) (o q : Nat) (f : Queue → Queue) : (s.modQueue o q f).cores = s.cores := rfl
@[simp] theorem modQueue_owners (s : State) (o q : Nat) (f : Queue → Queue) : (s.modQueue o q f).owners = s.owners := rfl
@[simp] theorem modQueue_lcores (s : State) (o q : Nat) (f : Queue → Queue) : (s.modQueue o q f).lcores = s.lcores := rfl
@[simp] theorem modQueue_strands (s : State) (o q : Nat) (f : Queue → Queue) : (s.modQueue o q f).strands = s.strands := rfl
@[simp] theorem modQueue_groups (s : State) (o q : Nat) (f : Queue → Queue) : (s.modQueue o q f).groups = s.groups := rfl
@[simp] theorem modQueue_accs (s : State) (o q : Nat) (f : Queue → Queue) : (s.modQueue o q f).accs = s.accs := rfl
@[simp] theorem modQueue_dets (s : State) (o q : Nat) (f : Queue → Queue) : (s.modQueue o q f).dets = s.dets := rfl
@[simp] theorem modQueue_mem (s : State) (o q : Nat) (f : Queue → Queue) : (s.modQueue o q f).mem = s.mem := rfl
@[simp] theorem modQueue_empties (s : State) (o q : Nat) (f : Queue → Queue) : (s.modQueue o q f).empties = s.empties := rfl
@[simp] theorem modQueue_poison (s : State) (o q : Nat) (f : Queue → Queue) : (s.modQueue o q f).poison = s.poison := rfl
@[simp] theorem modQueue_hostMem (s : State) (o q : Nat) (f : Queue → Queue) : (s.modQueue o q f).hostMem = s.hostMem := rfl
@[simp] theorem modQueue_transfers (s : State) (o q : Nat) (f : Queue → Queue) : (s.modQueue o q f).transfers = s.transfers := rfl
@[simp] theorem modQueue_seqs (s : State) (o q : Nat) (f : Queue → Queue) : (s.modQueue o q f).seqs = s.seqs := rfl
@[simp] theorem modQueue_outbox (s : State) (o q : Nat) (f : Queue → Queue) : (s.modQueue o q f).outbox = s.outbox := rfl
@[simp] theorem modQueue_clauses (s : State) (o q : Nat) (f : Queue → Queue) : (s.modQueue o q f).clauses = s.clauses := rfl
@[simp] theorem modQueue_feHz (s : State) (o q : Nat) (f : Queue → Queue) : (s.modQueue o q f).feHz = s.feHz := rfl
@[simp] theorem modQueue_released (s : State) (o q : Nat) (f : Queue → Queue) : (s.modQueue o q f).released = s.released := rfl
@[simp] theorem modQueue_begun (s : State) (o q : Nat) (f : Queue → Queue) : (s.modQueue o q f).begun = s.begun := rfl
@[simp] theorem modQueue_log (s : State) (o q : Nat) (f : Queue → Queue) : (s.modQueue o q f).log = s.log := rfl
@[simp] theorem modQueue_intrs (s : State) (o q : Nat) (f : Queue → Queue) : (s.modQueue o q f).intrs = s.intrs := rfl
@[simp] theorem modQueue_images (s : State) (o q : Nat) (f : Queue → Queue) : (s.modQueue o q f).images = s.images := rfl
@[simp] theorem modQueue_kept (s : State) (o q : Nat) (f : Queue → Queue) : (s.modQueue o q f).kept = s.kept := rfl
@[simp] theorem modQueue_remotes (s : State) (o q : Nat) (f : Queue → Queue) : (s.modQueue o q f).remotes = s.remotes := rfl
@[simp] theorem modQueue_inputs (s : State) (o q : Nat) (f : Queue → Queue) : (s.modQueue o q f).inputs = s.inputs := rfl
@[simp] theorem modQueue_actClock (s : State) (o q : Nat) (f : Queue → Queue) : (s.modQueue o q f).actClock = s.actClock := rfl
@[simp] theorem modQueue_nextId (s : State) (o q : Nat) (f : Queue → Queue) : (s.modQueue o q f).nextId = s.nextId := rfl
@[simp] theorem modQueue_freeN (s : State) (o q : Nat) (f : Queue → Queue) : (s.modQueue o q f).freeN = s.freeN := rfl

/-! ### Strands -/

@[simp] theorem strand_modCtl_id (t : Strand) (f : Stream → Stream) : (t.modStream none f).id = t.id := rfl
@[simp] theorem modSet_id (t : Strand) (k : Nat) (f : GSet → GSet) : (t.modSet k f).id = t.id := rfl
@[simp] theorem strand_modCtl_grp (t : Strand) (f : Stream → Stream) : (t.modStream none f).grp = t.grp := rfl
@[simp] theorem modSet_grp (t : Strand) (k : Nat) (f : GSet → GSet) : (t.modSet k f).grp = t.grp := rfl
@[simp] theorem strand_modCtl_index (t : Strand) (f : Stream → Stream) : (t.modStream none f).index = t.index := rfl
@[simp] theorem modSet_index (t : Strand) (k : Nat) (f : GSet → GSet) : (t.modSet k f).index = t.index := rfl
@[simp] theorem strand_modCtl_age (t : Strand) (f : Stream → Stream) : (t.modStream none f).age = t.age := rfl
@[simp] theorem modSet_age (t : Strand) (k : Nat) (f : GSet → GSet) : (t.modSet k f).age = t.age := rfl
@[simp] theorem strand_modCtl_res (t : Strand) (f : Stream → Stream) : (t.modStream none f).res = t.res := rfl
@[simp] theorem modSet_res (t : Strand) (k : Nat) (f : GSet → GSet) : (t.modSet k f).res = t.res := rfl
@[simp] theorem strand_modCtl_joinOut (t : Strand) (f : Stream → Stream) : (t.modStream none f).joinOut = t.joinOut := rfl
@[simp] theorem modSet_joinOut (t : Strand) (k : Nat) (f : GSet → GSet) : (t.modSet k f).joinOut = t.joinOut := rfl
@[simp] theorem strand_modCtl_leftAt (t : Strand) (f : Stream → Stream) : (t.modStream none f).leftAt = t.leftAt := rfl
@[simp] theorem modSet_leftAt (t : Strand) (k : Nat) (f : GSet → GSet) : (t.modSet k f).leftAt = t.leftAt := rfl
@[simp] theorem strand_modCtl_leftNow (t : Strand) (f : Stream → Stream) : (t.modStream none f).leftNow = t.leftNow := rfl
@[simp] theorem modSet_leftNow (t : Strand) (k : Nat) (f : GSet → GSet) : (t.modSet k f).leftNow = t.leftNow := rfl
@[simp] theorem strand_modCtl_n (t : Strand) (f : Stream → Stream) : (t.modStream none f).n = t.n := rfl
@[simp] theorem modSet_n (t : Strand) (k : Nat) (f : GSet → GSet) : (t.modSet k f).n = t.n := rfl
@[simp] theorem strand_modCtl_slices (t : Strand) (f : Stream → Stream) : (t.modStream none f).slices = t.slices := rfl
@[simp] theorem modSet_slices (t : Strand) (k : Nat) (f : GSet → GSet) : (t.modSet k f).slices = t.slices := rfl
@[simp] theorem strand_modCtl_priv (t : Strand) (f : Stream → Stream) : (t.modStream none f).priv = t.priv := rfl
@[simp] theorem modSet_priv (t : Strand) (k : Nat) (f : GSet → GSet) : (t.modSet k f).priv = t.priv := rfl
@[simp] theorem strand_modCtl_tpriv (t : Strand) (f : Stream → Stream) : (t.modStream none f).tpriv = t.tpriv := rfl
@[simp] theorem modSet_tpriv (t : Strand) (k : Nat) (f : GSet → GSet) : (t.modSet k f).tpriv = t.tpriv := rfl
@[simp] theorem strand_modCtl_depth (t : Strand) (f : Stream → Stream) : (t.modStream none f).depth = t.depth := rfl
@[simp] theorem modSet_depth (t : Strand) (k : Nat) (f : GSet → GSet) : (t.modSet k f).depth = t.depth := rfl
@[simp] theorem strand_modCtl_tcause (t : Strand) (f : Stream → Stream) : (t.modStream none f).tcause = t.tcause := rfl
@[simp] theorem modSet_tcause (t : Strand) (k : Nat) (f : GSet → GSet) : (t.modSet k f).tcause = t.tcause := rfl
@[simp] theorem strand_modCtl_tpc (t : Strand) (f : Stream → Stream) : (t.modStream none f).tpc = t.tpc := rfl
@[simp] theorem modSet_tpc (t : Strand) (k : Nat) (f : GSet → GSet) : (t.modSet k f).tpc = t.tpc := rfl
@[simp] theorem strand_modCtl_tmask (t : Strand) (f : Stream → Stream) : (t.modStream none f).tmask = t.tmask := rfl
@[simp] theorem modSet_tmask (t : Strand) (k : Nat) (f : GSet → GSet) : (t.modSet k f).tmask = t.tmask := rfl
@[simp] theorem strand_modCtl_taddr (t : Strand) (f : Stream → Stream) : (t.modStream none f).taddr = t.taddr := rfl
@[simp] theorem modSet_taddr (t : Strand) (k : Nat) (f : GSet → GSet) : (t.modSet k f).taddr = t.taddr := rfl
@[simp] theorem strand_modCtl_tstrand (t : Strand) (f : Stream → Stream) : (t.modStream none f).tstrand = t.tstrand := rfl
@[simp] theorem modSet_tstrand (t : Strand) (k : Nat) (f : GSet → GSet) : (t.modSet k f).tstrand = t.tstrand := rfl
@[simp] theorem strand_modCtl_entryPc (t : Strand) (f : Stream → Stream) : (t.modStream none f).entryPc = t.entryPc := rfl
@[simp] theorem modSet_entryPc (t : Strand) (k : Nat) (f : GSet → GSet) : (t.modSet k f).entryPc = t.entryPc := rfl
@[simp] theorem strand_modCtl_batch (t : Strand) (f : Stream → Stream) : (t.modStream none f).batch = t.batch := rfl
@[simp] theorem modSet_batch (t : Strand) (k : Nat) (f : GSet → GSet) : (t.modSet k f).batch = t.batch := rfl
@[simp] theorem strand_modCtl_lclk (t : Strand) (f : Stream → Stream) : (t.modStream none f).lclk = t.lclk := rfl
@[simp] theorem modSet_lclk (t : Strand) (k : Nat) (f : GSet → GSet) : (t.modSet k f).lclk = t.lclk := rfl
@[simp] theorem strand_modCtl_cbase (t : Strand) (f : Stream → Stream) : (t.modStream none f).cbase = t.cbase := rfl
@[simp] theorem modSet_cbase (t : Strand) (k : Nat) (f : GSet → GSet) : (t.modSet k f).cbase = t.cbase := rfl
@[simp] theorem strand_modCtl_vbase (t : Strand) (f : Stream → Stream) : (t.modStream none f).vbase = t.vbase := rfl
@[simp] theorem modSet_vbase (t : Strand) (k : Nat) (f : GSet → GSet) : (t.modSet k f).vbase = t.vbase := rfl
@[simp] theorem modStream_ctl (t : Strand) (f : Stream → Stream) : (t.modStream none f).ctl = f t.ctl := rfl
@[simp] theorem modSet_ctl (t : Strand) (k : Nat) (f : GSet → GSet) : (t.modSet k f).ctl = t.ctl := rfl
@[simp] theorem strand_modCtl_cst (t : Strand) (f : Stream → Stream) : (t.modStream none f).cst = t.cst := rfl
@[simp] theorem modSet_cst (t : Strand) (k : Nat) (f : GSet → GSet) : (t.modSet k f).cst = t.cst := rfl
@[simp] theorem strand_modCtl_cregs (t : Strand) (f : Stream → Stream) : (t.modStream none f).cregs = t.cregs := rfl
@[simp] theorem modSet_cregs (t : Strand) (k : Nat) (f : GSet → GSet) : (t.modSet k f).cregs = t.cregs := rfl
@[simp] theorem strand_modCtl_vregs (t : Strand) (f : Stream → Stream) : (t.modStream none f).vregs = t.vregs := rfl
@[simp] theorem modSet_vregs (t : Strand) (k : Nat) (f : GSet → GSet) : (t.modSet k f).vregs = t.vregs := rfl
@[simp] theorem strand_modCtl_bmask (t : Strand) (f : Stream → Stream) : (t.modStream none f).bmask = t.bmask := rfl
@[simp] theorem modSet_bmask (t : Strand) (k : Nat) (f : GSet → GSet) : (t.modSet k f).bmask = t.bmask := rfl
@[simp] theorem strand_modCtl_sets (t : Strand) (f : Stream → Stream) : (t.modStream none f).sets = t.sets := rfl
@[simp] theorem modSet_sets (t : Strand) (k : Nat) (f : GSet → GSet) :
    (t.modSet k f).sets = modWhere t.sets (fun g => g.key == k) f := rfl
@[simp] theorem strand_modCtl_flume (t : Strand) (f : Stream → Stream) : (t.modStream none f).flume = t.flume := rfl
@[simp] theorem modSet_flume (t : Strand) (k : Nat) (f : GSet → GSet) : (t.modSet k f).flume = t.flume := rfl
@[simp] theorem strand_modCtl_rq (t : Strand) (f : Stream → Stream) : (t.modStream none f).rq = t.rq := rfl
@[simp] theorem modSet_rq (t : Strand) (k : Nat) (f : GSet → GSet) : (t.modSet k f).rq = t.rq := rfl
@[simp] theorem strand_modCtl_pends (t : Strand) (f : Stream → Stream) : (t.modStream none f).pends = t.pends := rfl
@[simp] theorem modSet_pends (t : Strand) (k : Nat) (f : GSet → GSet) : (t.modSet k f).pends = t.pends := rfl
@[simp] theorem strand_modCtl_wlset (t : Strand) (f : Stream → Stream) : (t.modStream none f).wlset = t.wlset := rfl
@[simp] theorem strand_modCtl_acted (t : Strand) (f : Stream → Stream) : (t.modStream none f).acted = t.acted := rfl
@[simp] theorem strand_modCtl_spilled (t : Strand) (f : Stream → Stream) : (t.modStream none f).spilled = t.spilled := rfl
@[simp] theorem modSet_wlset (t : Strand) (k : Nat) (f : GSet → GSet) : (t.modSet k f).wlset = t.wlset := rfl
@[simp] theorem modSet_acted (t : Strand) (k : Nat) (f : GSet → GSet) : (t.modSet k f).acted = t.acted := rfl
@[simp] theorem modSet_spilled (t : Strand) (k : Nat) (f : GSet → GSet) : (t.modSet k f).spilled = t.spilled := rfl
@[simp] theorem strand_modCtl_killed (t : Strand) (f : Stream → Stream) : (t.modStream none f).killed = t.killed := rfl
@[simp] theorem modSet_killed (t : Strand) (k : Nat) (f : GSet → GSet) : (t.modSet k f).killed = t.killed := rfl
@[simp] theorem strand_modCtl_refusals (t : Strand) (f : Stream → Stream) : (t.modStream none f).refusals = t.refusals := rfl
@[simp] theorem modSet_refusals (t : Strand) (k : Nat) (f : GSet → GSet) : (t.modSet k f).refusals = t.refusals := rfl
@[simp] theorem strand_modCtl_disposed (t : Strand) (f : Stream → Stream) : (t.modStream none f).disposed = t.disposed := rfl
@[simp] theorem modSet_disposed (t : Strand) (k : Nat) (f : GSet → GSet) : (t.modSet k f).disposed = t.disposed := rfl
@[simp] theorem strand_modCtl_quietBy (t : Strand) (f : Stream → Stream) : (t.modStream none f).quietBy = t.quietBy := rfl
@[simp] theorem modSet_quietBy (t : Strand) (k : Nat) (f : GSet → GSet) : (t.modSet k f).quietBy = t.quietBy := rfl
@[simp] theorem setReg_id (t : Strand) (c : Bool) (r l : Nat) (v : Word) : (t.setReg c r l v).id = t.id := by
  cases c <;> rfl
@[simp] theorem setReg_grp (t : Strand) (c : Bool) (r l : Nat) (v : Word) : (t.setReg c r l v).grp = t.grp := by
  cases c <;> rfl
@[simp] theorem setReg_index (t : Strand) (c : Bool) (r l : Nat) (v : Word) : (t.setReg c r l v).index = t.index := by
  cases c <;> rfl
@[simp] theorem setReg_age (t : Strand) (c : Bool) (r l : Nat) (v : Word) : (t.setReg c r l v).age = t.age := by
  cases c <;> rfl
@[simp] theorem setReg_res (t : Strand) (c : Bool) (r l : Nat) (v : Word) : (t.setReg c r l v).res = t.res := by
  cases c <;> rfl
@[simp] theorem setReg_joinOut (t : Strand) (c : Bool) (r l : Nat) (v : Word) : (t.setReg c r l v).joinOut = t.joinOut := by
  cases c <;> rfl
@[simp] theorem setReg_leftAt (t : Strand) (c : Bool) (r l : Nat) (v : Word) : (t.setReg c r l v).leftAt = t.leftAt := by
  cases c <;> rfl
@[simp] theorem setReg_leftNow (t : Strand) (c : Bool) (r l : Nat) (v : Word) : (t.setReg c r l v).leftNow = t.leftNow := by
  cases c <;> rfl
@[simp] theorem setReg_n (t : Strand) (c : Bool) (r l : Nat) (v : Word) : (t.setReg c r l v).n = t.n := by
  cases c <;> rfl
@[simp] theorem setReg_slices (t : Strand) (c : Bool) (r l : Nat) (v : Word) : (t.setReg c r l v).slices = t.slices := by
  cases c <;> rfl
@[simp] theorem setReg_priv (t : Strand) (c : Bool) (r l : Nat) (v : Word) : (t.setReg c r l v).priv = t.priv := by
  cases c <;> rfl
@[simp] theorem setReg_tpriv (t : Strand) (c : Bool) (r l : Nat) (v : Word) : (t.setReg c r l v).tpriv = t.tpriv := by
  cases c <;> rfl
@[simp] theorem setReg_depth (t : Strand) (c : Bool) (r l : Nat) (v : Word) : (t.setReg c r l v).depth = t.depth := by
  cases c <;> rfl
@[simp] theorem setReg_tcause (t : Strand) (c : Bool) (r l : Nat) (v : Word) : (t.setReg c r l v).tcause = t.tcause := by
  cases c <;> rfl
@[simp] theorem setReg_tpc (t : Strand) (c : Bool) (r l : Nat) (v : Word) : (t.setReg c r l v).tpc = t.tpc := by
  cases c <;> rfl
@[simp] theorem setReg_tmask (t : Strand) (c : Bool) (r l : Nat) (v : Word) : (t.setReg c r l v).tmask = t.tmask := by
  cases c <;> rfl
@[simp] theorem setReg_taddr (t : Strand) (c : Bool) (r l : Nat) (v : Word) : (t.setReg c r l v).taddr = t.taddr := by
  cases c <;> rfl
@[simp] theorem setReg_tstrand (t : Strand) (c : Bool) (r l : Nat) (v : Word) : (t.setReg c r l v).tstrand = t.tstrand := by
  cases c <;> rfl
@[simp] theorem setReg_entryPc (t : Strand) (c : Bool) (r l : Nat) (v : Word) : (t.setReg c r l v).entryPc = t.entryPc := by
  cases c <;> rfl
@[simp] theorem setReg_batch (t : Strand) (c : Bool) (r l : Nat) (v : Word) : (t.setReg c r l v).batch = t.batch := by
  cases c <;> rfl
@[simp] theorem setReg_lclk (t : Strand) (c : Bool) (r l : Nat) (v : Word) : (t.setReg c r l v).lclk = t.lclk := by
  cases c <;> rfl
@[simp] theorem setReg_cbase (t : Strand) (c : Bool) (r l : Nat) (v : Word) : (t.setReg c r l v).cbase = t.cbase := by
  cases c <;> rfl
@[simp] theorem setReg_vbase (t : Strand) (c : Bool) (r l : Nat) (v : Word) : (t.setReg c r l v).vbase = t.vbase := by
  cases c <;> rfl
@[simp] theorem setReg_ctl (t : Strand) (c : Bool) (r l : Nat) (v : Word) : (t.setReg c r l v).ctl = t.ctl := by
  cases c <;> rfl
@[simp] theorem setReg_cst (t : Strand) (c : Bool) (r l : Nat) (v : Word) : (t.setReg c r l v).cst = t.cst := by
  cases c <;> rfl
@[simp] theorem setReg_bmask (t : Strand) (c : Bool) (r l : Nat) (v : Word) : (t.setReg c r l v).bmask = t.bmask := by
  cases c <;> rfl
@[simp] theorem setReg_sets (t : Strand) (c : Bool) (r l : Nat) (v : Word) : (t.setReg c r l v).sets = t.sets := by
  cases c <;> rfl
@[simp] theorem setReg_flume (t : Strand) (c : Bool) (r l : Nat) (v : Word) : (t.setReg c r l v).flume = t.flume := by
  cases c <;> rfl
@[simp] theorem setReg_rq (t : Strand) (c : Bool) (r l : Nat) (v : Word) : (t.setReg c r l v).rq = t.rq := by
  cases c <;> rfl
@[simp] theorem setReg_pends (t : Strand) (c : Bool) (r l : Nat) (v : Word) : (t.setReg c r l v).pends = t.pends := by
  cases c <;> rfl
@[simp] theorem setReg_wlset (t : Strand) (c : Bool) (r l : Nat) (v : Word) : (t.setReg c r l v).wlset = t.wlset := by
  cases c <;> rfl
@[simp] theorem setReg_acted (t : Strand) (c : Bool) (r l : Nat) (v : Word) : (t.setReg c r l v).acted = t.acted := by
  cases c <;> rfl
@[simp] theorem setReg_spilled (t : Strand) (c : Bool) (r l : Nat) (v : Word) : (t.setReg c r l v).spilled = t.spilled := by
  cases c <;> rfl
@[simp] theorem setReg_killed (t : Strand) (c : Bool) (r l : Nat) (v : Word) : (t.setReg c r l v).killed = t.killed := by
  cases c <;> rfl
@[simp] theorem setReg_refusals (t : Strand) (c : Bool) (r l : Nat) (v : Word) : (t.setReg c r l v).refusals = t.refusals := by
  cases c <;> rfl
@[simp] theorem setReg_disposed (t : Strand) (c : Bool) (r l : Nat) (v : Word) : (t.setReg c r l v).disposed = t.disposed := by
  cases c <;> rfl
@[simp] theorem setReg_quietBy (t : Strand) (c : Bool) (r l : Nat) (v : Word) : (t.setReg c r l v).quietBy = t.quietBy := by
  cases c <;> rfl

end Sys2Proof.Machine
end

