-- ==== Sys2Proof/Laws/Engines.lean ====
section
/-!
SUPPORT. What the shared operations of the part's engines can do: asking whether an owner cycle's effects are ready, keeping outside an image what R313 leaves
there, giving and taking queue slots, reading a page-table entry, forming a packet.
-/

namespace Sys2Proof.Machine

/-! ### `State.ask` (R116, R12, R192) -/

/-- A logical core whose owner is within its share, none of whose state lies in the spill area and whose bank holds its own state exchanges
nothing: asking notes that it was asked, and how long its effects are late. -/
theorem ask_within {s : State} {l : LCore} (hx : s.exceeds l.owner l.core = false) (ho : s.anyOut l = false) (hb : s.bankDue l = false) :
    s.ask l = ((s.modLcore l.owner l.num fun l => { l with asked := some l.ocyc }).modOwner l.owner
      (fun w => { w with asks := w.asks + 1 }),
      if s.owes l = true then Config.overrun l.owner (((s.owner? l.owner).map (·.asks)).getD 0) else 0) := by
  simp [State.ask, hx, ho, hb]

/-- An owner alone on a core with all of it never exchanges (R12). -/
theorem exceeds_whole {s : State} {o p : Nat} (h : tblGet 0 (s.core p).shares o = 8) : s.exceeds o p = false := by
  simp [State.exceeds, h]

/-- The start of an owner cycle asks at most once: what it answers notes it. -/
theorem askStep_once {s t : State} {o lc : Nat} {l : LCore} (hl : s.lcore? o lc = some l) (h : State.askStep o lc s = .next t) :
    l.asked ≠ some l.ocyc ∧ s.untimed o = false ∧ s.ownerNow o = some l.ocyc := by
  simp only [State.askStep, hl] at h
  split at h
  · cases h
  · rename_i hn
    simp only [not_or, not_not] at hn
    exact ⟨hn.1, by simpa using hn.2.1, hn.2.2.1⟩

/-! ### The spill area (R324) -/

/-- An owner that is not there has no spill area. -/
theorem spillOut_none {s : State} {o lc off n : Nat} (h : s.owner? o = none) : s.spillOut o lc off n = s := by
  simp [State.spillOut, h]

/-- A strand that has no bytes in the spill area comes back as it is, and so do a tile and the latched state that have none. -/
theorem spillIn_none {s : State} {t : Strand} (h : t.spilled = none) : s.spillIn t = s := by simp [State.spillIn, h]
theorem unspillTile_none {s : State} {l : LCore} (h : l.backed = none) : s.unspillTile l = s := by simp [State.unspillTile, h]
theorem unspillBank_none {s : State} {l : LCore} (h : l.bankOut = none) : s.unspillBank l = s := by simp [State.unspillBank, h]

/-- A MAT command of a logical core whose state its bank holds starts with no exchange (R192). -/
theorem bankIn_own {s : State} {l : LCore} (h : s.bankOff l = false) : s.bankIn l = s := by simp [State.bankIn, h]

/-! ### Horizons (R247) -/

/-- No horizon holds nobody, and no act changes it. -/
@[simp] theorem takeHz_none (x : Stream) (l : List Nat) : x.takeHz l .none = x := by simp [Stream.takeHz]
@[simp] theorem acted_none (id lane now : Nat) : Horizon.none.acted id lane now = .none := rfl

/-- A horizon that has an act ahead takes it: its cycle counts, and it is ahead no more. -/
theorem acted_mem {h : Horizon} {id lane now : Nat} (hm : (id, lane) ∈ h.ahead) :
    (h.acted id lane now).upTo = max h.upTo now ∧ (id, lane) ∉ (h.acted id lane now).ahead := by
  simp [Horizon.acted, hm]

/-! ### `State.keepOutside` (R313) -/

@[simp] theorem keepOutside_mem (s : State) (l : LCore) : (s.keepOutside l).mem = s.mem := rfl
@[simp] theorem keepOutside_lcores (s : State) (l : LCore) : (s.keepOutside l).lcores = s.lcores := rfl
@[simp] theorem keepOutside_strands (s : State) (l : LCore) : (s.keepOutside l).strands = s.strands := rfl
@[simp] theorem keepOutside_groups (s : State) (l : LCore) : (s.keepOutside l).groups = s.groups := rfl
@[simp] theorem keepOutside_accs (s : State) (l : LCore) : (s.keepOutside l).accs = s.accs := rfl
@[simp] theorem keepOutside_owners (s : State) (l : LCore) : (s.keepOutside l).owners = s.owners := rfl
@[simp] theorem keepOutside_images (s : State) (l : LCore) : (s.keepOutside l).images = s.images := rfl

/-- A tile of level 0 lies whole in the image, others lie outside with their contents. -/
theorem inImage_level (e : Tile) : e.inImage.data = (if e.level = 0 then e.data else []) ∧ e.inImage.st = e.st ∧
    e.inImage.shape = e.shape := by
  unfold Tile.inImage
  split <;> simp

/-! ### Queue slots (R332) -/

@[simp] theorem mapQueue_mem (s : State) (o q k : Nat) : (s.mapQueue o q k).mem = s.mem := rfl
@[simp] theorem mapQueue_owners (s : State) (o q k : Nat) : (s.mapQueue o q k).owners = s.owners := rfl
@[simp] theorem mapQueue_lcores (s : State) (o q k : Nat) : (s.mapQueue o q k).lcores = s.lcores := rfl
@[simp] theorem mapQueue_strands (s : State) (o q k : Nat) : (s.mapQueue o q k).strands = s.strands := rfl

/-- A queue without a saved image keeps the commands that it holds. -/
theorem queueRead_none (s : State) (x : Queue) (h : x.img = none) : s.queueRead x = x.cmds := by
  simp [State.queueRead, h]

/-! ### Page-table entries (R204) -/

/-- An entry that governs an address is resident and not malformed, and one with GRP forms a group at a multiple of 32. -/
theorem levelEntry_ok {at_ : Nat → Pte} {level idx : Nat} {p : Pte} (h : levelEntry at_ level idx = .ok p) :
    p.res = true ∧ p.bad level = false ∧
    (p.grp = true → (at_ (idx / 32 * 32)).res = true ∧ (at_ (idx / 32 * 32)).grp = true) := by
  unfold levelEntry at h
  dsimp only at h
  generalize (if level = 4 ∧ (at_ (idx / 32 * 32)).res ∧ (at_ (idx / 32 * 32)).grp then at_ (idx / 32 * 32) else at_ idx) = q at h
  split at h
  · cases h
  · split at h
    · cases h
    · split at h
      · cases h
      · cases h
        simp_all

/-! ### Packets (R345) -/

/-- A packet that the part sends passes the checks of its receiver. -/
theorem packetGood_packet (peer kind len seq sown down cause : Nat) (addr : DWord) (data : List Byte) :
    packetGood (packet peer kind len seq sown down cause addr data) = true := by
  simp [packetGood, packet, packetSum, packetHeader]

end Sys2Proof.Machine
end

