-- ==== Sys2Proof/Laws/Exec.lean ====
section
/-!
SUPPORT. `exec`, arm by arm: the meaning of each constructor.
-/

namespace Sys2Proof.Machine

@[simp] theorem exec_nop {s : State} : exec .nop s = execNop s := rfl
@[simp] theorem exec_mov {s : State} {o} : exec (.mov o) s = execMov o s := rfl
@[simp] theorem exec_movLit {s : State} {o} : exec (.movLit o) s = execMovLit o s := rfl
@[simp] theorem exec_add {s : State} {o} : exec (.add o) s = execAdd o s := rfl
@[simp] theorem exec_addLit {s : State} {o} : exec (.addLit o) s = execAddLit o s := rfl
@[simp] theorem exec_sub {s : State} {o} : exec (.sub o) s = execSub o s := rfl
@[simp] theorem exec_subLit {s : State} {o} : exec (.subLit o) s = execSubLit o s := rfl
@[simp] theorem exec_mul {s : State} {o} : exec (.mul o) s = execMul o s := rfl
@[simp] theorem exec_mulLit {s : State} {o} : exec (.mulLit o) s = execMulLit o s := rfl
@[simp] theorem exec_mulhS32 {s : State} {o} : exec (.mulhS32 o) s = execMulhS32 o s := rfl
@[simp] theorem exec_mulhS32Lit {s : State} {o} : exec (.mulhS32Lit o) s = execMulhS32Lit o s := rfl
@[simp] theorem exec_mulhN32 {s : State} {o} : exec (.mulhN32 o) s = execMulhN32 o s := rfl
@[simp] theorem exec_mulhN32Lit {s : State} {o} : exec (.mulhN32Lit o) s = execMulhN32Lit o s := rfl
@[simp] theorem exec_minS32 {s : State} {o} : exec (.minS32 o) s = execMinS32 o s := rfl
@[simp] theorem exec_minS32Lit {s : State} {o} : exec (.minS32Lit o) s = execMinS32Lit o s := rfl
@[simp] theorem exec_minN32 {s : State} {o} : exec (.minN32 o) s = execMinN32 o s := rfl
@[simp] theorem exec_minN32Lit {s : State} {o} : exec (.minN32Lit o) s = execMinN32Lit o s := rfl
@[simp] theorem exec_maxS32 {s : State} {o} : exec (.maxS32 o) s = execMaxS32 o s := rfl
@[simp] theorem exec_maxS32Lit {s : State} {o} : exec (.maxS32Lit o) s = execMaxS32Lit o s := rfl
@[simp] theorem exec_maxN32 {s : State} {o} : exec (.maxN32 o) s = execMaxN32 o s := rfl
@[simp] theorem exec_maxN32Lit {s : State} {o} : exec (.maxN32Lit o) s = execMaxN32Lit o s := rfl
@[simp] theorem exec_abs {s : State} {o} : exec (.abs o) s = execAbs o s := rfl
@[simp] theorem exec_absLit {s : State} {o} : exec (.absLit o) s = execAbsLit o s := rfl
@[simp] theorem exec_and {s : State} {o} : exec (.and o) s = execAnd o s := rfl
@[simp] theorem exec_andLit {s : State} {o} : exec (.andLit o) s = execAndLit o s := rfl
@[simp] theorem exec_or {s : State} {o} : exec (.or o) s = execOr o s := rfl
@[simp] theorem exec_orLit {s : State} {o} : exec (.orLit o) s = execOrLit o s := rfl
@[simp] theorem exec_xor {s : State} {o} : exec (.xor o) s = execXor o s := rfl
@[simp] theorem exec_xorLit {s : State} {o} : exec (.xorLit o) s = execXorLit o s := rfl
@[simp] theorem exec_andn {s : State} {o} : exec (.andn o) s = execAndn o s := rfl
@[simp] theorem exec_andnLit {s : State} {o} : exec (.andnLit o) s = execAndnLit o s := rfl
@[simp] theorem exec_shl {s : State} {o} : exec (.shl o) s = execShl o s := rfl
@[simp] theorem exec_shlLit {s : State} {o} : exec (.shlLit o) s = execShlLit o s := rfl
@[simp] theorem exec_shr {s : State} {o} : exec (.shr o) s = execShr o s := rfl
@[simp] theorem exec_shrLit {s : State} {o} : exec (.shrLit o) s = execShrLit o s := rfl
@[simp] theorem exec_sra {s : State} {o} : exec (.sra o) s = execSra o s := rfl
@[simp] theorem exec_sraLit {s : State} {o} : exec (.sraLit o) s = execSraLit o s := rfl
@[simp] theorem exec_rot {s : State} {o} : exec (.rot o) s = execRot o s := rfl
@[simp] theorem exec_rotLit {s : State} {o} : exec (.rotLit o) s = execRotLit o s := rfl
@[simp] theorem exec_popc {s : State} {o} : exec (.popc o) s = execPopc o s := rfl
@[simp] theorem exec_popcLit {s : State} {o} : exec (.popcLit o) s = execPopcLit o s := rfl
@[simp] theorem exec_clz {s : State} {o} : exec (.clz o) s = execClz o s := rfl
@[simp] theorem exec_clzLit {s : State} {o} : exec (.clzLit o) s = execClzLit o s := rfl
@[simp] theorem exec_brev {s : State} {o} : exec (.brev o) s = execBrev o s := rfl
@[simp] theorem exec_brevLit {s : State} {o} : exec (.brevLit o) s = execBrevLit o s := rfl
@[simp] theorem exec_prmb {s : State} {o} : exec (.prmb o) s = execPrmb o s := rfl
@[simp] theorem exec_prmbLit {s : State} {o} : exec (.prmbLit o) s = execPrmbLit o s := rfl
@[simp] theorem exec_fadd {s : State} {o} : exec (.fadd o) s = execFadd o s := rfl
@[simp] theorem exec_faddLit {s : State} {o} : exec (.faddLit o) s = execFaddLit o s := rfl
@[simp] theorem exec_fsub {s : State} {o} : exec (.fsub o) s = execFsub o s := rfl
@[simp] theorem exec_fsubLit {s : State} {o} : exec (.fsubLit o) s = execFsubLit o s := rfl
@[simp] theorem exec_fmul {s : State} {o} : exec (.fmul o) s = execFmul o s := rfl
@[simp] theorem exec_fmulLit {s : State} {o} : exec (.fmulLit o) s = execFmulLit o s := rfl
@[simp] theorem exec_fmin {s : State} {o} : exec (.fmin o) s = execFmin o s := rfl
@[simp] theorem exec_fminLit {s : State} {o} : exec (.fminLit o) s = execFminLit o s := rfl
@[simp] theorem exec_fmax {s : State} {o} : exec (.fmax o) s = execFmax o s := rfl
@[simp] theorem exec_fmaxLit {s : State} {o} : exec (.fmaxLit o) s = execFmaxLit o s := rfl
@[simp] theorem exec_addw {s : State} {o} : exec (.addw o) s = execAddw o s := rfl
@[simp] theorem exec_addwLit {s : State} {o} : exec (.addwLit o) s = execAddwLit o s := rfl
@[simp] theorem exec_mulwN32 {s : State} {o} : exec (.mulwN32 o) s = execMulwN32 o s := rfl
@[simp] theorem exec_mulwN32Lit {s : State} {o} : exec (.mulwN32Lit o) s = execMulwN32Lit o s := rfl
@[simp] theorem exec_mulwS32 {s : State} {o} : exec (.mulwS32 o) s = execMulwS32 o s := rfl
@[simp] theorem exec_mulwS32Lit {s : State} {o} : exec (.mulwS32Lit o) s = execMulwS32Lit o s := rfl
@[simp] theorem exec_ixrd {s : State} {o} : exec (.ixrd o) s = execIxrd o s := rfl
@[simp] theorem exec_ixrdLit {s : State} {o} : exec (.ixrdLit o) s = execIxrdLit o s := rfl
@[simp] theorem exec_ixwr {s : State} {o} : exec (.ixwr o) s = execIxwr o s := rfl
@[simp] theorem exec_ixwrLit {s : State} {o} : exec (.ixwrLit o) s = execIxwrLit o s := rfl
@[simp] theorem exec_bra {s : State} {off} : exec (.bra off) s = execBra off s := rfl
@[simp] theorem exec_brc {s : State} {cond} {a} {off} : exec (.brc cond a off) s = execBrc cond a off s := rfl
@[simp] theorem exec_call {s : State} {d} {off} : exec (.call d off) s = execCall d off s := rfl
@[simp] theorem exec_jmp {s : State} {a} : exec (.jmp a) s = execJmp a s := rfl
@[simp] theorem exec_jmpLit {s : State} {a} : exec (.jmpLit a) s = execJmpLit a s := rfl
@[simp] theorem exec_exit {s : State} : exec .exit s = execExit s := rfl
@[simp] theorem exec_vend {s : State} : exec .vend s = execVend s := rfl
@[simp] theorem exec_vlend {s : State} : exec .vlend s = execVlend s := rfl
@[simp] theorem exec_vpop {s : State} {d} : exec (.vpop d) s = execVpop d s := rfl
@[simp] theorem exec_frecv {s : State} {d} : exec (.frecv d) s = execFrecv d s := rfl
@[simp] theorem exec_yield {s : State} : exec .yield s = execYield s := rfl
@[simp] theorem exec_trap {s : State} {code} : exec (.trap code) s = execTrap code s := rfl
@[simp] theorem exec_rfree {s : State} {a} : exec (.rfree a) s = execRfree a s := rfl
@[simp] theorem exec_rfreeLit {s : State} {a} : exec (.rfreeLit a) s = execRfreeLit a s := rfl
@[simp] theorem exec_vsend {s : State} {mode} {a} : exec (.vsend mode a) s = execVsend mode a s := rfl
@[simp] theorem exec_vsendLit {s : State} {mode} {a} : exec (.vsendLit mode a) s = execVsendLit mode a s := rfl
@[simp] theorem exec_cmp {s : State} {x} {ty} {rel} : exec (.cmp x ty rel) s = execCmp x ty rel s := rfl
@[simp] theorem exec_sel {s : State} {x} : exec (.sel x) s = execSel x s := rfl
@[simp] theorem exec_mad {s : State} {x} {ty} : exec (.mad x ty) s = execMad x ty s := rfl
@[simp] theorem exec_div {s : State} {x} {ty} : exec (.div x ty) s = execDiv x ty s := rfl
@[simp] theorem exec_bfx {s : State} {x} {ty} : exec (.bfx x ty) s = execBfx x ty s := rfl
@[simp] theorem exec_bfi {s : State} {x} : exec (.bfi x) s = execBfi x s := rfl
@[simp] theorem exec_ffma {s : State} {x} {rm} : exec (.ffma x rm) s = execFfma x rm s := rfl
@[simp] theorem exec_fcls {s : State} {x} {ty} : exec (.fcls x ty) s = execFcls x ty s := rfl
@[simp] theorem exec_cvt {s : State} {x} {ty} {sty} {sat} {rm} : exec (.cvt x ty sty sat rm) s = execCvt x ty sty sat rm s := rfl
@[simp] theorem exec_frnd {s : State} {x} {rm} : exec (.frnd x rm) s = execFrnd x rm s := rfl
@[simp] theorem exec_pfma {s : State} {x} {ty} {rm} : exec (.pfma x ty rm) s = execPfma x ty rm s := rfl
@[simp] theorem exec_ex2 {s : State} {x} {gr} : exec (.ex2 x gr) s = execEx2 x gr s := rfl
@[simp] theorem exec_lg2 {s : State} {x} {gr} : exec (.lg2 x gr) s = execLg2 x gr s := rfl
@[simp] theorem exec_rcp {s : State} {x} {gr} : exec (.rcp x gr) s = execRcp x gr s := rfl
@[simp] theorem exec_rsq {s : State} {x} {gr} : exec (.rsq x gr) s = execRsq x gr s := rfl
@[simp] theorem exec_sqt {s : State} {x} {gr} : exec (.sqt x gr) s = execSqt x gr s := rfl
@[simp] theorem exec_sin {s : State} {x} {gr} : exec (.sin x gr) s = execSin x gr s := rfl
@[simp] theorem exec_cos {s : State} {x} {gr} : exec (.cos x gr) s = execCos x gr s := rfl
@[simp] theorem exec_tanh {s : State} {x} {gr} : exec (.tanh x gr) s = execTanh x gr s := rfl
@[simp] theorem exec_sigm {s : State} {x} {gr} : exec (.sigm x gr) s = execSigm x gr s := rfl
@[simp] theorem exec_erf {s : State} {x} {gr} : exec (.erf x gr) s = execErf x gr s := rfl
@[simp] theorem exec_nadd {s : State} {x} {m} : exec (.nadd x m) s = execNadd x m s := rfl
@[simp] theorem exec_nsub {s : State} {x} {m} : exec (.nsub x m) s = execNsub x m s := rfl
@[simp] theorem exec_nmul {s : State} {x} {m} : exec (.nmul x m) s = execNmul x m s := rfl
@[simp] theorem exec_ndot {s : State} {x} {m} : exec (.ndot x m) s = execNdot x m s := rfl
@[simp] theorem exec_nmin {s : State} {x} {m} : exec (.nmin x m) s = execNmin x m s := rfl
@[simp] theorem exec_nmax {s : State} {x} {m} : exec (.nmax x m) s = execNmax x m s := rfl
@[simp] theorem exec_npack {s : State} {x} {m} {q} : exec (.npack x m q) s = execNpack x m q s := rfl
@[simp] theorem exec_shfl {s : State} {x} {mode} : exec (.shfl x mode) s = execShfl x mode s := rfl
@[simp] theorem exec_vote {s : State} {x} {mode} : exec (.vote x mode) s = execVote x mode s := rfl
@[simp] theorem exec_scan {s : State} {x} {ty} {mode} {excl} : exec (.scan x ty mode excl) s = execScan x ty mode excl s := rfl
@[simp] theorem exec_lred {s : State} {x} {ty} {mode} : exec (.lred x ty mode) s = execLred x ty mode s := rfl
@[simp] theorem exec_rnd {s : State} {x} : exec (.rnd x) s = execRnd x s := rfl
@[simp] theorem exec_ld {s : State} {x} {m} : exec (.ld x m) s = execLd x m s := rfl
@[simp] theorem exec_st {s : State} {x} {m} : exec (.st x m) s = execSt x m s := rfl
@[simp] theorem exec_atom {s : State} {x} {fn} {m} : exec (.atom x fn m) s = execAtom x fn m s := rfl
@[simp] theorem exec_feset {s : State} {x} {m} : exec (.feset x m) s = execFeset x m s := rfl
@[simp] theorem exec_feget {s : State} {x} {m} : exec (.feget x m) s = execFeget x m s := rfl
@[simp] theorem exec_waita {s : State} {x} {m} : exec (.waita x m) s = execWaita x m s := rfl
@[simp] theorem exec_wake {s : State} {x} {m} : exec (.wake x m) s = execWake x m s := rfl
@[simp] theorem exec_xlat {s : State} {x} : exec (.xlat x) s = execXlat x s := rfl
@[simp] theorem exec_xdrop {s : State} {x} : exec (.xdrop x) s = execXdrop x s := rfl
@[simp] theorem exec_fence {s : State} {x} {m} : exec (.fence x m) s = execFence x m s := rfl
@[simp] theorem exec_ldt {s : State} {x} {size} : exec (.ldt x size) s = execLdt x size s := rfl
@[simp] theorem exec_stt {s : State} {x} {size} : exec (.stt x size) s = execStt x size s := rfl
@[simp] theorem exec_cpy {s : State} {x} : exec (.cpy x) s = execCpy x s := rfl
@[simp] theorem exec_seal {s : State} {x} : exec (.seal x) s = execSeal x s := rfl
@[simp] theorem exec_swait {s : State} {x} : exec (.swait x) s = execSwait x s := rfl
@[simp] theorem exec_twany {s : State} {x} : exec (.twany x) s = execTwany x s := rfl
@[simp] theorem exec_twall {s : State} {x} : exec (.twall x) s = execTwall x s := rfl
@[simp] theorem exec_tfirst {s : State} {x} : exec (.tfirst x) s = execTfirst x s := rfl
@[simp] theorem exec_tclr {s : State} {x} : exec (.tclr x) s = execTclr x s := rfl
@[simp] theorem exec_binit {s : State} {x} : exec (.binit x) s = execBinit x s := rfl
@[simp] theorem exec_barv {s : State} {x} : exec (.barv x) s = execBarv x s := rfl
@[simp] theorem exec_bwait {s : State} {x} : exec (.bwait x) s = execBwait x s := rfl
@[simp] theorem exec_gsync {s : State} {x} : exec (.gsync x) s = execGsync x s := rfl
@[simp] theorem exec_talloc {s : State} {x} {level} : exec (.talloc x level) s = execTalloc x level s := rfl
@[simp] theorem exec_tfree {s : State} {x} : exec (.tfree x) s = execTfree x s := rfl
@[simp] theorem exec_tinfo {s : State} {x} : exec (.tinfo x) s = execTinfo x s := rfl
@[simp] theorem exec_mwld {s : State} {x} {ty} {t} : exec (.mwld x ty t) s = execMwld x ty t s := rfl
@[simp] theorem exec_mstr {s : State} {x} {ty} {start} {reg} : exec (.mstr x ty start reg) s = execMstr x ty start reg s := rfl
@[simp] theorem exec_mcon {s : State} {x} {ty} {start} {kind} {seglen} : exec (.mcon x ty start kind seglen) s = execMcon x ty start kind seglen s := rfl
@[simp] theorem exec_mclose {s : State} {x} : exec (.mclose x) s = execMclose x s := rfl
@[simp] theorem exec_mtile {s : State} {x} : exec (.mtile x) s = execMtile x s := rfl
@[simp] theorem exec_mstat {s : State} {x} : exec (.mstat x) s = execMstat x s := rfl
@[simp] theorem exec_cbld {s : State} {x} : exec (.cbld x) s = execCbld x s := rfl
@[simp] theorem exec_launch {s : State} {x} : exec (.launch x) s = execLaunch x s := rfl
@[simp] theorem exec_join {s : State} {x} : exec (.join x) s = execJoin x s := rfl
@[simp] theorem exec_cancel {s : State} {x} {level} : exec (.cancel x level) s = execCancel x level s := rfl
@[simp] theorem exec_cntrd {s : State} {x} {level} : exec (.cntrd x level) s = execCntrd x level s := rfl
@[simp] theorem exec_wlput {s : State} {x} : exec (.wlput x) s = execWlput x s := rfl
@[simp] theorem exec_wlget {s : State} {x} : exec (.wlget x) s = execWlget x s := rfl
@[simp] theorem exec_lcsync {s : State} {x} : exec (.lcsync x) s = execLcsync x s := rfl
@[simp] theorem exec_caopen {s : State} {x} : exec (.caopen x) s = execCaopen x s := rfl
@[simp] theorem exec_caclose {s : State} {x} : exec (.caclose x) s = execCaclose x s := rfl
@[simp] theorem exec_caload {s : State} {x} : exec (.caload x) s = execCaload x s := rfl
@[simp] theorem exec_calearn {s : State} {x} : exec (.calearn x) s = execCalearn x s := rfl
@[simp] theorem exec_cadec {s : State} {x} : exec (.cadec x) s = execCadec x s := rfl
@[simp] theorem exec_caprop {s : State} {x} : exec (.caprop x) s = execCaprop x s := rfl
@[simp] theorem exec_caback {s : State} {x} : exec (.caback x) s = execCaback x s := rfl
@[simp] theorem exec_caval {s : State} {x} : exec (.caval x) s = execCaval x s := rfl
@[simp] theorem exec_catrail {s : State} {x} : exec (.catrail x) s = execCatrail x s := rfl
@[simp] theorem exec_cadel {s : State} {x} : exec (.cadel x) s = execCadel x s := rfl
@[simp] theorem exec_srd {s : State} {x} {index} : exec (.srd x index) s = execSrd x index s := rfl
@[simp] theorem exec_swr {s : State} {x} {index} : exec (.swr x index) s = execSwr x index s := rfl
@[simp] theorem exec_eret {s : State} {x} : exec (.eret x) s = execEret x s := rfl
@[simp] theorem exec_eretDispose {s : State} {x} : exec (.eretDispose x) s = execEretDispose x s := rfl
@[simp] theorem exec_ralloc {s : State} {x} : exec (.ralloc x) s = execRalloc x s := rfl
@[simp] theorem exec_hgate {s : State} {x} : exec (.hgate x) s = execHgate x s := rfl
@[simp] theorem exec_intr {s : State} {x} : exec (.intr x) s = execIntr x s := rfl
@[simp] theorem exec_frun {s : State} {x} {mask} {rel} : exec (.frun x mask rel) s = execFrun x mask rel s := rfl
@[simp] theorem exec_ftrip {s : State} {x} {mask} : exec (.ftrip x mask) s = execFtrip x mask s := rfl
@[simp] theorem exec_fmask {s : State} {x} {mask} : exec (.fmask x mask) s = execFmask x mask s := rfl
@[simp] theorem exec_fval {s : State} {x} {mask} {rel} : exec (.fval x mask rel) s = execFval x mask rel s := rfl
@[simp] theorem exec_regang {s : State} {x} {mask} : exec (.regang x mask) s = execRegang x mask s := rfl
@[simp] theorem exec_vloop {s : State} {x} {ft} : exec (.vloop x ft) s = execVloop x ft s := rfl
@[simp] theorem exec_rotacWrite {s : State} {p} {v} : exec (.rotacWrite p v) s = execRotacWrite p v s := rfl
@[simp] theorem exec_rotafStage {s : State} {v} : exec (.rotafStage v) s = execRotafStage v s := rfl
@[simp] theorem exec_rotafCommit {s : State} {v} : exec (.rotafCommit v) s = execRotafCommit v s := rfl
@[simp] theorem exec_correctedError {s : State} : exec .correctedError s = execCorrectedError s := rfl
@[simp] theorem exec_storageErrorKill {s : State} {e} : exec (.storageErrorKill e) s = execStorageErrorKill e s := rfl
@[simp] theorem exec_errorCountPoll {s : State} {banks} {poisoned} : exec (.errorCountPoll banks poisoned) s = execErrorCountPoll banks poisoned s := rfl
@[simp] theorem exec_enqueue {s : State} {asid} {q} {c} : exec (.enqueue asid q c) s = execEnqueue asid q c s := rfl
@[simp] theorem exec_lcmapWrite {s : State} {v} : exec (.lcmapWrite v) s = execLcmapWrite v s := rfl
@[simp] theorem exec_lovfWrite {s : State} {o} {v} : exec (.lovfWrite o v) s = execLovfWrite o v s := rfl
@[simp] theorem exec_parkbaseWrite {s : State} {o} {v} : exec (.parkbaseWrite o v) s = execParkbaseWrite o v s := rfl
@[simp] theorem exec_qtimeoutWrite {s : State} {o} {v} : exec (.qtimeoutWrite o v) s = execQtimeoutWrite o v s := rfl
@[simp] theorem exec_jswapWrite {s : State} {o} {v} : exec (.jswapWrite o v) s = execJswapWrite o v s := rfl
@[simp] theorem exec_intdropWrite {s : State} : exec .intdropWrite s = execIntdropWrite s := rfl
@[simp] theorem exec_rfmCommand {s : State} {bank} {o} {count} : exec (.rfmCommand bank o count) s = execRfmCommand bank o count s := rfl
@[simp] theorem exec_refreshSkip {s : State} {grp} {mask} : exec (.refreshSkip grp mask) s = execRefreshSkip grp mask s := rfl
@[simp] theorem exec_kwayrLinkRetrain {s : State} {up} : exec (.kwayrLinkRetrain up) s = execKwayrLinkRetrain up s := rfl
@[simp] theorem exec_remoteRequestReceive {s : State} {p} : exec (.remoteRequestReceive p) s = execRemoteRequestReceive p s := rfl
@[simp] theorem exec_remoteReplyReceive {s : State} {p} : exec (.remoteReplyReceive p) s = execRemoteReplyReceive p s := rfl
@[simp] theorem exec_nackReceive {s : State} {p} : exec (.nackReceive p) s = execNackReceive p s := rfl
@[simp] theorem exec_powerOn {s : State} {r} : exec (.powerOn r) s = execPowerOn r s := rfl
@[simp] theorem exec_recoveryImageReceive {s : State} {ok} : exec (.recoveryImageReceive ok) s = execRecoveryImageReceive ok s := rfl
@[simp] theorem exec_coreRailOvercurrent {s : State} {amps} : exec (.coreRailOvercurrent amps) s = execCoreRailOvercurrent amps s := rfl
@[simp] theorem exec_powerRecover {s : State} {amps} : exec (.powerRecover amps) s = execPowerRecover amps s := rfl
@[simp] theorem exec_transferResend {s : State} {id} : exec (.transferResend id) s = execTransferResend id s := rfl
@[simp] theorem exec_tailwaterWithholdEnd {s : State} {amps} : exec (.tailwaterWithholdEnd amps) s = execTailwaterWithholdEnd amps s := rfl
@[simp] theorem exec_coreCycle {s : State} {p} : exec (.coreCycle p) s = execCoreCycle p s := rfl
@[simp] theorem exec_ownerFreezeEnd {s : State} {o} : exec (.ownerFreezeEnd o) s = execOwnerFreezeEnd o s := rfl
@[simp] theorem exec_resultWriteback {s : State} {id} : exec (.resultWriteback id) s = execResultWriteback id s := rfl
@[simp] theorem exec_windowCommitPoint {s : State} {o} {lc} : exec (.windowCommitPoint o lc) s = execWindowCommitPoint o lc s := rfl
@[simp] theorem exec_flumeSendResume {s : State} {t} : exec (.flumeSendResume t) s = execFlumeSendResume t s := rfl
@[simp] theorem exec_sliceTakesRun {s : State} {t} {set} : exec (.sliceTakesRun t set) s = execSliceTakesRun t set s := rfl
@[simp] theorem exec_sliceTakesMask {s : State} {t} {set} : exec (.sliceTakesMask t set) s = execSliceTakesMask t set s := rfl
@[simp] theorem exec_sliceTakesRegang {s : State} {t} {set} : exec (.sliceTakesRegang t set) s = execSliceTakesRegang t set s := rfl
@[simp] theorem exec_sliceTakesEnd {s : State} {t} {set} : exec (.sliceTakesEnd t set) s = execSliceTakesEnd t set s := rfl
@[simp] theorem exec_vpopTakesVal {s : State} {t} {set} : exec (.vpopTakesVal t set) s = execVpopTakesVal t set s := rfl
@[simp] theorem exec_vloopTakesTrip {s : State} {t} {set} : exec (.vloopTakesTrip t set) s = execVloopTakesTrip t set s := rfl
@[simp] theorem exec_returnQueueEntryArrive {s : State} {t} : exec (.returnQueueEntryArrive t) s = execReturnQueueEntryArrive t s := rfl
@[simp] theorem exec_vsendPushResume {s : State} {t} {set} : exec (.vsendPushResume t set) s = execVsendPushResume t set s := rfl
@[simp] theorem exec_frecvPop {s : State} {t} : exec (.frecvPop t) s = execFrecvPop t s := rfl
@[simp] theorem exec_returnQueueStarvation {s : State} {t} : exec (.returnQueueStarvation t) s = execReturnQueueStarvation t s := rfl
@[simp] theorem exec_flumeDeadlock {s : State} {t} : exec (.flumeDeadlock t) s = execFlumeDeadlock t s := rfl
@[simp] theorem exec_strandEnd {s : State} {t} : exec (.strandEnd t) s = execStrandEnd t s := rfl
@[simp] theorem exec_rallocGrant {s : State} {t} : exec (.rallocGrant t) s = execRallocGrant t s := rfl
@[simp] theorem exec_rfreeQuietAct {s : State} {t} : exec (.rfreeQuietAct t) s = execRfreeQuietAct t s := rfl
@[simp] theorem exec_strandSwapOut {s : State} {o} {lc} : exec (.strandSwapOut o lc) s = execStrandSwapOut o lc s := rfl
@[simp] theorem exec_strandSwapOutEnd {s : State} {t} : exec (.strandSwapOutEnd t) s = execStrandSwapOutEnd t s := rfl
@[simp] theorem exec_strandSwapIn {s : State} {t} : exec (.strandSwapIn t) s = execStrandSwapIn t s := rfl
@[simp] theorem exec_strandSwapInEnd {s : State} {t} : exec (.strandSwapInEnd t) s = execStrandSwapInEnd t s := rfl
@[simp] theorem exec_rotacTakesEffect {s : State} {p} : exec (.rotacTakesEffect p) s = execRotacTakesEffect p s := rfl
@[simp] theorem exec_rotafTableInForce {s : State} : exec .rotafTableInForce s = execRotafTableInForce s := rfl
@[simp] theorem exec_swapBegin {s : State} {p} : exec (.swapBegin p) s = execSwapBegin p s := rfl
@[simp] theorem exec_swapQuietEnd {s : State} {p} : exec (.swapQuietEnd p) s = execSwapQuietEnd p s := rfl
@[simp] theorem exec_drainSlotArrival {s : State} {id} : exec (.drainSlotArrival id) s = execDrainSlotArrival id s := rfl
@[simp] theorem exec_swapSavePhase {s : State} {p} : exec (.swapSavePhase p) s = execSwapSavePhase p s := rfl
@[simp] theorem exec_swapRestorePhase {s : State} {p} : exec (.swapRestorePhase p) s = execSwapRestorePhase p s := rfl
@[simp] theorem exec_swapRebind {s : State} {p} : exec (.swapRebind p) s = execSwapRebind p s := rfl
@[simp] theorem exec_swapComplete {s : State} {p} : exec (.swapComplete p) s = execSwapComplete p s := rfl
@[simp] theorem exec_tileDrainComplete {s : State} {o} {lc} {tile} : exec (.tileDrainComplete o lc tile) s = execTileDrainComplete o lc tile s := rfl
@[simp] theorem exec_tallocPickGrant {s : State} {t} : exec (.tallocPickGrant t) s = execTallocPickGrant t s := rfl
@[simp] theorem exec_copyUnitLands {s : State} {id} : exec (.copyUnitLands id) s = execCopyUnitLands id s := rfl
@[simp] theorem exec_copyPageGranted {s : State} {id} : exec (.copyPageGranted id) s = execCopyPageGranted id s := rfl
@[simp] theorem exec_copyComplete {s : State} {id} : exec (.copyComplete id) s = execCopyComplete id s := rfl
@[simp] theorem exec_matCommandStart {s : State} {id} : exec (.matCommandStart id) s = execMatCommandStart id s := rfl
@[simp] theorem exec_matCommandEnd {s : State} {id} : exec (.matCommandEnd id) s = execMatCommandEnd id s := rfl
@[simp] theorem exec_twanyReturn {s : State} {t} : exec (.twanyReturn t) s = execTwanyReturn t s := rfl
@[simp] theorem exec_twallReturn {s : State} {t} : exec (.twallReturn t) s = execTwallReturn t s := rfl
@[simp] theorem exec_swaitComplete {s : State} {t} : exec (.swaitComplete t) s = execSwaitComplete t s := rfl
@[simp] theorem exec_bwaitRelease {s : State} {t} : exec (.bwaitRelease t) s = execBwaitRelease t s := rfl
@[simp] theorem exec_gsyncComplete {s : State} {g} : exec (.gsyncComplete g) s = execGsyncComplete g s := rfl
@[simp] theorem exec_memoryAccessAct {s : State} {id} : exec (.memoryAccessAct id) s = execMemoryAccessAct id s := rfl
@[simp] theorem exec_feRetryAttempt {s : State} {id} {lane} : exec (.feRetryAttempt id lane) s = execFeRetryAttempt id lane s := rfl
@[simp] theorem exec_wokenRetry {s : State} {id} {lane} : exec (.wokenRetry id lane) s = execWokenRetry id lane s := rfl
@[simp] theorem exec_waitaSpuriousReturn {s : State} {id} {lane} : exec (.waitaSpuriousReturn id lane) s = execWaitaSpuriousReturn id lane s := rfl
@[simp] theorem exec_xlatAct {s : State} {id} : exec (.xlatAct id) s = execXlatAct id s := rfl
@[simp] theorem exec_clauseCommandStart {s : State} {o} {k} : exec (.clauseCommandStart o k) s = execClauseCommandStart o k s := rfl
@[simp] theorem exec_capropRound {s : State} {o} {k} : exec (.capropRound o k) s = execCapropRound o k s := rfl
@[simp] theorem exec_caloadColumnWrite {s : State} {o} {k} : exec (.caloadColumnWrite o k) s = execCaloadColumnWrite o k s := rfl
@[simp] theorem exec_clauseCommandEnd {s : State} {o} {k} : exec (.clauseCommandEnd o k) s = execClauseCommandEnd o k s := rfl
@[simp] theorem exec_launchAct {s : State} {id} : exec (.launchAct id) s = execLaunchAct id s := rfl
@[simp] theorem exec_distributorStep {s : State} {o} : exec (.distributorStep o) s = execDistributorStep o s := rfl
@[simp] theorem exec_overflowRecordRead {s : State} {o} : exec (.overflowRecordRead o) s = execOverflowRecordRead o s := rfl
@[simp] theorem exec_groupStrandsStart {s : State} {g} : exec (.groupStrandsStart g) s = execGroupStrandsStart g s := rfl
@[simp] theorem exec_joinObserveZero {s : State} {t} : exec (.joinObserveZero t) s = execJoinObserveZero t s := rfl
@[simp] theorem exec_joinSwapOut {s : State} {t} : exec (.joinSwapOut t) s = execJoinSwapOut t s := rfl
@[simp] theorem exec_joinSwapIn {s : State} {t} : exec (.joinSwapIn t) s = execJoinSwapIn t s := rfl
@[simp] theorem exec_cancelStrandStop {s : State} {t} : exec (.cancelStrandStop t) s = execCancelStrandStop t s := rfl
@[simp] theorem exec_cancelQtimeoutKill {s : State} {t} : exec (.cancelQtimeoutKill t) s = execCancelQtimeoutKill t s := rfl
@[simp] theorem exec_wlputAct {s : State} {id} : exec (.wlputAct id) s = execWlputAct id s := rfl
@[simp] theorem exec_wlgetAttempt {s : State} {id} : exec (.wlgetAttempt id) s = execWlgetAttempt id s := rfl
@[simp] theorem exec_strandedDetect {s : State} {o} {comp} : exec (.strandedDetect o comp) s = execStrandedDetect o comp s := rfl
@[simp] theorem exec_trapInPlaceEntry {s : State} {t} : exec (.trapInPlaceEntry t) s = execTrapInPlaceEntry t s := rfl
@[simp] theorem exec_trapRecordStore {s : State} {id} : exec (.trapRecordStore id) s = execTrapRecordStore id s := rfl
@[simp] theorem exec_watchdogTrap {s : State} {t} : exec (.watchdogTrap t) s = execWatchdogTrap t s := rfl
@[simp] theorem exec_preemptQuietEnd {s : State} {o} : exec (.preemptQuietEnd o) s = execPreemptQuietEnd o s := rfl
@[simp] theorem exec_preemptDrainEnd {s : State} {o} : exec (.preemptDrainEnd o) s = execPreemptDrainEnd o s := rfl
@[simp] theorem exec_preemptSaveEnd {s : State} {o} : exec (.preemptSaveEnd o) s = execPreemptSaveEnd o s := rfl
@[simp] theorem exec_commandTake {s : State} {o} : exec (.commandTake o) s = execCommandTake o s := rfl
@[simp] theorem exec_hostLaunch {s : State} {o} {c} : exec (.hostLaunch o c) s = execHostLaunch o c s := rfl
@[simp] theorem exec_hostOpen {s : State} {o} {c} : exec (.hostOpen o c) s = execHostOpen o c s := rfl
@[simp] theorem exec_hostClose {s : State} {o} {c} : exec (.hostClose o c) s = execHostClose o c s := rfl
@[simp] theorem exec_hostCancel {s : State} {o} {c} : exec (.hostCancel o c) s = execHostCancel o c s := rfl
@[simp] theorem exec_ocreate {s : State} {c} : exec (.ocreate c) s = execOcreate c s := rfl
@[simp] theorem exec_oreset {s : State} {c} : exec (.oreset c) s = execOreset c s := rfl
@[simp] theorem exec_odestroy {s : State} {c} : exec (.odestroy c) s = execOdestroy c s := rfl
@[simp] theorem exec_load {s : State} {c} : exec (.load c) s = execLoad c s := rfl
@[simp] theorem exec_preempt {s : State} {c} : exec (.preempt c) s = execPreempt c s := rfl
@[simp] theorem exec_restore {s : State} {c} : exec (.restore c) s = execRestore c s := rfl
@[simp] theorem exec_swap {s : State} {c} : exec (.swap c) s = execSwap c s := rfl
@[simp] theorem exec_pause {s : State} {c} : exec (.pause c) s = execPause c s := rfl
@[simp] theorem exec_resume {s : State} {c} : exec (.resume c) s = execResume c s := rfl
@[simp] theorem exec_rota {s : State} {c} : exec (.rota c) s = execRota c s := rfl
@[simp] theorem exec_resolve {s : State} {c} : exec (.resolve c) s = execResolve c s := rfl
@[simp] theorem exec_unmap {s : State} {c} : exec (.unmap c) s = execUnmap c s := rfl
@[simp] theorem exec_stats {s : State} {c} : exec (.stats c) s = execStats c s := rfl
@[simp] theorem exec_clearboot {s : State} {c} : exec (.clearboot c) s = execClearboot c s := rfl
@[simp] theorem exec_intrRecordStore {s : State} {id} : exec (.intrRecordStore id) s = execIntrRecordStore id s := rfl
@[simp] theorem exec_remoteTimeout {s : State} {id} : exec (.remoteTimeout id) s = execRemoteTimeout id s := rfl
@[simp] theorem exec_powerFault {s : State} : exec .powerFault s = execPowerFault s := rfl

end Sys2Proof.Machine
end

