-- ==== Sys2Proof/Laws/Frames.lean ====
section
/-!
SUPPORT. What issuing an instruction, taking a trap and killing a strand leave unchanged, field by field.
-/

namespace Sys2Proof.Machine

set_option Elab.async false

/-! ### `retire` -/

@[simp] theorem retire_dcyc (s : State) (c : Ctx) (i : Instr) (id : Nat) (lat : Option Nat) (ws : List (Nat × Nat × Word)) (dead : Bool) (pc : Option Word) (r : Nat) : (s.retire c i id lat ws dead pc r).dcyc = s.dcyc := rfl
@[simp] theorem retire_dev (s : State) (c : Ctx) (i : Instr) (id : Nat) (lat : Option Nat) (ws : List (Nat × Nat × Word)) (dead : Bool) (pc : Option Word) (r : Nat) : (s.retire c i id lat ws dead pc r).dev = s.dev := rfl
@[simp] theorem retire_turn (s : State) (c : Ctx) (i : Instr) (id : Nat) (lat : Option Nat) (ws : List (Nat × Nat × Word)) (dead : Bool) (pc : Option Word) (r : Nat) : (s.retire c i id lat ws dead pc r).turn = s.turn := rfl
@[simp] theorem retire_atCore (s : State) (c : Ctx) (i : Instr) (id : Nat) (lat : Option Nat) (ws : List (Nat × Nat × Word)) (dead : Bool) (pc : Option Word) (r : Nat) : (s.retire c i id lat ws dead pc r).atCore = s.atCore := rfl
@[simp] theorem retire_cur (s : State) (c : Ctx) (i : Instr) (id : Nat) (lat : Option Nat) (ws : List (Nat × Nat × Word)) (dead : Bool) (pc : Option Word) (r : Nat) : (s.retire c i id lat ws dead pc r).cur = s.cur := rfl
@[simp] theorem retire_cores (s : State) (c : Ctx) (i : Instr) (id : Nat) (lat : Option Nat) (ws : List (Nat × Nat × Word)) (dead : Bool) (pc : Option Word) (r : Nat) : (s.retire c i id lat ws dead pc r).cores = s.cores := rfl
@[simp] theorem retire_owners (s : State) (c : Ctx) (i : Instr) (id : Nat) (lat : Option Nat) (ws : List (Nat × Nat × Word)) (dead : Bool) (pc : Option Word) (r : Nat) : (s.retire c i id lat ws dead pc r).owners = s.owners := rfl
@[simp] theorem retire_lcores (s : State) (c : Ctx) (i : Instr) (id : Nat) (lat : Option Nat) (ws : List (Nat × Nat × Word)) (dead : Bool) (pc : Option Word) (r : Nat) : (s.retire c i id lat ws dead pc r).lcores = s.lcores := rfl
@[simp] theorem retire_groups (s : State) (c : Ctx) (i : Instr) (id : Nat) (lat : Option Nat) (ws : List (Nat × Nat × Word)) (dead : Bool) (pc : Option Word) (r : Nat) : (s.retire c i id lat ws dead pc r).groups = s.groups := rfl
@[simp] theorem retire_accs (s : State) (c : Ctx) (i : Instr) (id : Nat) (lat : Option Nat) (ws : List (Nat × Nat × Word)) (dead : Bool) (pc : Option Word) (r : Nat) : (s.retire c i id lat ws dead pc r).accs = s.accs := rfl
@[simp] theorem retire_dets (s : State) (c : Ctx) (i : Instr) (id : Nat) (lat : Option Nat) (ws : List (Nat × Nat × Word)) (dead : Bool) (pc : Option Word) (r : Nat) : (s.retire c i id lat ws dead pc r).dets = s.dets := rfl
@[simp] theorem retire_mem (s : State) (c : Ctx) (i : Instr) (id : Nat) (lat : Option Nat) (ws : List (Nat × Nat × Word)) (dead : Bool) (pc : Option Word) (r : Nat) : (s.retire c i id lat ws dead pc r).mem = s.mem := rfl
@[simp] theorem retire_empties (s : State) (c : Ctx) (i : Instr) (id : Nat) (lat : Option Nat) (ws : List (Nat × Nat × Word)) (dead : Bool) (pc : Option Word) (r : Nat) : (s.retire c i id lat ws dead pc r).empties = s.empties := rfl
@[simp] theorem retire_poison (s : State) (c : Ctx) (i : Instr) (id : Nat) (lat : Option Nat) (ws : List (Nat × Nat × Word)) (dead : Bool) (pc : Option Word) (r : Nat) : (s.retire c i id lat ws dead pc r).poison = s.poison := rfl
@[simp] theorem retire_hostMem (s : State) (c : Ctx) (i : Instr) (id : Nat) (lat : Option Nat) (ws : List (Nat × Nat × Word)) (dead : Bool) (pc : Option Word) (r : Nat) : (s.retire c i id lat ws dead pc r).hostMem = s.hostMem := rfl
@[simp] theorem retire_transfers (s : State) (c : Ctx) (i : Instr) (id : Nat) (lat : Option Nat) (ws : List (Nat × Nat × Word)) (dead : Bool) (pc : Option Word) (r : Nat) : (s.retire c i id lat ws dead pc r).transfers = s.transfers := rfl
@[simp] theorem retire_seqs (s : State) (c : Ctx) (i : Instr) (id : Nat) (lat : Option Nat) (ws : List (Nat × Nat × Word)) (dead : Bool) (pc : Option Word) (r : Nat) : (s.retire c i id lat ws dead pc r).seqs = s.seqs := rfl
@[simp] theorem retire_outbox (s : State) (c : Ctx) (i : Instr) (id : Nat) (lat : Option Nat) (ws : List (Nat × Nat × Word)) (dead : Bool) (pc : Option Word) (r : Nat) : (s.retire c i id lat ws dead pc r).outbox = s.outbox := rfl
@[simp] theorem retire_clauses (s : State) (c : Ctx) (i : Instr) (id : Nat) (lat : Option Nat) (ws : List (Nat × Nat × Word)) (dead : Bool) (pc : Option Word) (r : Nat) : (s.retire c i id lat ws dead pc r).clauses = s.clauses := rfl
@[simp] theorem retire_feHz (s : State) (c : Ctx) (i : Instr) (id : Nat) (lat : Option Nat) (ws : List (Nat × Nat × Word)) (dead : Bool) (pc : Option Word) (r : Nat) : (s.retire c i id lat ws dead pc r).feHz = s.feHz := rfl
@[simp] theorem retire_released (s : State) (c : Ctx) (i : Instr) (id : Nat) (lat : Option Nat) (ws : List (Nat × Nat × Word)) (dead : Bool) (pc : Option Word) (r : Nat) : (s.retire c i id lat ws dead pc r).released = s.released := rfl
@[simp] theorem retire_begun (s : State) (c : Ctx) (i : Instr) (id : Nat) (lat : Option Nat) (ws : List (Nat × Nat × Word)) (dead : Bool) (pc : Option Word) (r : Nat) : (s.retire c i id lat ws dead pc r).begun = s.begun := rfl
@[simp] theorem retire_log (s : State) (c : Ctx) (i : Instr) (id : Nat) (lat : Option Nat) (ws : List (Nat × Nat × Word)) (dead : Bool) (pc : Option Word) (r : Nat) : (s.retire c i id lat ws dead pc r).log = s.log := rfl
@[simp] theorem retire_intrs (s : State) (c : Ctx) (i : Instr) (id : Nat) (lat : Option Nat) (ws : List (Nat × Nat × Word)) (dead : Bool) (pc : Option Word) (r : Nat) : (s.retire c i id lat ws dead pc r).intrs = s.intrs := rfl
@[simp] theorem retire_images (s : State) (c : Ctx) (i : Instr) (id : Nat) (lat : Option Nat) (ws : List (Nat × Nat × Word)) (dead : Bool) (pc : Option Word) (r : Nat) : (s.retire c i id lat ws dead pc r).images = s.images := rfl
@[simp] theorem retire_kept (s : State) (c : Ctx) (i : Instr) (id : Nat) (lat : Option Nat) (ws : List (Nat × Nat × Word)) (dead : Bool) (pc : Option Word) (r : Nat) : (s.retire c i id lat ws dead pc r).kept = s.kept := rfl
@[simp] theorem retire_remotes (s : State) (c : Ctx) (i : Instr) (id : Nat) (lat : Option Nat) (ws : List (Nat × Nat × Word)) (dead : Bool) (pc : Option Word) (r : Nat) : (s.retire c i id lat ws dead pc r).remotes = s.remotes := rfl
@[simp] theorem retire_inputs (s : State) (c : Ctx) (i : Instr) (id : Nat) (lat : Option Nat) (ws : List (Nat × Nat × Word)) (dead : Bool) (pc : Option Word) (r : Nat) : (s.retire c i id lat ws dead pc r).inputs = s.inputs := rfl
@[simp] theorem retire_actClock (s : State) (c : Ctx) (i : Instr) (id : Nat) (lat : Option Nat) (ws : List (Nat × Nat × Word)) (dead : Bool) (pc : Option Word) (r : Nat) : (s.retire c i id lat ws dead pc r).actClock = s.actClock := rfl
@[simp] theorem retire_nextId (s : State) (c : Ctx) (i : Instr) (id : Nat) (lat : Option Nat) (ws : List (Nat × Nat × Word)) (dead : Bool) (pc : Option Word) (r : Nat) : (s.retire c i id lat ws dead pc r).nextId = s.nextId := rfl
@[simp] theorem retire_freeN (s : State) (c : Ctx) (i : Instr) (id : Nat) (lat : Option Nat) (ws : List (Nat × Nat × Word)) (dead : Bool) (pc : Option Word) (r : Nat) : (s.retire c i id lat ws dead pc r).freeN = s.freeN := rfl

/-! ### `usePipe` -/

@[simp] theorem usePipe_dcyc (s : State) (c : Cur) (k : Nat) : (s.usePipe c k).dcyc = s.dcyc := by
  unfold State.usePipe; split <;> rfl
@[simp] theorem usePipe_dev (s : State) (c : Cur) (k : Nat) : (s.usePipe c k).dev = s.dev := by
  unfold State.usePipe; split <;> rfl
@[simp] theorem usePipe_atCore (s : State) (c : Cur) (k : Nat) : (s.usePipe c k).atCore = s.atCore := by
  unfold State.usePipe; split <;> rfl
@[simp] theorem usePipe_cores (s : State) (c : Cur) (k : Nat) : (s.usePipe c k).cores = s.cores := by
  unfold State.usePipe; split <;> rfl
@[simp] theorem usePipe_owners (s : State) (c : Cur) (k : Nat) : (s.usePipe c k).owners = s.owners := by
  unfold State.usePipe; split <;> rfl
@[simp] theorem usePipe_strands (s : State) (c : Cur) (k : Nat) : (s.usePipe c k).strands = s.strands := by
  unfold State.usePipe; split <;> rfl
@[simp] theorem usePipe_groups (s : State) (c : Cur) (k : Nat) : (s.usePipe c k).groups = s.groups := by
  unfold State.usePipe; split <;> rfl
@[simp] theorem usePipe_accs (s : State) (c : Cur) (k : Nat) : (s.usePipe c k).accs = s.accs := by
  unfold State.usePipe; split <;> rfl
@[simp] theorem usePipe_dets (s : State) (c : Cur) (k : Nat) : (s.usePipe c k).dets = s.dets := by
  unfold State.usePipe; split <;> rfl
@[simp] theorem usePipe_mem (s : State) (c : Cur) (k : Nat) : (s.usePipe c k).mem = s.mem := by
  unfold State.usePipe; split <;> rfl
@[simp] theorem usePipe_empties (s : State) (c : Cur) (k : Nat) : (s.usePipe c k).empties = s.empties := by
  unfold State.usePipe; split <;> rfl
@[simp] theorem usePipe_poison (s : State) (c : Cur) (k : Nat) : (s.usePipe c k).poison = s.poison := by
  unfold State.usePipe; split <;> rfl
@[simp] theorem usePipe_hostMem (s : State) (c : Cur) (k : Nat) : (s.usePipe c k).hostMem = s.hostMem := by
  unfold State.usePipe; split <;> rfl
@[simp] theorem usePipe_transfers (s : State) (c : Cur) (k : Nat) : (s.usePipe c k).transfers = s.transfers := by
  unfold State.usePipe; split <;> rfl
@[simp] theorem usePipe_seqs (s : State) (c : Cur) (k : Nat) : (s.usePipe c k).seqs = s.seqs := by
  unfold State.usePipe; split <;> rfl
@[simp] theorem usePipe_outbox (s : State) (c : Cur) (k : Nat) : (s.usePipe c k).outbox = s.outbox := by
  unfold State.usePipe; split <;> rfl
@[simp] theorem usePipe_clauses (s : State) (c : Cur) (k : Nat) : (s.usePipe c k).clauses = s.clauses := by
  unfold State.usePipe; split <;> rfl
@[simp] theorem usePipe_feHz (s : State) (c : Cur) (k : Nat) : (s.usePipe c k).feHz = s.feHz := by
  unfold State.usePipe; split <;> rfl
@[simp] theorem usePipe_released (s : State) (c : Cur) (k : Nat) : (s.usePipe c k).released = s.released := by
  unfold State.usePipe; split <;> rfl
@[simp] theorem usePipe_begun (s : State) (c : Cur) (k : Nat) : (s.usePipe c k).begun = s.begun := by
  unfold State.usePipe; split <;> rfl
@[simp] theorem usePipe_log (s : State) (c : Cur) (k : Nat) : (s.usePipe c k).log = s.log := by
  unfold State.usePipe; split <;> rfl
@[simp] theorem usePipe_intrs (s : State) (c : Cur) (k : Nat) : (s.usePipe c k).intrs = s.intrs := by
  unfold State.usePipe; split <;> rfl
@[simp] theorem usePipe_images (s : State) (c : Cur) (k : Nat) : (s.usePipe c k).images = s.images := by
  unfold State.usePipe; split <;> rfl
@[simp] theorem usePipe_kept (s : State) (c : Cur) (k : Nat) : (s.usePipe c k).kept = s.kept := by
  unfold State.usePipe; split <;> rfl
@[simp] theorem usePipe_remotes (s : State) (c : Cur) (k : Nat) : (s.usePipe c k).remotes = s.remotes := by
  unfold State.usePipe; split <;> rfl
@[simp] theorem usePipe_inputs (s : State) (c : Cur) (k : Nat) : (s.usePipe c k).inputs = s.inputs := by
  unfold State.usePipe; split <;> rfl
@[simp] theorem usePipe_actClock (s : State) (c : Cur) (k : Nat) : (s.usePipe c k).actClock = s.actClock := by
  unfold State.usePipe; split <;> rfl
@[simp] theorem usePipe_nextId (s : State) (c : Cur) (k : Nat) : (s.usePipe c k).nextId = s.nextId := by
  unfold State.usePipe; split <;> rfl
@[simp] theorem usePipe_freeN (s : State) (c : Cur) (k : Nat) : (s.usePipe c k).freeN = s.freeN := by
  unfold State.usePipe; split <;> rfl

/-! ### `issued` -/

@[simp] theorem issued_dcyc (s : State) (c : Ctx) (i : Instr) (k : Nat) (lat : Option Nat) (ws : List (Nat × Nat × Word)) (dead : Bool) (pc : Option Word) : (s.issued c i k lat ws dead pc).dcyc = s.dcyc := by
  simp [State.issued]
@[simp] theorem issued_dev (s : State) (c : Ctx) (i : Instr) (k : Nat) (lat : Option Nat) (ws : List (Nat × Nat × Word)) (dead : Bool) (pc : Option Word) : (s.issued c i k lat ws dead pc).dev = s.dev := by
  simp [State.issued]
@[simp] theorem issued_atCore (s : State) (c : Ctx) (i : Instr) (k : Nat) (lat : Option Nat) (ws : List (Nat × Nat × Word)) (dead : Bool) (pc : Option Word) : (s.issued c i k lat ws dead pc).atCore = s.atCore := by
  simp [State.issued]
@[simp] theorem issued_cores (s : State) (c : Ctx) (i : Instr) (k : Nat) (lat : Option Nat) (ws : List (Nat × Nat × Word)) (dead : Bool) (pc : Option Word) : (s.issued c i k lat ws dead pc).cores = s.cores := by
  simp [State.issued]
@[simp] theorem issued_owners (s : State) (c : Ctx) (i : Instr) (k : Nat) (lat : Option Nat) (ws : List (Nat × Nat × Word)) (dead : Bool) (pc : Option Word) : (s.issued c i k lat ws dead pc).owners = s.owners := by
  simp [State.issued]
@[simp] theorem issued_groups (s : State) (c : Ctx) (i : Instr) (k : Nat) (lat : Option Nat) (ws : List (Nat × Nat × Word)) (dead : Bool) (pc : Option Word) : (s.issued c i k lat ws dead pc).groups = s.groups := by
  simp [State.issued]
@[simp] theorem issued_accs (s : State) (c : Ctx) (i : Instr) (k : Nat) (lat : Option Nat) (ws : List (Nat × Nat × Word)) (dead : Bool) (pc : Option Word) : (s.issued c i k lat ws dead pc).accs = s.accs := by
  simp [State.issued]
@[simp] theorem issued_dets (s : State) (c : Ctx) (i : Instr) (k : Nat) (lat : Option Nat) (ws : List (Nat × Nat × Word)) (dead : Bool) (pc : Option Word) : (s.issued c i k lat ws dead pc).dets = s.dets := by
  simp [State.issued]
@[simp] theorem issued_mem (s : State) (c : Ctx) (i : Instr) (k : Nat) (lat : Option Nat) (ws : List (Nat × Nat × Word)) (dead : Bool) (pc : Option Word) : (s.issued c i k lat ws dead pc).mem = s.mem := by
  simp [State.issued]
@[simp] theorem issued_empties (s : State) (c : Ctx) (i : Instr) (k : Nat) (lat : Option Nat) (ws : List (Nat × Nat × Word)) (dead : Bool) (pc : Option Word) : (s.issued c i k lat ws dead pc).empties = s.empties := by
  simp [State.issued]
@[simp] theorem issued_poison (s : State) (c : Ctx) (i : Instr) (k : Nat) (lat : Option Nat) (ws : List (Nat × Nat × Word)) (dead : Bool) (pc : Option Word) : (s.issued c i k lat ws dead pc).poison = s.poison := by
  simp [State.issued]
@[simp] theorem issued_hostMem (s : State) (c : Ctx) (i : Instr) (k : Nat) (lat : Option Nat) (ws : List (Nat × Nat × Word)) (dead : Bool) (pc : Option Word) : (s.issued c i k lat ws dead pc).hostMem = s.hostMem := by
  simp [State.issued]
@[simp] theorem issued_transfers (s : State) (c : Ctx) (i : Instr) (k : Nat) (lat : Option Nat) (ws : List (Nat × Nat × Word)) (dead : Bool) (pc : Option Word) : (s.issued c i k lat ws dead pc).transfers = s.transfers := by
  simp [State.issued]
@[simp] theorem issued_seqs (s : State) (c : Ctx) (i : Instr) (k : Nat) (lat : Option Nat) (ws : List (Nat × Nat × Word)) (dead : Bool) (pc : Option Word) : (s.issued c i k lat ws dead pc).seqs = s.seqs := by
  simp [State.issued]
@[simp] theorem issued_outbox (s : State) (c : Ctx) (i : Instr) (k : Nat) (lat : Option Nat) (ws : List (Nat × Nat × Word)) (dead : Bool) (pc : Option Word) : (s.issued c i k lat ws dead pc).outbox = s.outbox := by
  simp [State.issued]
@[simp] theorem issued_clauses (s : State) (c : Ctx) (i : Instr) (k : Nat) (lat : Option Nat) (ws : List (Nat × Nat × Word)) (dead : Bool) (pc : Option Word) : (s.issued c i k lat ws dead pc).clauses = s.clauses := by
  simp [State.issued]
@[simp] theorem issued_feHz (s : State) (c : Ctx) (i : Instr) (k : Nat) (lat : Option Nat) (ws : List (Nat × Nat × Word)) (dead : Bool) (pc : Option Word) : (s.issued c i k lat ws dead pc).feHz = s.feHz := by
  simp [State.issued]
@[simp] theorem issued_released (s : State) (c : Ctx) (i : Instr) (k : Nat) (lat : Option Nat) (ws : List (Nat × Nat × Word)) (dead : Bool) (pc : Option Word) : (s.issued c i k lat ws dead pc).released = s.released := by
  simp [State.issued]
@[simp] theorem issued_begun (s : State) (c : Ctx) (i : Instr) (k : Nat) (lat : Option Nat) (ws : List (Nat × Nat × Word)) (dead : Bool) (pc : Option Word) : (s.issued c i k lat ws dead pc).begun = s.begun := by
  simp [State.issued]
@[simp] theorem issued_log (s : State) (c : Ctx) (i : Instr) (k : Nat) (lat : Option Nat) (ws : List (Nat × Nat × Word)) (dead : Bool) (pc : Option Word) : (s.issued c i k lat ws dead pc).log = s.log := by
  simp [State.issued]
@[simp] theorem issued_intrs (s : State) (c : Ctx) (i : Instr) (k : Nat) (lat : Option Nat) (ws : List (Nat × Nat × Word)) (dead : Bool) (pc : Option Word) : (s.issued c i k lat ws dead pc).intrs = s.intrs := by
  simp [State.issued]
@[simp] theorem issued_images (s : State) (c : Ctx) (i : Instr) (k : Nat) (lat : Option Nat) (ws : List (Nat × Nat × Word)) (dead : Bool) (pc : Option Word) : (s.issued c i k lat ws dead pc).images = s.images := by
  simp [State.issued]
@[simp] theorem issued_kept (s : State) (c : Ctx) (i : Instr) (k : Nat) (lat : Option Nat) (ws : List (Nat × Nat × Word)) (dead : Bool) (pc : Option Word) : (s.issued c i k lat ws dead pc).kept = s.kept := by
  simp [State.issued]
@[simp] theorem issued_remotes (s : State) (c : Ctx) (i : Instr) (k : Nat) (lat : Option Nat) (ws : List (Nat × Nat × Word)) (dead : Bool) (pc : Option Word) : (s.issued c i k lat ws dead pc).remotes = s.remotes := by
  simp [State.issued]
@[simp] theorem issued_inputs (s : State) (c : Ctx) (i : Instr) (k : Nat) (lat : Option Nat) (ws : List (Nat × Nat × Word)) (dead : Bool) (pc : Option Word) : (s.issued c i k lat ws dead pc).inputs = s.inputs := by
  simp [State.issued]
@[simp] theorem issued_actClock (s : State) (c : Ctx) (i : Instr) (k : Nat) (lat : Option Nat) (ws : List (Nat × Nat × Word)) (dead : Bool) (pc : Option Word) : (s.issued c i k lat ws dead pc).actClock = s.actClock := by
  simp [State.issued]
@[simp] theorem issued_freeN (s : State) (c : Ctx) (i : Instr) (k : Nat) (lat : Option Nat) (ws : List (Nat × Nat × Word)) (dead : Bool) (pc : Option Word) : (s.issued c i k lat ws dead pc).freeN = s.freeN := by
  simp [State.issued]

/-! ### `waits` -/

@[simp] theorem waits_dcyc (s : State) (c : Ctx) (i : Instr) (vs : List DWord) : (s.waits c i vs).dcyc = s.dcyc := by
  simp [State.waits]
@[simp] theorem waits_dev (s : State) (c : Ctx) (i : Instr) (vs : List DWord) : (s.waits c i vs).dev = s.dev := by
  simp [State.waits]
@[simp] theorem waits_atCore (s : State) (c : Ctx) (i : Instr) (vs : List DWord) : (s.waits c i vs).atCore = s.atCore := by
  simp [State.waits]
@[simp] theorem waits_cores (s : State) (c : Ctx) (i : Instr) (vs : List DWord) : (s.waits c i vs).cores = s.cores := by
  simp [State.waits]
@[simp] theorem waits_owners (s : State) (c : Ctx) (i : Instr) (vs : List DWord) : (s.waits c i vs).owners = s.owners := by
  simp [State.waits]
@[simp] theorem waits_groups (s : State) (c : Ctx) (i : Instr) (vs : List DWord) : (s.waits c i vs).groups = s.groups := by
  simp [State.waits]
@[simp] theorem waits_accs (s : State) (c : Ctx) (i : Instr) (vs : List DWord) : (s.waits c i vs).accs = s.accs := by
  simp [State.waits]
@[simp] theorem waits_dets (s : State) (c : Ctx) (i : Instr) (vs : List DWord) : (s.waits c i vs).dets = s.dets := by
  simp [State.waits]
@[simp] theorem waits_mem (s : State) (c : Ctx) (i : Instr) (vs : List DWord) : (s.waits c i vs).mem = s.mem := by
  simp [State.waits]
@[simp] theorem waits_empties (s : State) (c : Ctx) (i : Instr) (vs : List DWord) : (s.waits c i vs).empties = s.empties := by
  simp [State.waits]
@[simp] theorem waits_poison (s : State) (c : Ctx) (i : Instr) (vs : List DWord) : (s.waits c i vs).poison = s.poison := by
  simp [State.waits]
@[simp] theorem waits_hostMem (s : State) (c : Ctx) (i : Instr) (vs : List DWord) : (s.waits c i vs).hostMem = s.hostMem := by
  simp [State.waits]
@[simp] theorem waits_transfers (s : State) (c : Ctx) (i : Instr) (vs : List DWord) : (s.waits c i vs).transfers = s.transfers := by
  simp [State.waits]
@[simp] theorem waits_seqs (s : State) (c : Ctx) (i : Instr) (vs : List DWord) : (s.waits c i vs).seqs = s.seqs := by
  simp [State.waits]
@[simp] theorem waits_outbox (s : State) (c : Ctx) (i : Instr) (vs : List DWord) : (s.waits c i vs).outbox = s.outbox := by
  simp [State.waits]
@[simp] theorem waits_clauses (s : State) (c : Ctx) (i : Instr) (vs : List DWord) : (s.waits c i vs).clauses = s.clauses := by
  simp [State.waits]
@[simp] theorem waits_feHz (s : State) (c : Ctx) (i : Instr) (vs : List DWord) : (s.waits c i vs).feHz = s.feHz := by
  simp [State.waits]
@[simp] theorem waits_released (s : State) (c : Ctx) (i : Instr) (vs : List DWord) : (s.waits c i vs).released = s.released := by
  simp [State.waits]
@[simp] theorem waits_begun (s : State) (c : Ctx) (i : Instr) (vs : List DWord) : (s.waits c i vs).begun = s.begun := by
  simp [State.waits]
@[simp] theorem waits_log (s : State) (c : Ctx) (i : Instr) (vs : List DWord) : (s.waits c i vs).log = s.log := by
  simp [State.waits]
@[simp] theorem waits_intrs (s : State) (c : Ctx) (i : Instr) (vs : List DWord) : (s.waits c i vs).intrs = s.intrs := by
  simp [State.waits]
@[simp] theorem waits_images (s : State) (c : Ctx) (i : Instr) (vs : List DWord) : (s.waits c i vs).images = s.images := by
  simp [State.waits]
@[simp] theorem waits_kept (s : State) (c : Ctx) (i : Instr) (vs : List DWord) : (s.waits c i vs).kept = s.kept := by
  simp [State.waits]
@[simp] theorem waits_remotes (s : State) (c : Ctx) (i : Instr) (vs : List DWord) : (s.waits c i vs).remotes = s.remotes := by
  simp [State.waits]
@[simp] theorem waits_inputs (s : State) (c : Ctx) (i : Instr) (vs : List DWord) : (s.waits c i vs).inputs = s.inputs := by
  simp [State.waits]
@[simp] theorem waits_actClock (s : State) (c : Ctx) (i : Instr) (vs : List DWord) : (s.waits c i vs).actClock = s.actClock := by
  simp [State.waits]
@[simp] theorem waits_freeN (s : State) (c : Ctx) (i : Instr) (vs : List DWord) : (s.waits c i vs).freeN = s.freeN := by
  simp [State.waits]

/-! ### `stalls` -/

@[simp] theorem stalls_dcyc (s : State) (c : Ctx) (i : Instr) : (s.stalls c i).dcyc = s.dcyc := rfl
@[simp] theorem stalls_dev (s : State) (c : Ctx) (i : Instr) : (s.stalls c i).dev = s.dev := rfl
@[simp] theorem stalls_turn (s : State) (c : Ctx) (i : Instr) : (s.stalls c i).turn = s.turn := rfl
@[simp] theorem stalls_atCore (s : State) (c : Ctx) (i : Instr) : (s.stalls c i).atCore = s.atCore := rfl
@[simp] theorem stalls_cores (s : State) (c : Ctx) (i : Instr) : (s.stalls c i).cores = s.cores := rfl
@[simp] theorem stalls_owners (s : State) (c : Ctx) (i : Instr) : (s.stalls c i).owners = s.owners := rfl
@[simp] theorem stalls_lcores (s : State) (c : Ctx) (i : Instr) : (s.stalls c i).lcores = s.lcores := rfl
@[simp] theorem stalls_groups (s : State) (c : Ctx) (i : Instr) : (s.stalls c i).groups = s.groups := rfl
@[simp] theorem stalls_accs (s : State) (c : Ctx) (i : Instr) : (s.stalls c i).accs = s.accs := rfl
@[simp] theorem stalls_dets (s : State) (c : Ctx) (i : Instr) : (s.stalls c i).dets = s.dets := rfl
@[simp] theorem stalls_mem (s : State) (c : Ctx) (i : Instr) : (s.stalls c i).mem = s.mem := rfl
@[simp] theorem stalls_empties (s : State) (c : Ctx) (i : Instr) : (s.stalls c i).empties = s.empties := rfl
@[simp] theorem stalls_poison (s : State) (c : Ctx) (i : Instr) : (s.stalls c i).poison = s.poison := rfl
@[simp] theorem stalls_hostMem (s : State) (c : Ctx) (i : Instr) : (s.stalls c i).hostMem = s.hostMem := rfl
@[simp] theorem stalls_transfers (s : State) (c : Ctx) (i : Instr) : (s.stalls c i).transfers = s.transfers := rfl
@[simp] theorem stalls_seqs (s : State) (c : Ctx) (i : Instr) : (s.stalls c i).seqs = s.seqs := rfl
@[simp] theorem stalls_outbox (s : State) (c : Ctx) (i : Instr) : (s.stalls c i).outbox = s.outbox := rfl
@[simp] theorem stalls_clauses (s : State) (c : Ctx) (i : Instr) : (s.stalls c i).clauses = s.clauses := rfl
@[simp] theorem stalls_feHz (s : State) (c : Ctx) (i : Instr) : (s.stalls c i).feHz = s.feHz := rfl
@[simp] theorem stalls_released (s : State) (c : Ctx) (i : Instr) : (s.stalls c i).released = s.released := rfl
@[simp] theorem stalls_begun (s : State) (c : Ctx) (i : Instr) : (s.stalls c i).begun = s.begun := rfl
@[simp] theorem stalls_log (s : State) (c : Ctx) (i : Instr) : (s.stalls c i).log = s.log := rfl
@[simp] theorem stalls_intrs (s : State) (c : Ctx) (i : Instr) : (s.stalls c i).intrs = s.intrs := rfl
@[simp] theorem stalls_images (s : State) (c : Ctx) (i : Instr) : (s.stalls c i).images = s.images := rfl
@[simp] theorem stalls_kept (s : State) (c : Ctx) (i : Instr) : (s.stalls c i).kept = s.kept := rfl
@[simp] theorem stalls_remotes (s : State) (c : Ctx) (i : Instr) : (s.stalls c i).remotes = s.remotes := rfl
@[simp] theorem stalls_inputs (s : State) (c : Ctx) (i : Instr) : (s.stalls c i).inputs = s.inputs := rfl
@[simp] theorem stalls_actClock (s : State) (c : Ctx) (i : Instr) : (s.stalls c i).actClock = s.actClock := rfl
@[simp] theorem stalls_freeN (s : State) (c : Ctx) (i : Instr) : (s.stalls c i).freeN = s.freeN := rfl

/-! ### `bindFor` -/

@[simp] theorem bindFor_dcyc (s : State) (o lc m n : Nat) : (s.bindFor o lc m n).dcyc = s.dcyc := by
  unfold State.bindFor; split <;> rfl
@[simp] theorem bindFor_dev (s : State) (o lc m n : Nat) : (s.bindFor o lc m n).dev = s.dev := by
  unfold State.bindFor; split <;> rfl
@[simp] theorem bindFor_turn (s : State) (o lc m n : Nat) : (s.bindFor o lc m n).turn = s.turn := by
  unfold State.bindFor; split <;> rfl
@[simp] theorem bindFor_atCore (s : State) (o lc m n : Nat) : (s.bindFor o lc m n).atCore = s.atCore := by
  unfold State.bindFor; split <;> rfl
@[simp] theorem bindFor_cur (s : State) (o lc m n : Nat) : (s.bindFor o lc m n).cur = s.cur := by
  unfold State.bindFor; split <;> rfl
@[simp] theorem bindFor_cores (s : State) (o lc m n : Nat) : (s.bindFor o lc m n).cores = s.cores := by
  unfold State.bindFor; split <;> rfl
@[simp] theorem bindFor_owners (s : State) (o lc m n : Nat) : (s.bindFor o lc m n).owners = s.owners := by
  unfold State.bindFor; split <;> rfl
@[simp] theorem bindFor_strands (s : State) (o lc m n : Nat) : (s.bindFor o lc m n).strands = s.strands := by
  unfold State.bindFor; split <;> rfl
@[simp] theorem bindFor_groups (s : State) (o lc m n : Nat) : (s.bindFor o lc m n).groups = s.groups := by
  unfold State.bindFor; split <;> rfl
@[simp] theorem bindFor_accs (s : State) (o lc m n : Nat) : (s.bindFor o lc m n).accs = s.accs := by
  unfold State.bindFor; split <;> rfl
@[simp] theorem bindFor_dets (s : State) (o lc m n : Nat) : (s.bindFor o lc m n).dets = s.dets := by
  unfold State.bindFor; split <;> rfl
@[simp] theorem bindFor_mem (s : State) (o lc m n : Nat) : (s.bindFor o lc m n).mem = s.mem := by
  unfold State.bindFor; split <;> rfl
@[simp] theorem bindFor_empties (s : State) (o lc m n : Nat) : (s.bindFor o lc m n).empties = s.empties := by
  unfold State.bindFor; split <;> rfl
@[simp] theorem bindFor_poison (s : State) (o lc m n : Nat) : (s.bindFor o lc m n).poison = s.poison := by
  unfold State.bindFor; split <;> rfl
@[simp] theorem bindFor_hostMem (s : State) (o lc m n : Nat) : (s.bindFor o lc m n).hostMem = s.hostMem := by
  unfold State.bindFor; split <;> rfl
@[simp] theorem bindFor_transfers (s : State) (o lc m n : Nat) : (s.bindFor o lc m n).transfers = s.transfers := by
  unfold State.bindFor; split <;> rfl
@[simp] theorem bindFor_seqs (s : State) (o lc m n : Nat) : (s.bindFor o lc m n).seqs = s.seqs := by
  unfold State.bindFor; split <;> rfl
@[simp] theorem bindFor_outbox (s : State) (o lc m n : Nat) : (s.bindFor o lc m n).outbox = s.outbox := by
  unfold State.bindFor; split <;> rfl
@[simp] theorem bindFor_clauses (s : State) (o lc m n : Nat) : (s.bindFor o lc m n).clauses = s.clauses := by
  unfold State.bindFor; split <;> rfl
@[simp] theorem bindFor_feHz (s : State) (o lc m n : Nat) : (s.bindFor o lc m n).feHz = s.feHz := by
  unfold State.bindFor; split <;> rfl
@[simp] theorem bindFor_released (s : State) (o lc m n : Nat) : (s.bindFor o lc m n).released = s.released := by
  unfold State.bindFor; split <;> rfl
@[simp] theorem bindFor_begun (s : State) (o lc m n : Nat) : (s.bindFor o lc m n).begun = s.begun := by
  unfold State.bindFor; split <;> rfl
@[simp] theorem bindFor_log (s : State) (o lc m n : Nat) : (s.bindFor o lc m n).log = s.log := by
  unfold State.bindFor; split <;> rfl
@[simp] theorem bindFor_intrs (s : State) (o lc m n : Nat) : (s.bindFor o lc m n).intrs = s.intrs := by
  unfold State.bindFor; split <;> rfl
@[simp] theorem bindFor_images (s : State) (o lc m n : Nat) : (s.bindFor o lc m n).images = s.images := by
  unfold State.bindFor; split <;> rfl
@[simp] theorem bindFor_kept (s : State) (o lc m n : Nat) : (s.bindFor o lc m n).kept = s.kept := by
  unfold State.bindFor; split <;> rfl
@[simp] theorem bindFor_remotes (s : State) (o lc m n : Nat) : (s.bindFor o lc m n).remotes = s.remotes := by
  unfold State.bindFor; split <;> rfl
@[simp] theorem bindFor_inputs (s : State) (o lc m n : Nat) : (s.bindFor o lc m n).inputs = s.inputs := by
  unfold State.bindFor; split <;> rfl
@[simp] theorem bindFor_actClock (s : State) (o lc m n : Nat) : (s.bindFor o lc m n).actClock = s.actClock := by
  unfold State.bindFor; split <;> rfl
@[simp] theorem bindFor_nextId (s : State) (o lc m n : Nat) : (s.bindFor o lc m n).nextId = s.nextId := by
  unfold State.bindFor; split <;> rfl
@[simp] theorem bindFor_freeN (s : State) (o lc m n : Nat) : (s.bindFor o lc m n).freeN = s.freeN := by
  unfold State.bindFor; split <;> rfl

/-! ### `gsyncCheck` -/

@[simp] theorem gsyncCheck_dcyc (s : State) (g : Nat) : (s.gsyncCheck g).dcyc = s.dcyc := by
  unfold State.gsyncCheck; split
  · dsimp only; split_ifs <;> rfl
  · rfl
@[simp] theorem gsyncCheck_dev (s : State) (g : Nat) : (s.gsyncCheck g).dev = s.dev := by
  unfold State.gsyncCheck; split
  · dsimp only; split_ifs <;> rfl
  · rfl
@[simp] theorem gsyncCheck_turn (s : State) (g : Nat) : (s.gsyncCheck g).turn = s.turn := by
  unfold State.gsyncCheck; split
  · dsimp only; split_ifs <;> rfl
  · rfl
@[simp] theorem gsyncCheck_atCore (s : State) (g : Nat) : (s.gsyncCheck g).atCore = s.atCore := by
  unfold State.gsyncCheck; split
  · dsimp only; split_ifs <;> rfl
  · rfl
@[simp] theorem gsyncCheck_cur (s : State) (g : Nat) : (s.gsyncCheck g).cur = s.cur := by
  unfold State.gsyncCheck; split
  · dsimp only; split_ifs <;> rfl
  · rfl
@[simp] theorem gsyncCheck_cores (s : State) (g : Nat) : (s.gsyncCheck g).cores = s.cores := by
  unfold State.gsyncCheck; split
  · dsimp only; split_ifs <;> rfl
  · rfl
@[simp] theorem gsyncCheck_owners (s : State) (g : Nat) : (s.gsyncCheck g).owners = s.owners := by
  unfold State.gsyncCheck; split
  · dsimp only; split_ifs <;> rfl
  · rfl
@[simp] theorem gsyncCheck_lcores (s : State) (g : Nat) : (s.gsyncCheck g).lcores = s.lcores := by
  unfold State.gsyncCheck; split
  · dsimp only; split_ifs <;> rfl
  · rfl
@[simp] theorem gsyncCheck_strands (s : State) (g : Nat) : (s.gsyncCheck g).strands = s.strands := by
  unfold State.gsyncCheck; split
  · dsimp only; split_ifs <;> rfl
  · rfl
@[simp] theorem gsyncCheck_accs (s : State) (g : Nat) : (s.gsyncCheck g).accs = s.accs := by
  unfold State.gsyncCheck; split
  · dsimp only; split_ifs <;> rfl
  · rfl
@[simp] theorem gsyncCheck_dets (s : State) (g : Nat) : (s.gsyncCheck g).dets = s.dets := by
  unfold State.gsyncCheck; split
  · dsimp only; split_ifs <;> rfl
  · rfl
@[simp] theorem gsyncCheck_mem (s : State) (g : Nat) : (s.gsyncCheck g).mem = s.mem := by
  unfold State.gsyncCheck; split
  · dsimp only; split_ifs <;> rfl
  · rfl
@[simp] theorem gsyncCheck_empties (s : State) (g : Nat) : (s.gsyncCheck g).empties = s.empties := by
  unfold State.gsyncCheck; split
  · dsimp only; split_ifs <;> rfl
  · rfl
@[simp] theorem gsyncCheck_poison (s : State) (g : Nat) : (s.gsyncCheck g).poison = s.poison := by
  unfold State.gsyncCheck; split
  · dsimp only; split_ifs <;> rfl
  · rfl
@[simp] theorem gsyncCheck_hostMem (s : State) (g : Nat) : (s.gsyncCheck g).hostMem = s.hostMem := by
  unfold State.gsyncCheck; split
  · dsimp only; split_ifs <;> rfl
  · rfl
@[simp] theorem gsyncCheck_transfers (s : State) (g : Nat) : (s.gsyncCheck g).transfers = s.transfers := by
  unfold State.gsyncCheck; split
  · dsimp only; split_ifs <;> rfl
  · rfl
@[simp] theorem gsyncCheck_seqs (s : State) (g : Nat) : (s.gsyncCheck g).seqs = s.seqs := by
  unfold State.gsyncCheck; split
  · dsimp only; split_ifs <;> rfl
  · rfl
@[simp] theorem gsyncCheck_outbox (s : State) (g : Nat) : (s.gsyncCheck g).outbox = s.outbox := by
  unfold State.gsyncCheck; split
  · dsimp only; split_ifs <;> rfl
  · rfl
@[simp] theorem gsyncCheck_clauses (s : State) (g : Nat) : (s.gsyncCheck g).clauses = s.clauses := by
  unfold State.gsyncCheck; split
  · dsimp only; split_ifs <;> rfl
  · rfl
@[simp] theorem gsyncCheck_feHz (s : State) (g : Nat) : (s.gsyncCheck g).feHz = s.feHz := by
  unfold State.gsyncCheck; split
  · dsimp only; split_ifs <;> rfl
  · rfl
@[simp] theorem gsyncCheck_released (s : State) (g : Nat) : (s.gsyncCheck g).released = s.released := by
  unfold State.gsyncCheck; split
  · dsimp only; split_ifs <;> rfl
  · rfl
@[simp] theorem gsyncCheck_begun (s : State) (g : Nat) : (s.gsyncCheck g).begun = s.begun := by
  unfold State.gsyncCheck; split
  · dsimp only; split_ifs <;> rfl
  · rfl
@[simp] theorem gsyncCheck_log (s : State) (g : Nat) : (s.gsyncCheck g).log = s.log := by
  unfold State.gsyncCheck; split
  · dsimp only; split_ifs <;> rfl
  · rfl
@[simp] theorem gsyncCheck_intrs (s : State) (g : Nat) : (s.gsyncCheck g).intrs = s.intrs := by
  unfold State.gsyncCheck; split
  · dsimp only; split_ifs <;> rfl
  · rfl
@[simp] theorem gsyncCheck_images (s : State) (g : Nat) : (s.gsyncCheck g).images = s.images := by
  unfold State.gsyncCheck; split
  · dsimp only; split_ifs <;> rfl
  · rfl
@[simp] theorem gsyncCheck_kept (s : State) (g : Nat) : (s.gsyncCheck g).kept = s.kept := by
  unfold State.gsyncCheck; split
  · dsimp only; split_ifs <;> rfl
  · rfl
@[simp] theorem gsyncCheck_remotes (s : State) (g : Nat) : (s.gsyncCheck g).remotes = s.remotes := by
  unfold State.gsyncCheck; split
  · dsimp only; split_ifs <;> rfl
  · rfl
@[simp] theorem gsyncCheck_inputs (s : State) (g : Nat) : (s.gsyncCheck g).inputs = s.inputs := by
  unfold State.gsyncCheck; split
  · dsimp only; split_ifs <;> rfl
  · rfl
@[simp] theorem gsyncCheck_actClock (s : State) (g : Nat) : (s.gsyncCheck g).actClock = s.actClock := by
  unfold State.gsyncCheck; split
  · dsimp only; split_ifs <;> rfl
  · rfl
@[simp] theorem gsyncCheck_nextId (s : State) (g : Nat) : (s.gsyncCheck g).nextId = s.nextId := by
  unfold State.gsyncCheck; split
  · dsimp only; split_ifs <;> rfl
  · rfl
@[simp] theorem gsyncCheck_freeN (s : State) (g : Nat) : (s.gsyncCheck g).freeN = s.freeN := by
  unfold State.gsyncCheck; split
  · dsimp only; split_ifs <;> rfl
  · rfl

/-! ### `undoDispose` -/

/-- Folding a step that changes strands only changes strands only. -/
theorem foldl_strands {α : Type} {f : State → α → State} (hf : ∀ s a, ∃ ts, f s a = { s with strands := ts }) (l : List α) (s : State) :
    ∃ ts, l.foldl f s = { s with strands := ts } := by
  induction l generalizing s with
  | nil => exact ⟨s.strands, rfl⟩
  | cons a l ih =>
    obtain ⟨ts, h⟩ := hf s a
    obtain ⟨us, k⟩ := ih (f s a)
    exact ⟨us, by rw [List.foldl_cons, k, h]⟩

/-- Undoing the disposes of a killed strand changes strands only. -/
theorem undoDispose_strands (s : State) (i : StrandId) : ∃ ts, s.undoDispose i = { s with strands := ts } := by
  refine foldl_strands (fun s d => ?_) _ s
  unfold State.undoOne
  split_ifs
  · exact ⟨_, rfl⟩
  · exact ⟨s.strands, rfl⟩

@[simp] theorem undoDispose_dcyc (s : State) (i : StrandId) : (s.undoDispose i).dcyc = s.dcyc := by
  obtain ⟨_, h⟩ := undoDispose_strands s i; rw [h]
@[simp] theorem undoDispose_dev (s : State) (i : StrandId) : (s.undoDispose i).dev = s.dev := by
  obtain ⟨_, h⟩ := undoDispose_strands s i; rw [h]
@[simp] theorem undoDispose_turn (s : State) (i : StrandId) : (s.undoDispose i).turn = s.turn := by
  obtain ⟨_, h⟩ := undoDispose_strands s i; rw [h]
@[simp] theorem undoDispose_atCore (s : State) (i : StrandId) : (s.undoDispose i).atCore = s.atCore := by
  obtain ⟨_, h⟩ := undoDispose_strands s i; rw [h]
@[simp] theorem undoDispose_cur (s : State) (i : StrandId) : (s.undoDispose i).cur = s.cur := by
  obtain ⟨_, h⟩ := undoDispose_strands s i; rw [h]
@[simp] theorem undoDispose_cores (s : State) (i : StrandId) : (s.undoDispose i).cores = s.cores := by
  obtain ⟨_, h⟩ := undoDispose_strands s i; rw [h]
@[simp] theorem undoDispose_owners (s : State) (i : StrandId) : (s.undoDispose i).owners = s.owners := by
  obtain ⟨_, h⟩ := undoDispose_strands s i; rw [h]
@[simp] theorem undoDispose_lcores (s : State) (i : StrandId) : (s.undoDispose i).lcores = s.lcores := by
  obtain ⟨_, h⟩ := undoDispose_strands s i; rw [h]
@[simp] theorem undoDispose_groups (s : State) (i : StrandId) : (s.undoDispose i).groups = s.groups := by
  obtain ⟨_, h⟩ := undoDispose_strands s i; rw [h]
@[simp] theorem undoDispose_accs (s : State) (i : StrandId) : (s.undoDispose i).accs = s.accs := by
  obtain ⟨_, h⟩ := undoDispose_strands s i; rw [h]
@[simp] theorem undoDispose_dets (s : State) (i : StrandId) : (s.undoDispose i).dets = s.dets := by
  obtain ⟨_, h⟩ := undoDispose_strands s i; rw [h]
@[simp] theorem undoDispose_mem (s : State) (i : StrandId) : (s.undoDispose i).mem = s.mem := by
  obtain ⟨_, h⟩ := undoDispose_strands s i; rw [h]
@[simp] theorem undoDispose_empties (s : State) (i : StrandId) : (s.undoDispose i).empties = s.empties := by
  obtain ⟨_, h⟩ := undoDispose_strands s i; rw [h]
@[simp] theorem undoDispose_poison (s : State) (i : StrandId) : (s.undoDispose i).poison = s.poison := by
  obtain ⟨_, h⟩ := undoDispose_strands s i; rw [h]
@[simp] theorem undoDispose_hostMem (s : State) (i : StrandId) : (s.undoDispose i).hostMem = s.hostMem := by
  obtain ⟨_, h⟩ := undoDispose_strands s i; rw [h]
@[simp] theorem undoDispose_transfers (s : State) (i : StrandId) : (s.undoDispose i).transfers = s.transfers := by
  obtain ⟨_, h⟩ := undoDispose_strands s i; rw [h]
@[simp] theorem undoDispose_seqs (s : State) (i : StrandId) : (s.undoDispose i).seqs = s.seqs := by
  obtain ⟨_, h⟩ := undoDispose_strands s i; rw [h]
@[simp] theorem undoDispose_outbox (s : State) (i : StrandId) : (s.undoDispose i).outbox = s.outbox := by
  obtain ⟨_, h⟩ := undoDispose_strands s i; rw [h]
@[simp] theorem undoDispose_clauses (s : State) (i : StrandId) : (s.undoDispose i).clauses = s.clauses := by
  obtain ⟨_, h⟩ := undoDispose_strands s i; rw [h]
@[simp] theorem undoDispose_feHz (s : State) (i : StrandId) : (s.undoDispose i).feHz = s.feHz := by
  obtain ⟨_, h⟩ := undoDispose_strands s i; rw [h]
@[simp] theorem undoDispose_released (s : State) (i : StrandId) : (s.undoDispose i).released = s.released := by
  obtain ⟨_, h⟩ := undoDispose_strands s i; rw [h]
@[simp] theorem undoDispose_begun (s : State) (i : StrandId) : (s.undoDispose i).begun = s.begun := by
  obtain ⟨_, h⟩ := undoDispose_strands s i; rw [h]
@[simp] theorem undoDispose_log (s : State) (i : StrandId) : (s.undoDispose i).log = s.log := by
  obtain ⟨_, h⟩ := undoDispose_strands s i; rw [h]
@[simp] theorem undoDispose_intrs (s : State) (i : StrandId) : (s.undoDispose i).intrs = s.intrs := by
  obtain ⟨_, h⟩ := undoDispose_strands s i; rw [h]
@[simp] theorem undoDispose_images (s : State) (i : StrandId) : (s.undoDispose i).images = s.images := by
  obtain ⟨_, h⟩ := undoDispose_strands s i; rw [h]
@[simp] theorem undoDispose_kept (s : State) (i : StrandId) : (s.undoDispose i).kept = s.kept := by
  obtain ⟨_, h⟩ := undoDispose_strands s i; rw [h]
@[simp] theorem undoDispose_remotes (s : State) (i : StrandId) : (s.undoDispose i).remotes = s.remotes := by
  obtain ⟨_, h⟩ := undoDispose_strands s i; rw [h]
@[simp] theorem undoDispose_inputs (s : State) (i : StrandId) : (s.undoDispose i).inputs = s.inputs := by
  obtain ⟨_, h⟩ := undoDispose_strands s i; rw [h]
@[simp] theorem undoDispose_actClock (s : State) (i : StrandId) : (s.undoDispose i).actClock = s.actClock := by
  obtain ⟨_, h⟩ := undoDispose_strands s i; rw [h]
@[simp] theorem undoDispose_nextId (s : State) (i : StrandId) : (s.undoDispose i).nextId = s.nextId := by
  obtain ⟨_, h⟩ := undoDispose_strands s i; rw [h]
@[simp] theorem undoDispose_freeN (s : State) (i : StrandId) : (s.undoDispose i).freeN = s.freeN := by
  obtain ⟨_, h⟩ := undoDispose_strands s i; rw [h]

/-! ### `killStrand` -/

@[simp] theorem killStrand_dcyc (s : State) (i : StrandId) : (s.killStrand i).dcyc = s.dcyc := by
  unfold State.killStrand; simp only; split <;> simp
@[simp] theorem killStrand_dev (s : State) (i : StrandId) : (s.killStrand i).dev = s.dev := by
  unfold State.killStrand; simp only; split <;> simp
@[simp] theorem killStrand_turn (s : State) (i : StrandId) : (s.killStrand i).turn = s.turn := by
  unfold State.killStrand; simp only; split <;> simp
@[simp] theorem killStrand_atCore (s : State) (i : StrandId) : (s.killStrand i).atCore = s.atCore := by
  unfold State.killStrand; simp only; split <;> simp
@[simp] theorem killStrand_cur (s : State) (i : StrandId) : (s.killStrand i).cur = s.cur := by
  unfold State.killStrand; simp only; split <;> simp
@[simp] theorem killStrand_cores (s : State) (i : StrandId) : (s.killStrand i).cores = s.cores := by
  unfold State.killStrand; simp only; split <;> simp
@[simp] theorem killStrand_owners (s : State) (i : StrandId) : (s.killStrand i).owners = s.owners := by
  unfold State.killStrand; simp only; split <;> simp
@[simp] theorem killStrand_dets (s : State) (i : StrandId) : (s.killStrand i).dets = s.dets := by
  unfold State.killStrand; simp only; split <;> simp
@[simp] theorem killStrand_mem (s : State) (i : StrandId) : (s.killStrand i).mem = s.mem := by
  unfold State.killStrand; simp only; split <;> simp
@[simp] theorem killStrand_empties (s : State) (i : StrandId) : (s.killStrand i).empties = s.empties := by
  unfold State.killStrand; simp only; split <;> simp
@[simp] theorem killStrand_poison (s : State) (i : StrandId) : (s.killStrand i).poison = s.poison := by
  unfold State.killStrand; simp only; split <;> simp
@[simp] theorem killStrand_hostMem (s : State) (i : StrandId) : (s.killStrand i).hostMem = s.hostMem := by
  unfold State.killStrand; simp only; split <;> simp
@[simp] theorem killStrand_transfers (s : State) (i : StrandId) : (s.killStrand i).transfers = s.transfers := by
  unfold State.killStrand; simp only; split <;> simp
@[simp] theorem killStrand_seqs (s : State) (i : StrandId) : (s.killStrand i).seqs = s.seqs := by
  unfold State.killStrand; simp only; split <;> simp
@[simp] theorem killStrand_outbox (s : State) (i : StrandId) : (s.killStrand i).outbox = s.outbox := by
  unfold State.killStrand; simp only; split <;> simp
@[simp] theorem killStrand_clauses (s : State) (i : StrandId) : (s.killStrand i).clauses = s.clauses := by
  unfold State.killStrand; simp only; split <;> simp
@[simp] theorem killStrand_feHz (s : State) (i : StrandId) : (s.killStrand i).feHz = s.feHz := by
  unfold State.killStrand; simp only; split <;> simp
@[simp] theorem killStrand_released (s : State) (i : StrandId) : (s.killStrand i).released = s.released := by
  unfold State.killStrand; simp only; split <;> simp
@[simp] theorem killStrand_begun (s : State) (i : StrandId) : (s.killStrand i).begun = s.begun := by
  unfold State.killStrand; simp only; split <;> simp
@[simp] theorem killStrand_log (s : State) (i : StrandId) : (s.killStrand i).log = s.log := by
  unfold State.killStrand; simp only; split <;> simp
@[simp] theorem killStrand_intrs (s : State) (i : StrandId) : (s.killStrand i).intrs = s.intrs := by
  unfold State.killStrand; simp only; split <;> simp
@[simp] theorem killStrand_images (s : State) (i : StrandId) : (s.killStrand i).images = s.images := by
  unfold State.killStrand; simp only; split <;> simp
@[simp] theorem killStrand_kept (s : State) (i : StrandId) : (s.killStrand i).kept = s.kept := by
  unfold State.killStrand; simp only; split <;> simp
@[simp] theorem killStrand_remotes (s : State) (i : StrandId) : (s.killStrand i).remotes = s.remotes := by
  unfold State.killStrand; simp only; split <;> simp
@[simp] theorem killStrand_inputs (s : State) (i : StrandId) : (s.killStrand i).inputs = s.inputs := by
  unfold State.killStrand; simp only; split <;> simp
@[simp] theorem killStrand_actClock (s : State) (i : StrandId) : (s.killStrand i).actClock = s.actClock := by
  unfold State.killStrand; simp only; split <;> simp
@[simp] theorem killStrand_nextId (s : State) (i : StrandId) : (s.killStrand i).nextId = s.nextId := by
  unfold State.killStrand; simp only; split <;> simp
@[simp] theorem killStrand_freeN (s : State) (i : StrandId) : (s.killStrand i).freeN = s.freeN := by
  unfold State.killStrand; simp only; split <;> simp

/-! ### `firstHalf` -/

@[simp] theorem firstHalf_dcyc (s : State) (c : Cur) : (s.firstHalf c).dcyc = s.dcyc := by
  simp [State.firstHalf]
@[simp] theorem firstHalf_dev (s : State) (c : Cur) : (s.firstHalf c).dev = s.dev := by
  simp [State.firstHalf]
@[simp] theorem firstHalf_atCore (s : State) (c : Cur) : (s.firstHalf c).atCore = s.atCore := by
  simp [State.firstHalf]
@[simp] theorem firstHalf_cores (s : State) (c : Cur) : (s.firstHalf c).cores = s.cores := by
  simp [State.firstHalf]
@[simp] theorem firstHalf_owners (s : State) (c : Cur) : (s.firstHalf c).owners = s.owners := by
  simp [State.firstHalf]
@[simp] theorem firstHalf_groups (s : State) (c : Cur) : (s.firstHalf c).groups = s.groups := by
  simp [State.firstHalf]
@[simp] theorem firstHalf_accs (s : State) (c : Cur) : (s.firstHalf c).accs = s.accs := by
  simp [State.firstHalf]
@[simp] theorem firstHalf_dets (s : State) (c : Cur) : (s.firstHalf c).dets = s.dets := by
  simp [State.firstHalf]
@[simp] theorem firstHalf_mem (s : State) (c : Cur) : (s.firstHalf c).mem = s.mem := by
  simp [State.firstHalf]
@[simp] theorem firstHalf_empties (s : State) (c : Cur) : (s.firstHalf c).empties = s.empties := by
  simp [State.firstHalf]
@[simp] theorem firstHalf_poison (s : State) (c : Cur) : (s.firstHalf c).poison = s.poison := by
  simp [State.firstHalf]
@[simp] theorem firstHalf_hostMem (s : State) (c : Cur) : (s.firstHalf c).hostMem = s.hostMem := by
  simp [State.firstHalf]
@[simp] theorem firstHalf_transfers (s : State) (c : Cur) : (s.firstHalf c).transfers = s.transfers := by
  simp [State.firstHalf]
@[simp] theorem firstHalf_seqs (s : State) (c : Cur) : (s.firstHalf c).seqs = s.seqs := by
  simp [State.firstHalf]
@[simp] theorem firstHalf_outbox (s : State) (c : Cur) : (s.firstHalf c).outbox = s.outbox := by
  simp [State.firstHalf]
@[simp] theorem firstHalf_clauses (s : State) (c : Cur) : (s.firstHalf c).clauses = s.clauses := by
  simp [State.firstHalf]
@[simp] theorem firstHalf_feHz (s : State) (c : Cur) : (s.firstHalf c).feHz = s.feHz := by
  simp [State.firstHalf]
@[simp] theorem firstHalf_released (s : State) (c : Cur) : (s.firstHalf c).released = s.released := by
  simp [State.firstHalf]
@[simp] theorem firstHalf_begun (s : State) (c : Cur) : (s.firstHalf c).begun = s.begun := by
  simp [State.firstHalf]
@[simp] theorem firstHalf_log (s : State) (c : Cur) : (s.firstHalf c).log = s.log := by
  simp [State.firstHalf]
@[simp] theorem firstHalf_intrs (s : State) (c : Cur) : (s.firstHalf c).intrs = s.intrs := by
  simp [State.firstHalf]
@[simp] theorem firstHalf_images (s : State) (c : Cur) : (s.firstHalf c).images = s.images := by
  simp [State.firstHalf]
@[simp] theorem firstHalf_kept (s : State) (c : Cur) : (s.firstHalf c).kept = s.kept := by
  simp [State.firstHalf]
@[simp] theorem firstHalf_remotes (s : State) (c : Cur) : (s.firstHalf c).remotes = s.remotes := by
  simp [State.firstHalf]
@[simp] theorem firstHalf_inputs (s : State) (c : Cur) : (s.firstHalf c).inputs = s.inputs := by
  simp [State.firstHalf]
@[simp] theorem firstHalf_actClock (s : State) (c : Cur) : (s.firstHalf c).actClock = s.actClock := by
  simp [State.firstHalf]
@[simp] theorem firstHalf_nextId (s : State) (c : Cur) : (s.firstHalf c).nextId = s.nextId := by
  simp [State.firstHalf]
@[simp] theorem firstHalf_freeN (s : State) (c : Cur) : (s.firstHalf c).freeN = s.freeN := by
  simp [State.firstHalf]

/-! ### `addRecord` -/

@[simp] theorem addRecord_dcyc (s : State) (i : StrandId) (g : Nat) (ws : List Word) : (s.addRecord i g ws).dcyc = s.dcyc := rfl
@[simp] theorem addRecord_dev (s : State) (i : StrandId) (g : Nat) (ws : List Word) : (s.addRecord i g ws).dev = s.dev := rfl
@[simp] theorem addRecord_turn (s : State) (i : StrandId) (g : Nat) (ws : List Word) : (s.addRecord i g ws).turn = s.turn := rfl
@[simp] theorem addRecord_atCore (s : State) (i : StrandId) (g : Nat) (ws : List Word) : (s.addRecord i g ws).atCore = s.atCore := rfl
@[simp] theorem addRecord_cur (s : State) (i : StrandId) (g : Nat) (ws : List Word) : (s.addRecord i g ws).cur = s.cur := rfl
@[simp] theorem addRecord_cores (s : State) (i : StrandId) (g : Nat) (ws : List Word) : (s.addRecord i g ws).cores = s.cores := rfl
@[simp] theorem addRecord_owners (s : State) (i : StrandId) (g : Nat) (ws : List Word) : (s.addRecord i g ws).owners = s.owners := rfl
@[simp] theorem addRecord_strands (s : State) (i : StrandId) (g : Nat) (ws : List Word) : (s.addRecord i g ws).strands = s.strands := rfl
@[simp] theorem addRecord_groups (s : State) (i : StrandId) (g : Nat) (ws : List Word) : (s.addRecord i g ws).groups = s.groups := rfl
@[simp] theorem addRecord_accs (s : State) (i : StrandId) (g : Nat) (ws : List Word) : (s.addRecord i g ws).accs = s.accs := rfl
@[simp] theorem addRecord_dets (s : State) (i : StrandId) (g : Nat) (ws : List Word) : (s.addRecord i g ws).dets = s.dets := rfl
@[simp] theorem addRecord_mem (s : State) (i : StrandId) (g : Nat) (ws : List Word) : (s.addRecord i g ws).mem = s.mem := rfl
@[simp] theorem addRecord_empties (s : State) (i : StrandId) (g : Nat) (ws : List Word) : (s.addRecord i g ws).empties = s.empties := rfl
@[simp] theorem addRecord_poison (s : State) (i : StrandId) (g : Nat) (ws : List Word) : (s.addRecord i g ws).poison = s.poison := rfl
@[simp] theorem addRecord_hostMem (s : State) (i : StrandId) (g : Nat) (ws : List Word) : (s.addRecord i g ws).hostMem = s.hostMem := rfl
@[simp] theorem addRecord_transfers (s : State) (i : StrandId) (g : Nat) (ws : List Word) : (s.addRecord i g ws).transfers = s.transfers := rfl
@[simp] theorem addRecord_seqs (s : State) (i : StrandId) (g : Nat) (ws : List Word) : (s.addRecord i g ws).seqs = s.seqs := rfl
@[simp] theorem addRecord_outbox (s : State) (i : StrandId) (g : Nat) (ws : List Word) : (s.addRecord i g ws).outbox = s.outbox := rfl
@[simp] theorem addRecord_clauses (s : State) (i : StrandId) (g : Nat) (ws : List Word) : (s.addRecord i g ws).clauses = s.clauses := rfl
@[simp] theorem addRecord_feHz (s : State) (i : StrandId) (g : Nat) (ws : List Word) : (s.addRecord i g ws).feHz = s.feHz := rfl
@[simp] theorem addRecord_released (s : State) (i : StrandId) (g : Nat) (ws : List Word) : (s.addRecord i g ws).released = s.released := rfl
@[simp] theorem addRecord_begun (s : State) (i : StrandId) (g : Nat) (ws : List Word) : (s.addRecord i g ws).begun = s.begun := rfl
@[simp] theorem addRecord_log (s : State) (i : StrandId) (g : Nat) (ws : List Word) : (s.addRecord i g ws).log = s.log := rfl
@[simp] theorem addRecord_intrs (s : State) (i : StrandId) (g : Nat) (ws : List Word) : (s.addRecord i g ws).intrs = s.intrs := rfl
@[simp] theorem addRecord_images (s : State) (i : StrandId) (g : Nat) (ws : List Word) : (s.addRecord i g ws).images = s.images := rfl
@[simp] theorem addRecord_kept (s : State) (i : StrandId) (g : Nat) (ws : List Word) : (s.addRecord i g ws).kept = s.kept := rfl
@[simp] theorem addRecord_remotes (s : State) (i : StrandId) (g : Nat) (ws : List Word) : (s.addRecord i g ws).remotes = s.remotes := rfl
@[simp] theorem addRecord_inputs (s : State) (i : StrandId) (g : Nat) (ws : List Word) : (s.addRecord i g ws).inputs = s.inputs := rfl
@[simp] theorem addRecord_actClock (s : State) (i : StrandId) (g : Nat) (ws : List Word) : (s.addRecord i g ws).actClock = s.actClock := rfl
@[simp] theorem addRecord_freeN (s : State) (i : StrandId) (g : Nat) (ws : List Word) : (s.addRecord i g ws).freeN = s.freeN := rfl

/-! ### `faultGroup` -/

@[simp] theorem faultGroup_dcyc (s : State) (g : Nat) : (s.faultGroup g).dcyc = s.dcyc := rfl
@[simp] theorem faultGroup_dev (s : State) (g : Nat) : (s.faultGroup g).dev = s.dev := rfl
@[simp] theorem faultGroup_turn (s : State) (g : Nat) : (s.faultGroup g).turn = s.turn := rfl
@[simp] theorem faultGroup_atCore (s : State) (g : Nat) : (s.faultGroup g).atCore = s.atCore := rfl
@[simp] theorem faultGroup_cur (s : State) (g : Nat) : (s.faultGroup g).cur = s.cur := rfl
@[simp] theorem faultGroup_cores (s : State) (g : Nat) : (s.faultGroup g).cores = s.cores := rfl
@[simp] theorem faultGroup_owners (s : State) (g : Nat) : (s.faultGroup g).owners = s.owners := rfl
@[simp] theorem faultGroup_lcores (s : State) (g : Nat) : (s.faultGroup g).lcores = s.lcores := rfl
@[simp] theorem faultGroup_strands (s : State) (g : Nat) : (s.faultGroup g).strands = s.strands := rfl
@[simp] theorem faultGroup_accs (s : State) (g : Nat) : (s.faultGroup g).accs = s.accs := rfl
@[simp] theorem faultGroup_dets (s : State) (g : Nat) : (s.faultGroup g).dets = s.dets := rfl
@[simp] theorem faultGroup_mem (s : State) (g : Nat) : (s.faultGroup g).mem = s.mem := rfl
@[simp] theorem faultGroup_empties (s : State) (g : Nat) : (s.faultGroup g).empties = s.empties := rfl
@[simp] theorem faultGroup_poison (s : State) (g : Nat) : (s.faultGroup g).poison = s.poison := rfl
@[simp] theorem faultGroup_hostMem (s : State) (g : Nat) : (s.faultGroup g).hostMem = s.hostMem := rfl
@[simp] theorem faultGroup_transfers (s : State) (g : Nat) : (s.faultGroup g).transfers = s.transfers := rfl
@[simp] theorem faultGroup_seqs (s : State) (g : Nat) : (s.faultGroup g).seqs = s.seqs := rfl
@[simp] theorem faultGroup_outbox (s : State) (g : Nat) : (s.faultGroup g).outbox = s.outbox := rfl
@[simp] theorem faultGroup_clauses (s : State) (g : Nat) : (s.faultGroup g).clauses = s.clauses := rfl
@[simp] theorem faultGroup_feHz (s : State) (g : Nat) : (s.faultGroup g).feHz = s.feHz := rfl
@[simp] theorem faultGroup_released (s : State) (g : Nat) : (s.faultGroup g).released = s.released := rfl
@[simp] theorem faultGroup_begun (s : State) (g : Nat) : (s.faultGroup g).begun = s.begun := rfl
@[simp] theorem faultGroup_log (s : State) (g : Nat) : (s.faultGroup g).log = s.log := rfl
@[simp] theorem faultGroup_intrs (s : State) (g : Nat) : (s.faultGroup g).intrs = s.intrs := rfl
@[simp] theorem faultGroup_images (s : State) (g : Nat) : (s.faultGroup g).images = s.images := rfl
@[simp] theorem faultGroup_kept (s : State) (g : Nat) : (s.faultGroup g).kept = s.kept := rfl
@[simp] theorem faultGroup_remotes (s : State) (g : Nat) : (s.faultGroup g).remotes = s.remotes := rfl
@[simp] theorem faultGroup_inputs (s : State) (g : Nat) : (s.faultGroup g).inputs = s.inputs := rfl
@[simp] theorem faultGroup_actClock (s : State) (g : Nat) : (s.faultGroup g).actClock = s.actClock := rfl
@[simp] theorem faultGroup_nextId (s : State) (g : Nat) : (s.faultGroup g).nextId = s.nextId := rfl
@[simp] theorem faultGroup_freeN (s : State) (g : Nat) : (s.faultGroup g).freeN = s.freeN := rfl

/-! ### `queueTrap` -/

@[simp] theorem queueTrap_dcyc (s : State) (c : Cur) (tr : Trap) (b : Bool) : (s.queueTrap c tr b).dcyc = s.dcyc := by
  unfold State.queueTrap; (repeat' split) <;> simp
@[simp] theorem queueTrap_dev (s : State) (c : Cur) (tr : Trap) (b : Bool) : (s.queueTrap c tr b).dev = s.dev := by
  unfold State.queueTrap; (repeat' split) <;> simp
@[simp] theorem queueTrap_turn (s : State) (c : Cur) (tr : Trap) (b : Bool) : (s.queueTrap c tr b).turn = s.turn := by
  unfold State.queueTrap; (repeat' split) <;> simp
@[simp] theorem queueTrap_atCore (s : State) (c : Cur) (tr : Trap) (b : Bool) : (s.queueTrap c tr b).atCore = s.atCore := by
  unfold State.queueTrap; (repeat' split) <;> simp
@[simp] theorem queueTrap_cur (s : State) (c : Cur) (tr : Trap) (b : Bool) : (s.queueTrap c tr b).cur = s.cur := by
  unfold State.queueTrap; (repeat' split) <;> simp
@[simp] theorem queueTrap_cores (s : State) (c : Cur) (tr : Trap) (b : Bool) : (s.queueTrap c tr b).cores = s.cores := by
  unfold State.queueTrap; (repeat' split) <;> simp
@[simp] theorem queueTrap_owners (s : State) (c : Cur) (tr : Trap) (b : Bool) : (s.queueTrap c tr b).owners = s.owners := by
  unfold State.queueTrap; (repeat' split) <;> simp
@[simp] theorem queueTrap_dets (s : State) (c : Cur) (tr : Trap) (b : Bool) : (s.queueTrap c tr b).dets = s.dets := by
  unfold State.queueTrap; (repeat' split) <;> simp
@[simp] theorem queueTrap_mem (s : State) (c : Cur) (tr : Trap) (b : Bool) : (s.queueTrap c tr b).mem = s.mem := by
  unfold State.queueTrap; (repeat' split) <;> simp
@[simp] theorem queueTrap_empties (s : State) (c : Cur) (tr : Trap) (b : Bool) : (s.queueTrap c tr b).empties = s.empties := by
  unfold State.queueTrap; (repeat' split) <;> simp
@[simp] theorem queueTrap_poison (s : State) (c : Cur) (tr : Trap) (b : Bool) : (s.queueTrap c tr b).poison = s.poison := by
  unfold State.queueTrap; (repeat' split) <;> simp
@[simp] theorem queueTrap_hostMem (s : State) (c : Cur) (tr : Trap) (b : Bool) : (s.queueTrap c tr b).hostMem = s.hostMem := by
  unfold State.queueTrap; (repeat' split) <;> simp
@[simp] theorem queueTrap_transfers (s : State) (c : Cur) (tr : Trap) (b : Bool) : (s.queueTrap c tr b).transfers = s.transfers := by
  unfold State.queueTrap; (repeat' split) <;> simp
@[simp] theorem queueTrap_seqs (s : State) (c : Cur) (tr : Trap) (b : Bool) : (s.queueTrap c tr b).seqs = s.seqs := by
  unfold State.queueTrap; (repeat' split) <;> simp
@[simp] theorem queueTrap_outbox (s : State) (c : Cur) (tr : Trap) (b : Bool) : (s.queueTrap c tr b).outbox = s.outbox := by
  unfold State.queueTrap; (repeat' split) <;> simp
@[simp] theorem queueTrap_clauses (s : State) (c : Cur) (tr : Trap) (b : Bool) : (s.queueTrap c tr b).clauses = s.clauses := by
  unfold State.queueTrap; (repeat' split) <;> simp
@[simp] theorem queueTrap_feHz (s : State) (c : Cur) (tr : Trap) (b : Bool) : (s.queueTrap c tr b).feHz = s.feHz := by
  unfold State.queueTrap; (repeat' split) <;> simp
@[simp] theorem queueTrap_released (s : State) (c : Cur) (tr : Trap) (b : Bool) : (s.queueTrap c tr b).released = s.released := by
  unfold State.queueTrap; (repeat' split) <;> simp
@[simp] theorem queueTrap_begun (s : State) (c : Cur) (tr : Trap) (b : Bool) : (s.queueTrap c tr b).begun = s.begun := by
  unfold State.queueTrap; (repeat' split) <;> simp
@[simp] theorem queueTrap_log (s : State) (c : Cur) (tr : Trap) (b : Bool) : (s.queueTrap c tr b).log = s.log := by
  unfold State.queueTrap; (repeat' split) <;> simp
@[simp] theorem queueTrap_intrs (s : State) (c : Cur) (tr : Trap) (b : Bool) : (s.queueTrap c tr b).intrs = s.intrs := by
  unfold State.queueTrap; (repeat' split) <;> simp
@[simp] theorem queueTrap_images (s : State) (c : Cur) (tr : Trap) (b : Bool) : (s.queueTrap c tr b).images = s.images := by
  unfold State.queueTrap; (repeat' split) <;> simp
@[simp] theorem queueTrap_kept (s : State) (c : Cur) (tr : Trap) (b : Bool) : (s.queueTrap c tr b).kept = s.kept := by
  unfold State.queueTrap; (repeat' split) <;> simp
@[simp] theorem queueTrap_remotes (s : State) (c : Cur) (tr : Trap) (b : Bool) : (s.queueTrap c tr b).remotes = s.remotes := by
  unfold State.queueTrap; (repeat' split) <;> simp
@[simp] theorem queueTrap_inputs (s : State) (c : Cur) (tr : Trap) (b : Bool) : (s.queueTrap c tr b).inputs = s.inputs := by
  unfold State.queueTrap; (repeat' split) <;> simp
@[simp] theorem queueTrap_actClock (s : State) (c : Cur) (tr : Trap) (b : Bool) : (s.queueTrap c tr b).actClock = s.actClock := by
  unfold State.queueTrap; (repeat' split) <;> simp
@[simp] theorem queueTrap_freeN (s : State) (c : Cur) (tr : Trap) (b : Bool) : (s.queueTrap c tr b).freeN = s.freeN := by
  unfold State.queueTrap; (repeat' split) <;> simp

/-! ### `takeTrap` -/

@[simp] theorem takeTrap_dcyc (s : State) (c : Cur) (tr : Trap) (b : Bool) : (s.takeTrap c tr b).dcyc = s.dcyc := by
  unfold State.takeTrap; (repeat' split) <;> simp
@[simp] theorem takeTrap_dev (s : State) (c : Cur) (tr : Trap) (b : Bool) : (s.takeTrap c tr b).dev = s.dev := by
  unfold State.takeTrap; (repeat' split) <;> simp
@[simp] theorem takeTrap_turn (s : State) (c : Cur) (tr : Trap) (b : Bool) : (s.takeTrap c tr b).turn = s.turn := by
  unfold State.takeTrap; (repeat' split) <;> simp
@[simp] theorem takeTrap_atCore (s : State) (c : Cur) (tr : Trap) (b : Bool) : (s.takeTrap c tr b).atCore = s.atCore := by
  unfold State.takeTrap; (repeat' split) <;> simp
@[simp] theorem takeTrap_cur (s : State) (c : Cur) (tr : Trap) (b : Bool) : (s.takeTrap c tr b).cur = s.cur := by
  unfold State.takeTrap; (repeat' split) <;> simp
@[simp] theorem takeTrap_cores (s : State) (c : Cur) (tr : Trap) (b : Bool) : (s.takeTrap c tr b).cores = s.cores := by
  unfold State.takeTrap; (repeat' split) <;> simp
@[simp] theorem takeTrap_owners (s : State) (c : Cur) (tr : Trap) (b : Bool) : (s.takeTrap c tr b).owners = s.owners := by
  unfold State.takeTrap; (repeat' split) <;> simp
@[simp] theorem takeTrap_dets (s : State) (c : Cur) (tr : Trap) (b : Bool) : (s.takeTrap c tr b).dets = s.dets := by
  unfold State.takeTrap; (repeat' split) <;> simp
@[simp] theorem takeTrap_mem (s : State) (c : Cur) (tr : Trap) (b : Bool) : (s.takeTrap c tr b).mem = s.mem := by
  unfold State.takeTrap; (repeat' split) <;> simp
@[simp] theorem takeTrap_empties (s : State) (c : Cur) (tr : Trap) (b : Bool) : (s.takeTrap c tr b).empties = s.empties := by
  unfold State.takeTrap; (repeat' split) <;> simp
@[simp] theorem takeTrap_poison (s : State) (c : Cur) (tr : Trap) (b : Bool) : (s.takeTrap c tr b).poison = s.poison := by
  unfold State.takeTrap; (repeat' split) <;> simp
@[simp] theorem takeTrap_hostMem (s : State) (c : Cur) (tr : Trap) (b : Bool) : (s.takeTrap c tr b).hostMem = s.hostMem := by
  unfold State.takeTrap; (repeat' split) <;> simp
@[simp] theorem takeTrap_transfers (s : State) (c : Cur) (tr : Trap) (b : Bool) : (s.takeTrap c tr b).transfers = s.transfers := by
  unfold State.takeTrap; (repeat' split) <;> simp
@[simp] theorem takeTrap_seqs (s : State) (c : Cur) (tr : Trap) (b : Bool) : (s.takeTrap c tr b).seqs = s.seqs := by
  unfold State.takeTrap; (repeat' split) <;> simp
@[simp] theorem takeTrap_outbox (s : State) (c : Cur) (tr : Trap) (b : Bool) : (s.takeTrap c tr b).outbox = s.outbox := by
  unfold State.takeTrap; (repeat' split) <;> simp
@[simp] theorem takeTrap_clauses (s : State) (c : Cur) (tr : Trap) (b : Bool) : (s.takeTrap c tr b).clauses = s.clauses := by
  unfold State.takeTrap; (repeat' split) <;> simp
@[simp] theorem takeTrap_feHz (s : State) (c : Cur) (tr : Trap) (b : Bool) : (s.takeTrap c tr b).feHz = s.feHz := by
  unfold State.takeTrap; (repeat' split) <;> simp
@[simp] theorem takeTrap_released (s : State) (c : Cur) (tr : Trap) (b : Bool) : (s.takeTrap c tr b).released = s.released := by
  unfold State.takeTrap; (repeat' split) <;> simp
@[simp] theorem takeTrap_begun (s : State) (c : Cur) (tr : Trap) (b : Bool) : (s.takeTrap c tr b).begun = s.begun := by
  unfold State.takeTrap; (repeat' split) <;> simp
@[simp] theorem takeTrap_log (s : State) (c : Cur) (tr : Trap) (b : Bool) : (s.takeTrap c tr b).log = s.log := by
  unfold State.takeTrap; (repeat' split) <;> simp
@[simp] theorem takeTrap_intrs (s : State) (c : Cur) (tr : Trap) (b : Bool) : (s.takeTrap c tr b).intrs = s.intrs := by
  unfold State.takeTrap; (repeat' split) <;> simp
@[simp] theorem takeTrap_images (s : State) (c : Cur) (tr : Trap) (b : Bool) : (s.takeTrap c tr b).images = s.images := by
  unfold State.takeTrap; (repeat' split) <;> simp
@[simp] theorem takeTrap_kept (s : State) (c : Cur) (tr : Trap) (b : Bool) : (s.takeTrap c tr b).kept = s.kept := by
  unfold State.takeTrap; (repeat' split) <;> simp
@[simp] theorem takeTrap_remotes (s : State) (c : Cur) (tr : Trap) (b : Bool) : (s.takeTrap c tr b).remotes = s.remotes := by
  unfold State.takeTrap; (repeat' split) <;> simp
@[simp] theorem takeTrap_inputs (s : State) (c : Cur) (tr : Trap) (b : Bool) : (s.takeTrap c tr b).inputs = s.inputs := by
  unfold State.takeTrap; (repeat' split) <;> simp
@[simp] theorem takeTrap_actClock (s : State) (c : Cur) (tr : Trap) (b : Bool) : (s.takeTrap c tr b).actClock = s.actClock := by
  unfold State.takeTrap; (repeat' split) <;> simp
@[simp] theorem takeTrap_freeN (s : State) (c : Cur) (tr : Trap) (b : Bool) : (s.takeTrap c tr b).freeN = s.freeN := by
  unfold State.takeTrap; (repeat' split) <;> simp

/-! ### `trapped` -/

@[simp] theorem trapped_dcyc (s : State) (c : Ctx) (tr : Trap) : (s.trapped c tr).dcyc = s.dcyc := by
  simp [State.trapped]
@[simp] theorem trapped_dev (s : State) (c : Ctx) (tr : Trap) : (s.trapped c tr).dev = s.dev := by
  simp [State.trapped]
@[simp] theorem trapped_atCore (s : State) (c : Ctx) (tr : Trap) : (s.trapped c tr).atCore = s.atCore := by
  simp [State.trapped]
@[simp] theorem trapped_cores (s : State) (c : Ctx) (tr : Trap) : (s.trapped c tr).cores = s.cores := by
  simp [State.trapped]
@[simp] theorem trapped_owners (s : State) (c : Ctx) (tr : Trap) : (s.trapped c tr).owners = s.owners := by
  simp [State.trapped]
@[simp] theorem trapped_dets (s : State) (c : Ctx) (tr : Trap) : (s.trapped c tr).dets = s.dets := by
  simp [State.trapped]
@[simp] theorem trapped_mem (s : State) (c : Ctx) (tr : Trap) : (s.trapped c tr).mem = s.mem := by
  simp [State.trapped]
@[simp] theorem trapped_empties (s : State) (c : Ctx) (tr : Trap) : (s.trapped c tr).empties = s.empties := by
  simp [State.trapped]
@[simp] theorem trapped_poison (s : State) (c : Ctx) (tr : Trap) : (s.trapped c tr).poison = s.poison := by
  simp [State.trapped]
@[simp] theorem trapped_hostMem (s : State) (c : Ctx) (tr : Trap) : (s.trapped c tr).hostMem = s.hostMem := by
  simp [State.trapped]
@[simp] theorem trapped_transfers (s : State) (c : Ctx) (tr : Trap) : (s.trapped c tr).transfers = s.transfers := by
  simp [State.trapped]
@[simp] theorem trapped_seqs (s : State) (c : Ctx) (tr : Trap) : (s.trapped c tr).seqs = s.seqs := by
  simp [State.trapped]
@[simp] theorem trapped_outbox (s : State) (c : Ctx) (tr : Trap) : (s.trapped c tr).outbox = s.outbox := by
  simp [State.trapped]
@[simp] theorem trapped_clauses (s : State) (c : Ctx) (tr : Trap) : (s.trapped c tr).clauses = s.clauses := by
  simp [State.trapped]
@[simp] theorem trapped_feHz (s : State) (c : Ctx) (tr : Trap) : (s.trapped c tr).feHz = s.feHz := by
  simp [State.trapped]
@[simp] theorem trapped_released (s : State) (c : Ctx) (tr : Trap) : (s.trapped c tr).released = s.released := by
  simp [State.trapped]
@[simp] theorem trapped_begun (s : State) (c : Ctx) (tr : Trap) : (s.trapped c tr).begun = s.begun := by
  simp [State.trapped]
@[simp] theorem trapped_log (s : State) (c : Ctx) (tr : Trap) : (s.trapped c tr).log = s.log := by
  simp [State.trapped]
@[simp] theorem trapped_intrs (s : State) (c : Ctx) (tr : Trap) : (s.trapped c tr).intrs = s.intrs := by
  simp [State.trapped]
@[simp] theorem trapped_images (s : State) (c : Ctx) (tr : Trap) : (s.trapped c tr).images = s.images := by
  simp [State.trapped]
@[simp] theorem trapped_kept (s : State) (c : Ctx) (tr : Trap) : (s.trapped c tr).kept = s.kept := by
  simp [State.trapped]
@[simp] theorem trapped_remotes (s : State) (c : Ctx) (tr : Trap) : (s.trapped c tr).remotes = s.remotes := by
  simp [State.trapped]
@[simp] theorem trapped_inputs (s : State) (c : Ctx) (tr : Trap) : (s.trapped c tr).inputs = s.inputs := by
  simp [State.trapped]
@[simp] theorem trapped_actClock (s : State) (c : Ctx) (tr : Trap) : (s.trapped c tr).actClock = s.actClock := by
  simp [State.trapped]
@[simp] theorem trapped_freeN (s : State) (c : Ctx) (tr : Trap) : (s.trapped c tr).freeN = s.freeN := by
  simp [State.trapped]

/-! ### `trapEntry` -/

@[simp] theorem trapEntry_dcyc (s : State) (i : StrandId) (tr : Trap) : (s.trapEntry i tr).dcyc = s.dcyc := by
  unfold State.trapEntry; split
  · dsimp only; split_ifs <;> simp
  · rfl
@[simp] theorem trapEntry_dev (s : State) (i : StrandId) (tr : Trap) : (s.trapEntry i tr).dev = s.dev := by
  unfold State.trapEntry; split
  · dsimp only; split_ifs <;> simp
  · rfl
@[simp] theorem trapEntry_turn (s : State) (i : StrandId) (tr : Trap) : (s.trapEntry i tr).turn = s.turn := by
  unfold State.trapEntry; split
  · dsimp only; split_ifs <;> simp
  · rfl
@[simp] theorem trapEntry_atCore (s : State) (i : StrandId) (tr : Trap) : (s.trapEntry i tr).atCore = s.atCore := by
  unfold State.trapEntry; split
  · dsimp only; split_ifs <;> simp
  · rfl
@[simp] theorem trapEntry_cur (s : State) (i : StrandId) (tr : Trap) : (s.trapEntry i tr).cur = s.cur := by
  unfold State.trapEntry; split
  · dsimp only; split_ifs <;> simp
  · rfl
@[simp] theorem trapEntry_cores (s : State) (i : StrandId) (tr : Trap) : (s.trapEntry i tr).cores = s.cores := by
  unfold State.trapEntry; split
  · dsimp only; split_ifs <;> simp
  · rfl
@[simp] theorem trapEntry_owners (s : State) (i : StrandId) (tr : Trap) : (s.trapEntry i tr).owners = s.owners := by
  unfold State.trapEntry; split
  · dsimp only; split_ifs <;> simp
  · rfl
@[simp] theorem trapEntry_dets (s : State) (i : StrandId) (tr : Trap) : (s.trapEntry i tr).dets = s.dets := by
  unfold State.trapEntry; split
  · dsimp only; split_ifs <;> simp
  · rfl
@[simp] theorem trapEntry_mem (s : State) (i : StrandId) (tr : Trap) : (s.trapEntry i tr).mem = s.mem := by
  unfold State.trapEntry; split
  · dsimp only; split_ifs <;> simp
  · rfl
@[simp] theorem trapEntry_empties (s : State) (i : StrandId) (tr : Trap) : (s.trapEntry i tr).empties = s.empties := by
  unfold State.trapEntry; split
  · dsimp only; split_ifs <;> simp
  · rfl
@[simp] theorem trapEntry_poison (s : State) (i : StrandId) (tr : Trap) : (s.trapEntry i tr).poison = s.poison := by
  unfold State.trapEntry; split
  · dsimp only; split_ifs <;> simp
  · rfl
@[simp] theorem trapEntry_hostMem (s : State) (i : StrandId) (tr : Trap) : (s.trapEntry i tr).hostMem = s.hostMem := by
  unfold State.trapEntry; split
  · dsimp only; split_ifs <;> simp
  · rfl
@[simp] theorem trapEntry_transfers (s : State) (i : StrandId) (tr : Trap) : (s.trapEntry i tr).transfers = s.transfers := by
  unfold State.trapEntry; split
  · dsimp only; split_ifs <;> simp
  · rfl
@[simp] theorem trapEntry_seqs (s : State) (i : StrandId) (tr : Trap) : (s.trapEntry i tr).seqs = s.seqs := by
  unfold State.trapEntry; split
  · dsimp only; split_ifs <;> simp
  · rfl
@[simp] theorem trapEntry_outbox (s : State) (i : StrandId) (tr : Trap) : (s.trapEntry i tr).outbox = s.outbox := by
  unfold State.trapEntry; split
  · dsimp only; split_ifs <;> simp
  · rfl
@[simp] theorem trapEntry_clauses (s : State) (i : StrandId) (tr : Trap) : (s.trapEntry i tr).clauses = s.clauses := by
  unfold State.trapEntry; split
  · dsimp only; split_ifs <;> simp
  · rfl
@[simp] theorem trapEntry_feHz (s : State) (i : StrandId) (tr : Trap) : (s.trapEntry i tr).feHz = s.feHz := by
  unfold State.trapEntry; split
  · dsimp only; split_ifs <;> simp
  · rfl
@[simp] theorem trapEntry_released (s : State) (i : StrandId) (tr : Trap) : (s.trapEntry i tr).released = s.released := by
  unfold State.trapEntry; split
  · dsimp only; split_ifs <;> simp
  · rfl
@[simp] theorem trapEntry_begun (s : State) (i : StrandId) (tr : Trap) : (s.trapEntry i tr).begun = s.begun := by
  unfold State.trapEntry; split
  · dsimp only; split_ifs <;> simp
  · rfl
@[simp] theorem trapEntry_log (s : State) (i : StrandId) (tr : Trap) : (s.trapEntry i tr).log = s.log := by
  unfold State.trapEntry; split
  · dsimp only; split_ifs <;> simp
  · rfl
@[simp] theorem trapEntry_intrs (s : State) (i : StrandId) (tr : Trap) : (s.trapEntry i tr).intrs = s.intrs := by
  unfold State.trapEntry; split
  · dsimp only; split_ifs <;> simp
  · rfl
@[simp] theorem trapEntry_images (s : State) (i : StrandId) (tr : Trap) : (s.trapEntry i tr).images = s.images := by
  unfold State.trapEntry; split
  · dsimp only; split_ifs <;> simp
  · rfl
@[simp] theorem trapEntry_kept (s : State) (i : StrandId) (tr : Trap) : (s.trapEntry i tr).kept = s.kept := by
  unfold State.trapEntry; split
  · dsimp only; split_ifs <;> simp
  · rfl
@[simp] theorem trapEntry_remotes (s : State) (i : StrandId) (tr : Trap) : (s.trapEntry i tr).remotes = s.remotes := by
  unfold State.trapEntry; split
  · dsimp only; split_ifs <;> simp
  · rfl
@[simp] theorem trapEntry_inputs (s : State) (i : StrandId) (tr : Trap) : (s.trapEntry i tr).inputs = s.inputs := by
  unfold State.trapEntry; split
  · dsimp only; split_ifs <;> simp
  · rfl
@[simp] theorem trapEntry_actClock (s : State) (i : StrandId) (tr : Trap) : (s.trapEntry i tr).actClock = s.actClock := by
  unfold State.trapEntry; split
  · dsimp only; split_ifs <;> simp
  · rfl
@[simp] theorem trapEntry_freeN (s : State) (i : StrandId) (tr : Trap) : (s.trapEntry i tr).freeN = s.freeN := by
  unfold State.trapEntry; split
  · dsimp only; split_ifs <;> simp
  · rfl

end Sys2Proof.Machine
end

