-- ==== Sys2Proof/Laws/Issue.lean ====
section
/-!
SUPPORT. What issuing an instruction comes to: one equation for an instruction that has its own effect, one inversion that lists
everything an issue can do, and that an issue always goes on.
-/

namespace Sys2Proof.Machine

/-- The outcome of an instruction's own effect. -/
def effOutcome (i : Instr) (cost : Nat) (c : Ctx) (s : State) : Eff → Host.Outcome State Fault Refusal
  | .trap cause sub addr mask => .next (s.trapped c ⟨cause, sub, addr, mask.getD (BitVec.ofNat 32 (maskOf c.lanes))⟩)
  | .done s' lat writes pc => .next (s'.issued c i cost lat writes false pc)
  | .wait s' vals => .next (s'.waits c i vals)
  | .stall => .next (s.stalls c i)
  | .free s' pc => .next { (s'.retire c i s.nextId none [] false (some pc) c.now).fresh with cur := none }

/-- An instruction that has its own effect. -/
theorem issueWith_issuing {s : State} {i : Instr} {cost : Nat} {c : Ctx} (k : Ctx → State → Eff)
    (h : issuing s i cost = some c) : issueWith i cost k s = effOutcome i cost c s (k c s) := by
  unfold issuing at h
  cases hcur : s.cur with
  | none => simp [hcur] at h
  | some cur =>
    rw [hcur] at h
    cases hctx : ctxAt s cur with
    | none => simp [hctx] at h
    | some c0 =>
      simp only [Option.bind_some, hctx] at h
      cases herr : issueError c0 i with
      | some tr => simp [herr] at h
      | none =>
        simp only [herr, Option.isSome_none, Bool.false_eq_true, if_false] at h
        split at h
        · simp at h
        · rename_i hh
          split at h
          · simp at h
          · rename_i hg
            obtain rfl := Option.some.inj h
            simp only [issueWith, hcur, hctx, herr, hg, if_false, if_neg hh]
            cases k (c0.guarded (fieldsOf i).g) s <;> rfl

/-- What an issue can come to: a trap of the checks, a failed guard, the first half of an untimed owner's cost-2 instruction, or
the instruction's own effect. -/
theorem issueWith_cases {s t : State} {i : Instr} {cost : Nat} {k : Ctx → State → Eff} (h : issueWith i cost k s = .next t) :
    ∃ cur c, s.cur = some cur ∧ ctxAt s cur = some c ∧
      ((∃ tr, issueError c i = some tr ∧ t = s.trapped c tr) ∨
       t = s.issued (c.guarded (fieldsOf i).g) i cost none [] true none ∨
       t = s.firstHalf cur ∨
       (∃ c', issuing s i cost = some c' ∧ effOutcome i cost c' s (k c' s) = .next t)) := by
  have h0 := h
  unfold issueWith at h
  split at h
  · simp at h
  · rename_i cur hcur
    split at h
    · simp at h
    · rename_i c hctx
      refine ⟨cur, c, hcur, hctx, ?_⟩
      split at h
      · rename_i tr herr
        exact .inl ⟨tr, herr, (Host.Outcome.next.inj h).symm⟩
      · rename_i herr
        dsimp only at h
        split at h
        · exact .inr (.inr (.inl (Host.Outcome.next.inj h).symm))
        · rename_i hh
          split at h
          · exact .inr (.inl (Host.Outcome.next.inj h).symm)
          · rename_i hg
            have hi : issuing s i cost = some (c.guarded (fieldsOf i).g) := by
              simp only [issuing, hcur, hctx, herr, Option.bind_some, Option.isSome_none, Bool.false_eq_true, if_false, if_neg hh,
                if_neg hg]
            exact .inr (.inr (.inr ⟨_, hi, (issueWith_issuing k hi).symm.trans h0⟩))

/-- An issue goes on whenever a stream stands at an instruction. -/
theorem issueWith_next {s : State} {cur : Cur} {c : Ctx} (i : Instr) (cost : Nat) (k : Ctx → State → Eff)
    (hcur : s.cur = some cur) (hctx : ctxAt s cur = some c) : ∃ t, issueWith i cost k s = .next t := by
  simp only [issueWith, hcur, hctx]
  split
  · exact ⟨_, rfl⟩
  · split
    · exact ⟨_, rfl⟩
    · split
      · exact ⟨_, rfl⟩
      · cases k (c.guarded (fieldsOf i).g) s <;> exact ⟨_, rfl⟩

/-- An instruction that only computes, when it has its own effect. -/
theorem issueLanes_issuing {s : State} {i : Instr} {cost : Nat} {c : Ctx} (lat : Nat) (d : Dst) (f : Ctx → Nat → List Word)
    (h : issuing s i cost = some c) : issueLanes i cost lat d f s =
      .next (s.issued c i cost (some lat) (c.lanes.flatMap fun l => dstOuts d l (f c l)) false none) :=
  issueWith_issuing _ h

end Sys2Proof.Machine
end

