-- ==== Sys2Proof/Laws/PerInstr.lean ====
section
/-!
SUPPORT. A statement for every instruction: the first word of its encoding says, in LEN, how many words it has (R57), and a row that is
no instruction has none.
-/

namespace Sys2Proof.Laws

set_option Elab.async false

/-- LEN of a word is its lowest two bits (R57). -/
theorem lenWords_ofNat (n : Nat) :
    lenWords (BitVec.ofNat 32 n) = if n % 4 = 0 then 1 else if n % 4 = 1 then 2 else if n % 4 = 2 then 3 else 5 := by
  have : field (BitVec.ofNat 32 n) 1 0 = n % 4 := by simp [field]
  unfold lenWords; rw [this]
  have : n % 4 = 0 ∨ n % 4 = 1 ∨ n % 4 = 2 ∨ n % 4 = 3 := by omega
  rcases this with h | h | h | h <;> simp [h]

/-- The encoding's first word says how many words it has; a row without an encoding has none. -/
def EncodedLength.Statement (i : Instr) : Prop :=
  (i.coded = true → lenWords ((encode i).headD 0) = i.words) ∧ (i.coded = false → i.words = 0)

theorem EncodedLength.of_none {i : Instr} (h : i.enc = .none) : Statement i := by
  simp [Statement, Instr.coded, Instr.words, encode, h]

theorem EncodedLength.of_word {i : Instr} {n : Nat} (h : i.enc = .word (BitVec.ofNat 32 n)) (hn : n % 4 = 0) : Statement i := by
  have := lenWords_ofNat n
  simp_all [Statement, Instr.coded, Instr.words, encode]

theorem EncodedLength.of_wordLit {i : Instr} {n : Nat} {l : Word} (h : i.enc = .wordLit (BitVec.ofNat 32 n) l) (hn : n % 4 = 1) : Statement i := by
  have := lenWords_ofNat n
  simp_all [Statement, Instr.coded, Instr.words, encode]

theorem EncodedLength.lenWords_base (op d a b : Nat) (lit : Bool) : lenWords (baseWord op d a b lit) = 1 + lit.toNat := by
  cases lit
  · rw [baseWord, lenWords_ofNat, if_pos (by simp; omega)]; rfl
  · rw [baseWord, lenWords_ofNat, if_neg (by simp; omega), if_pos (by simp; omega)]; rfl

theorem EncodedLength.of_base {i : Instr} {op : Nat} {o : BOps} (h : i.enc = .base op o) : Statement i := by
  cases hl : litOf [o.a, o.b] <;> simp [Statement, Instr.coded, Instr.words, encode, h, hl, withLit, lenWords_base]

theorem EncodedLength.of_send {i : Instr} {m : SendMode} {a : Src} (h : i.enc = .send m a) : Statement i := by
  cases hl : litOf [a] <;> simp [Statement, Instr.coded, Instr.words, encode, h, hl, withLit, lenWords_base]

theorem EncodedLength.of_brc {i : Instr} {c : Cond} {a : Src} {o : Word} (h : i.enc = .brc c a o) : Statement i := by
  simp [Statement, Instr.coded, Instr.words, encode, h, lenWords_base]

theorem EncodedLength.of_ext {i : Instr} {op fn ty : Nat} {mod : Word} {x : XOps} (h : i.enc = .ext op fn ty mod x) : Statement i := by
  cases hl : litOf [x.a, x.b, x.c]
  · simp only [Statement, Instr.coded, Instr.words, encode, h, hl]
    rw [List.headD_cons, lenWords_ofNat, if_neg (by simp; omega), if_neg (by simp; omega), if_pos (by simp; omega)]
    simp
  · simp only [Statement, Instr.coded, Instr.words, encode, h, hl]
    rw [List.headD_cons, lenWords_ofNat, if_neg (by simp; omega), if_neg (by simp; omega), if_neg (by simp; omega)]
    simp

theorem EncodedLength.nop : Statement .nop := of_word (n := 0) rfl rfl
theorem EncodedLength.mov (o : BOps) : Statement (.mov o) := of_base rfl
theorem EncodedLength.movLit (o : BOps) : Statement (.movLit o) := of_base rfl
theorem EncodedLength.add (o : BOps) : Statement (.add o) := of_base rfl
theorem EncodedLength.addLit (o : BOps) : Statement (.addLit o) := of_base rfl
theorem EncodedLength.sub (o : BOps) : Statement (.sub o) := of_base rfl
theorem EncodedLength.subLit (o : BOps) : Statement (.subLit o) := of_base rfl
theorem EncodedLength.mul (o : BOps) : Statement (.mul o) := of_base rfl
theorem EncodedLength.mulLit (o : BOps) : Statement (.mulLit o) := of_base rfl
theorem EncodedLength.mulhS32 (o : BOps) : Statement (.mulhS32 o) := of_base rfl
theorem EncodedLength.mulhS32Lit (o : BOps) : Statement (.mulhS32Lit o) := of_base rfl
theorem EncodedLength.mulhN32 (o : BOps) : Statement (.mulhN32 o) := of_base rfl
theorem EncodedLength.mulhN32Lit (o : BOps) : Statement (.mulhN32Lit o) := of_base rfl
theorem EncodedLength.minS32 (o : BOps) : Statement (.minS32 o) := of_base rfl
theorem EncodedLength.minS32Lit (o : BOps) : Statement (.minS32Lit o) := of_base rfl
theorem EncodedLength.minN32 (o : BOps) : Statement (.minN32 o) := of_base rfl
theorem EncodedLength.minN32Lit (o : BOps) : Statement (.minN32Lit o) := of_base rfl
theorem EncodedLength.maxS32 (o : BOps) : Statement (.maxS32 o) := of_base rfl
theorem EncodedLength.maxS32Lit (o : BOps) : Statement (.maxS32Lit o) := of_base rfl
theorem EncodedLength.maxN32 (o : BOps) : Statement (.maxN32 o) := of_base rfl
theorem EncodedLength.maxN32Lit (o : BOps) : Statement (.maxN32Lit o) := of_base rfl
theorem EncodedLength.abs (o : BOps) : Statement (.abs o) := of_base rfl
theorem EncodedLength.absLit (o : BOps) : Statement (.absLit o) := of_base rfl
theorem EncodedLength.and (o : BOps) : Statement (.and o) := of_base rfl
theorem EncodedLength.andLit (o : BOps) : Statement (.andLit o) := of_base rfl
theorem EncodedLength.or (o : BOps) : Statement (.or o) := of_base rfl
theorem EncodedLength.orLit (o : BOps) : Statement (.orLit o) := of_base rfl
theorem EncodedLength.xor (o : BOps) : Statement (.xor o) := of_base rfl
theorem EncodedLength.xorLit (o : BOps) : Statement (.xorLit o) := of_base rfl
theorem EncodedLength.andn (o : BOps) : Statement (.andn o) := of_base rfl
theorem EncodedLength.andnLit (o : BOps) : Statement (.andnLit o) := of_base rfl
theorem EncodedLength.shl (o : BOps) : Statement (.shl o) := of_base rfl
theorem EncodedLength.shlLit (o : BOps) : Statement (.shlLit o) := of_base rfl
theorem EncodedLength.shr (o : BOps) : Statement (.shr o) := of_base rfl
theorem EncodedLength.shrLit (o : BOps) : Statement (.shrLit o) := of_base rfl
theorem EncodedLength.sra (o : BOps) : Statement (.sra o) := of_base rfl
theorem EncodedLength.sraLit (o : BOps) : Statement (.sraLit o) := of_base rfl
theorem EncodedLength.rot (o : BOps) : Statement (.rot o) := of_base rfl
theorem EncodedLength.rotLit (o : BOps) : Statement (.rotLit o) := of_base rfl
theorem EncodedLength.popc (o : BOps) : Statement (.popc o) := of_base rfl
theorem EncodedLength.popcLit (o : BOps) : Statement (.popcLit o) := of_base rfl
theorem EncodedLength.clz (o : BOps) : Statement (.clz o) := of_base rfl
theorem EncodedLength.clzLit (o : BOps) : Statement (.clzLit o) := of_base rfl
theorem EncodedLength.brev (o : BOps) : Statement (.brev o) := of_base rfl
theorem EncodedLength.brevLit (o : BOps) : Statement (.brevLit o) := of_base rfl
theorem EncodedLength.prmb (o : BOps) : Statement (.prmb o) := of_base rfl
theorem EncodedLength.prmbLit (o : BOps) : Statement (.prmbLit o) := of_base rfl
theorem EncodedLength.fadd (o : BOps) : Statement (.fadd o) := of_base rfl
theorem EncodedLength.faddLit (o : BOps) : Statement (.faddLit o) := of_base rfl
theorem EncodedLength.fsub (o : BOps) : Statement (.fsub o) := of_base rfl
theorem EncodedLength.fsubLit (o : BOps) : Statement (.fsubLit o) := of_base rfl
theorem EncodedLength.fmul (o : BOps) : Statement (.fmul o) := of_base rfl
theorem EncodedLength.fmulLit (o : BOps) : Statement (.fmulLit o) := of_base rfl
theorem EncodedLength.fmin (o : BOps) : Statement (.fmin o) := of_base rfl
theorem EncodedLength.fminLit (o : BOps) : Statement (.fminLit o) := of_base rfl
theorem EncodedLength.fmax (o : BOps) : Statement (.fmax o) := of_base rfl
theorem EncodedLength.fmaxLit (o : BOps) : Statement (.fmaxLit o) := of_base rfl
theorem EncodedLength.addw (o : BOps) : Statement (.addw o) := of_base rfl
theorem EncodedLength.addwLit (o : BOps) : Statement (.addwLit o) := of_base rfl
theorem EncodedLength.mulwN32 (o : BOps) : Statement (.mulwN32 o) := of_base rfl
theorem EncodedLength.mulwN32Lit (o : BOps) : Statement (.mulwN32Lit o) := of_base rfl
theorem EncodedLength.mulwS32 (o : BOps) : Statement (.mulwS32 o) := of_base rfl
theorem EncodedLength.mulwS32Lit (o : BOps) : Statement (.mulwS32Lit o) := of_base rfl
theorem EncodedLength.ixrd (o : BOps) : Statement (.ixrd o) := of_base rfl
theorem EncodedLength.ixrdLit (o : BOps) : Statement (.ixrdLit o) := of_base rfl
theorem EncodedLength.ixwr (o : BOps) : Statement (.ixwr o) := of_base rfl
theorem EncodedLength.ixwrLit (o : BOps) : Statement (.ixwrLit o) := of_base rfl
theorem EncodedLength.bra (off : BitVec 21) : Statement (.bra off) := of_word rfl (by omega)
theorem EncodedLength.brc (cond : Cond) (a : Src) (off : Word) : Statement (.brc cond a off) := of_brc rfl
theorem EncodedLength.call (d : Dst) (off : Word) : Statement (.call d off) := of_wordLit rfl (by omega)
theorem EncodedLength.jmp (a : Src) : Statement (.jmp a) := of_base rfl
theorem EncodedLength.jmpLit (a : Src) : Statement (.jmpLit a) := of_base rfl
theorem EncodedLength.exit : Statement .exit := of_base rfl
theorem EncodedLength.vend : Statement .vend := of_base rfl
theorem EncodedLength.vlend : Statement .vlend := of_base rfl
theorem EncodedLength.vpop (d : Dst) : Statement (.vpop d) := of_base rfl
theorem EncodedLength.frecv (d : Dst) : Statement (.frecv d) := of_base rfl
theorem EncodedLength.yield : Statement .yield := of_base rfl
theorem EncodedLength.trap (code : BitVec 14) : Statement (.trap code) := of_word rfl (by omega)
theorem EncodedLength.rfree (a : Src) : Statement (.rfree a) := of_base rfl
theorem EncodedLength.rfreeLit (a : Src) : Statement (.rfreeLit a) := of_base rfl
theorem EncodedLength.vsend (mode : SendMode) (a : Src) : Statement (.vsend mode a) := of_send rfl
theorem EncodedLength.vsendLit (mode : SendMode) (a : Src) : Statement (.vsendLit mode a) := of_send rfl
theorem EncodedLength.cmp (x : XOps) (ty : Ty) (rel : Rel) : Statement (.cmp x ty rel) := of_ext rfl
theorem EncodedLength.sel (x : XOps) : Statement (.sel x) := of_ext rfl
theorem EncodedLength.mad (x : XOps) (ty : Ty) : Statement (.mad x ty) := of_ext rfl
theorem EncodedLength.div (x : XOps) (ty : Ty) : Statement (.div x ty) := of_ext rfl
theorem EncodedLength.bfx (x : XOps) (ty : Ty) : Statement (.bfx x ty) := of_ext rfl
theorem EncodedLength.bfi (x : XOps) : Statement (.bfi x) := of_ext rfl
theorem EncodedLength.ffma (x : XOps) (rm : RM) : Statement (.ffma x rm) := of_ext rfl
theorem EncodedLength.fcls (x : XOps) (ty : Ty) : Statement (.fcls x ty) := of_ext rfl
theorem EncodedLength.cvt (x : XOps) (ty sty : Ty) (sat : Bool) (rm : RM) : Statement (.cvt x ty sty sat rm) := of_ext rfl
theorem EncodedLength.frnd (x : XOps) (rm : RM) : Statement (.frnd x rm) := of_ext rfl
theorem EncodedLength.pfma (x : XOps) (ty : Ty) (rm : RM) : Statement (.pfma x ty rm) := of_ext rfl
theorem EncodedLength.ex2 (x : XOps) (gr : Grade) : Statement (.ex2 x gr) := of_ext rfl
theorem EncodedLength.lg2 (x : XOps) (gr : Grade) : Statement (.lg2 x gr) := of_ext rfl
theorem EncodedLength.rcp (x : XOps) (gr : Grade) : Statement (.rcp x gr) := of_ext rfl
theorem EncodedLength.rsq (x : XOps) (gr : Grade) : Statement (.rsq x gr) := of_ext rfl
theorem EncodedLength.sqt (x : XOps) (gr : Grade) : Statement (.sqt x gr) := of_ext rfl
theorem EncodedLength.sin (x : XOps) (gr : Grade) : Statement (.sin x gr) := of_ext rfl
theorem EncodedLength.cos (x : XOps) (gr : Grade) : Statement (.cos x gr) := of_ext rfl
theorem EncodedLength.tanh (x : XOps) (gr : Grade) : Statement (.tanh x gr) := of_ext rfl
theorem EncodedLength.sigm (x : XOps) (gr : Grade) : Statement (.sigm x gr) := of_ext rfl
theorem EncodedLength.erf (x : XOps) (gr : Grade) : Statement (.erf x gr) := of_ext rfl
theorem EncodedLength.nadd (x : XOps) (m : NarMod) : Statement (.nadd x m) := of_ext rfl
theorem EncodedLength.nsub (x : XOps) (m : NarMod) : Statement (.nsub x m) := of_ext rfl
theorem EncodedLength.nmul (x : XOps) (m : NarMod) : Statement (.nmul x m) := of_ext rfl
theorem EncodedLength.ndot (x : XOps) (m : NarMod) : Statement (.ndot x m) := of_ext rfl
theorem EncodedLength.nmin (x : XOps) (m : NarMod) : Statement (.nmin x m) := of_ext rfl
theorem EncodedLength.nmax (x : XOps) (m : NarMod) : Statement (.nmax x m) := of_ext rfl
theorem EncodedLength.npack (x : XOps) (m : NarMod) (q : Nat) : Statement (.npack x m q) := of_ext rfl
theorem EncodedLength.shfl (x : XOps) (mode : ShflMode) : Statement (.shfl x mode) := of_ext rfl
theorem EncodedLength.vote (x : XOps) (mode : VoteMode) : Statement (.vote x mode) := of_ext rfl
theorem EncodedLength.scan (x : XOps) (ty : Ty) (mode : RedMode) (excl : Bool) : Statement (.scan x ty mode excl) := of_ext rfl
theorem EncodedLength.lred (x : XOps) (ty : Ty) (mode : RedMode) : Statement (.lred x ty mode) := of_ext rfl
theorem EncodedLength.rnd (x : XOps) : Statement (.rnd x) := of_ext rfl
theorem EncodedLength.ld (x : XOps) (m : MemMod) : Statement (.ld x m) := of_ext rfl
theorem EncodedLength.st (x : XOps) (m : MemMod) : Statement (.st x m) := of_ext rfl
theorem EncodedLength.atom (x : XOps) (fn : AtomFn) (m : MemMod) : Statement (.atom x fn m) := of_ext rfl
theorem EncodedLength.feset (x : XOps) (m : MemMod) : Statement (.feset x m) := of_ext rfl
theorem EncodedLength.feget (x : XOps) (m : MemMod) : Statement (.feget x m) := of_ext rfl
theorem EncodedLength.waita (x : XOps) (m : MemMod) : Statement (.waita x m) := of_ext rfl
theorem EncodedLength.wake (x : XOps) (m : MemMod) : Statement (.wake x m) := of_ext rfl
theorem EncodedLength.xlat (x : XOps) : Statement (.xlat x) := of_ext rfl
theorem EncodedLength.xdrop (x : XOps) : Statement (.xdrop x) := of_ext rfl
theorem EncodedLength.fence (x : XOps) (m : MemMod) : Statement (.fence x m) := of_ext rfl
theorem EncodedLength.ldt (x : XOps) (size : Size) : Statement (.ldt x size) := of_ext rfl
theorem EncodedLength.stt (x : XOps) (size : Size) : Statement (.stt x size) := of_ext rfl
theorem EncodedLength.cpy (x : XOps) : Statement (.cpy x) := of_ext rfl
theorem EncodedLength.seal (x : XOps) : Statement (.seal x) := of_ext rfl
theorem EncodedLength.swait (x : XOps) : Statement (.swait x) := of_ext rfl
theorem EncodedLength.twany (x : XOps) : Statement (.twany x) := of_ext rfl
theorem EncodedLength.twall (x : XOps) : Statement (.twall x) := of_ext rfl
theorem EncodedLength.tfirst (x : XOps) : Statement (.tfirst x) := of_ext rfl
theorem EncodedLength.tclr (x : XOps) : Statement (.tclr x) := of_ext rfl
theorem EncodedLength.binit (x : XOps) : Statement (.binit x) := of_ext rfl
theorem EncodedLength.barv (x : XOps) : Statement (.barv x) := of_ext rfl
theorem EncodedLength.bwait (x : XOps) : Statement (.bwait x) := of_ext rfl
theorem EncodedLength.gsync (x : XOps) : Statement (.gsync x) := of_ext rfl
theorem EncodedLength.talloc (x : XOps) (level : TLevel) : Statement (.talloc x level) := of_ext rfl
theorem EncodedLength.tfree (x : XOps) : Statement (.tfree x) := of_ext rfl
theorem EncodedLength.tinfo (x : XOps) : Statement (.tinfo x) := of_ext rfl
theorem EncodedLength.mwld (x : XOps) (ty : Ty) (t : Bool) : Statement (.mwld x ty t) := of_ext rfl
theorem EncodedLength.mstr (x : XOps) (ty : Ty) (start reg : Bool) : Statement (.mstr x ty start reg) := of_ext rfl
theorem EncodedLength.mcon (x : XOps) (ty : Ty) (start : Bool) (kind : ConKind) (seglen : BitVec 8) : Statement (.mcon x ty start kind seglen) := of_ext rfl
theorem EncodedLength.mclose (x : XOps) : Statement (.mclose x) := of_ext rfl
theorem EncodedLength.mtile (x : XOps) : Statement (.mtile x) := of_ext rfl
theorem EncodedLength.mstat (x : XOps) : Statement (.mstat x) := of_ext rfl
theorem EncodedLength.cbld (x : XOps) : Statement (.cbld x) := of_ext rfl
theorem EncodedLength.launch (x : XOps) : Statement (.launch x) := of_ext rfl
theorem EncodedLength.join (x : XOps) : Statement (.join x) := of_ext rfl
theorem EncodedLength.cancel (x : XOps) (level : CLevel) : Statement (.cancel x level) := of_ext rfl
theorem EncodedLength.cntrd (x : XOps) (level : CLevel) : Statement (.cntrd x level) := of_ext rfl
theorem EncodedLength.wlput (x : XOps) : Statement (.wlput x) := of_ext rfl
theorem EncodedLength.wlget (x : XOps) : Statement (.wlget x) := of_ext rfl
theorem EncodedLength.lcsync (x : XOps) : Statement (.lcsync x) := of_ext rfl
theorem EncodedLength.caopen (x : XOps) : Statement (.caopen x) := of_ext rfl
theorem EncodedLength.caclose (x : XOps) : Statement (.caclose x) := of_ext rfl
theorem EncodedLength.caload (x : XOps) : Statement (.caload x) := of_ext rfl
theorem EncodedLength.calearn (x : XOps) : Statement (.calearn x) := of_ext rfl
theorem EncodedLength.cadec (x : XOps) : Statement (.cadec x) := of_ext rfl
theorem EncodedLength.caprop (x : XOps) : Statement (.caprop x) := of_ext rfl
theorem EncodedLength.caback (x : XOps) : Statement (.caback x) := of_ext rfl
theorem EncodedLength.caval (x : XOps) : Statement (.caval x) := of_ext rfl
theorem EncodedLength.catrail (x : XOps) : Statement (.catrail x) := of_ext rfl
theorem EncodedLength.cadel (x : XOps) : Statement (.cadel x) := of_ext rfl
theorem EncodedLength.srd (x : XOps) (index : BitVec 12) : Statement (.srd x index) := of_ext rfl
theorem EncodedLength.swr (x : XOps) (index : BitVec 12) : Statement (.swr x index) := of_ext rfl
theorem EncodedLength.eret (x : XOps) : Statement (.eret x) := of_ext rfl
theorem EncodedLength.eretDispose (x : XOps) : Statement (.eretDispose x) := of_ext rfl
theorem EncodedLength.ralloc (x : XOps) : Statement (.ralloc x) := of_ext rfl
theorem EncodedLength.hgate (x : XOps) : Statement (.hgate x) := of_ext rfl
theorem EncodedLength.intr (x : XOps) : Statement (.intr x) := of_ext rfl
theorem EncodedLength.frun (x : XOps) (mask : BitVec 8) (rel : Bool) : Statement (.frun x mask rel) := of_ext rfl
theorem EncodedLength.ftrip (x : XOps) (mask : BitVec 8) : Statement (.ftrip x mask) := of_ext rfl
theorem EncodedLength.fmask (x : XOps) (mask : BitVec 8) : Statement (.fmask x mask) := of_ext rfl
theorem EncodedLength.fval (x : XOps) (mask : BitVec 8) (rel : Bool) : Statement (.fval x mask rel) := of_ext rfl
theorem EncodedLength.regang (x : XOps) (mask : BitVec 8) : Statement (.regang x mask) := of_ext rfl
theorem EncodedLength.vloop (x : XOps) (ft : Bool) : Statement (.vloop x ft) := of_ext rfl
theorem EncodedLength.rotacWrite (p : Nat) (v : DWord) : Statement (.rotacWrite p v) := of_none rfl
theorem EncodedLength.rotafStage (v : DWord) : Statement (.rotafStage v) := of_none rfl
theorem EncodedLength.rotafCommit (v : DWord) : Statement (.rotafCommit v) := of_none rfl
theorem EncodedLength.correctedError : Statement .correctedError := of_none rfl
theorem EncodedLength.storageErrorKill (e : StorageErr) : Statement (.storageErrorKill e) := of_none rfl
theorem EncodedLength.errorCountPoll (banks : List BankCounts) (poisoned : List Nat) : Statement (.errorCountPoll banks poisoned) := of_none rfl
theorem EncodedLength.enqueue (asid q : Nat) (c : Command) : Statement (.enqueue asid q c) := of_none rfl
theorem EncodedLength.lcmapWrite (v : DWord) : Statement (.lcmapWrite v) := of_none rfl
theorem EncodedLength.lovfWrite (o : Nat) (v : DWord) : Statement (.lovfWrite o v) := of_none rfl
theorem EncodedLength.parkbaseWrite (o : Nat) (v : DWord) : Statement (.parkbaseWrite o v) := of_none rfl
theorem EncodedLength.qtimeoutWrite (o : Nat) (v : Word) : Statement (.qtimeoutWrite o v) := of_none rfl
theorem EncodedLength.jswapWrite (o : Nat) (v : Word) : Statement (.jswapWrite o v) := of_none rfl
theorem EncodedLength.intdropWrite : Statement .intdropWrite := of_none rfl
theorem EncodedLength.rfmCommand (bank o count : Nat) : Statement (.rfmCommand bank o count) := of_none rfl
theorem EncodedLength.refreshSkip (grp : Nat) (mask : DWord) : Statement (.refreshSkip grp mask) := of_none rfl
theorem EncodedLength.kwayrLinkRetrain (up : Bool) : Statement (.kwayrLinkRetrain up) := of_none rfl
theorem EncodedLength.remoteRequestReceive (p : Packet) : Statement (.remoteRequestReceive p) := of_none rfl
theorem EncodedLength.remoteReplyReceive (p : Packet) : Statement (.remoteReplyReceive p) := of_none rfl
theorem EncodedLength.nackReceive (p : Packet) : Statement (.nackReceive p) := of_none rfl
theorem EncodedLength.powerOn (r : BootReport) : Statement (.powerOn r) := of_none rfl
theorem EncodedLength.recoveryImageReceive (ok : Bool) : Statement (.recoveryImageReceive ok) := of_none rfl
theorem EncodedLength.coreRailOvercurrent (amps : Nat) : Statement (.coreRailOvercurrent amps) := of_none rfl
theorem EncodedLength.powerRecover (amps : Nat) : Statement (.powerRecover amps) := of_none rfl
theorem EncodedLength.transferResend (id : Nat) : Statement (.transferResend id) := of_none rfl
theorem EncodedLength.tailwaterWithholdEnd (amps : Nat) : Statement (.tailwaterWithholdEnd amps) := of_none rfl
theorem EncodedLength.coreCycle (p : Nat) : Statement (.coreCycle p) := of_none rfl
theorem EncodedLength.ownerFreezeEnd (o : Nat) : Statement (.ownerFreezeEnd o) := of_none rfl
theorem EncodedLength.resultWriteback (id : Nat) : Statement (.resultWriteback id) := of_none rfl
theorem EncodedLength.windowCommitPoint (o lc : Nat) : Statement (.windowCommitPoint o lc) := of_none rfl
theorem EncodedLength.flumeSendResume (s : StrandId) : Statement (.flumeSendResume s) := of_none rfl
theorem EncodedLength.sliceTakesRun (s : StrandId) (set : Nat) : Statement (.sliceTakesRun s set) := of_none rfl
theorem EncodedLength.sliceTakesMask (s : StrandId) (set : Nat) : Statement (.sliceTakesMask s set) := of_none rfl
theorem EncodedLength.sliceTakesRegang (s : StrandId) (set : Nat) : Statement (.sliceTakesRegang s set) := of_none rfl
theorem EncodedLength.sliceTakesEnd (s : StrandId) (set : Nat) : Statement (.sliceTakesEnd s set) := of_none rfl
theorem EncodedLength.vpopTakesVal (s : StrandId) (set : Nat) : Statement (.vpopTakesVal s set) := of_none rfl
theorem EncodedLength.vloopTakesTrip (s : StrandId) (set : Nat) : Statement (.vloopTakesTrip s set) := of_none rfl
theorem EncodedLength.returnQueueEntryArrive (s : StrandId) : Statement (.returnQueueEntryArrive s) := of_none rfl
theorem EncodedLength.vsendPushResume (s : StrandId) (set : Nat) : Statement (.vsendPushResume s set) := of_none rfl
theorem EncodedLength.frecvPop (s : StrandId) : Statement (.frecvPop s) := of_none rfl
theorem EncodedLength.returnQueueStarvation (s : StrandId) : Statement (.returnQueueStarvation s) := of_none rfl
theorem EncodedLength.flumeDeadlock (s : StrandId) : Statement (.flumeDeadlock s) := of_none rfl
theorem EncodedLength.strandEnd (s : StrandId) : Statement (.strandEnd s) := of_none rfl
theorem EncodedLength.rallocGrant (s : StrandId) : Statement (.rallocGrant s) := of_none rfl
theorem EncodedLength.rfreeQuietAct (s : StrandId) : Statement (.rfreeQuietAct s) := of_none rfl
theorem EncodedLength.strandSwapOut (o lc : Nat) : Statement (.strandSwapOut o lc) := of_none rfl
theorem EncodedLength.strandSwapOutEnd (s : StrandId) : Statement (.strandSwapOutEnd s) := of_none rfl
theorem EncodedLength.strandSwapIn (s : StrandId) : Statement (.strandSwapIn s) := of_none rfl
theorem EncodedLength.strandSwapInEnd (s : StrandId) : Statement (.strandSwapInEnd s) := of_none rfl
theorem EncodedLength.rotacTakesEffect (p : Nat) : Statement (.rotacTakesEffect p) := of_none rfl
theorem EncodedLength.rotafTableInForce : Statement .rotafTableInForce := of_none rfl
theorem EncodedLength.swapBegin (p : Nat) : Statement (.swapBegin p) := of_none rfl
theorem EncodedLength.swapQuietEnd (p : Nat) : Statement (.swapQuietEnd p) := of_none rfl
theorem EncodedLength.drainSlotArrival (id : Nat) : Statement (.drainSlotArrival id) := of_none rfl
theorem EncodedLength.swapSavePhase (p : Nat) : Statement (.swapSavePhase p) := of_none rfl
theorem EncodedLength.swapRestorePhase (p : Nat) : Statement (.swapRestorePhase p) := of_none rfl
theorem EncodedLength.swapRebind (p : Nat) : Statement (.swapRebind p) := of_none rfl
theorem EncodedLength.swapComplete (p : Nat) : Statement (.swapComplete p) := of_none rfl
theorem EncodedLength.tileDrainComplete (o lc tile : Nat) : Statement (.tileDrainComplete o lc tile) := of_none rfl
theorem EncodedLength.tallocPickGrant (s : StrandId) : Statement (.tallocPickGrant s) := of_none rfl
theorem EncodedLength.copyUnitLands (id : Nat) : Statement (.copyUnitLands id) := of_none rfl
theorem EncodedLength.copyPageGranted (id : Nat) : Statement (.copyPageGranted id) := of_none rfl
theorem EncodedLength.copyComplete (id : Nat) : Statement (.copyComplete id) := of_none rfl
theorem EncodedLength.matCommandStart (id : Nat) : Statement (.matCommandStart id) := of_none rfl
theorem EncodedLength.matCommandEnd (id : Nat) : Statement (.matCommandEnd id) := of_none rfl
theorem EncodedLength.twanyReturn (s : StrandId) : Statement (.twanyReturn s) := of_none rfl
theorem EncodedLength.twallReturn (s : StrandId) : Statement (.twallReturn s) := of_none rfl
theorem EncodedLength.swaitComplete (s : StrandId) : Statement (.swaitComplete s) := of_none rfl
theorem EncodedLength.bwaitRelease (s : StrandId) : Statement (.bwaitRelease s) := of_none rfl
theorem EncodedLength.gsyncComplete (g : Nat) : Statement (.gsyncComplete g) := of_none rfl
theorem EncodedLength.memoryAccessAct (id : Nat) : Statement (.memoryAccessAct id) := of_none rfl
theorem EncodedLength.feRetryAttempt (id lane : Nat) : Statement (.feRetryAttempt id lane) := of_none rfl
theorem EncodedLength.wokenRetry (id lane : Nat) : Statement (.wokenRetry id lane) := of_none rfl
theorem EncodedLength.waitaSpuriousReturn (id lane : Nat) : Statement (.waitaSpuriousReturn id lane) := of_none rfl
theorem EncodedLength.xlatAct (id : Nat) : Statement (.xlatAct id) := of_none rfl
theorem EncodedLength.clauseCommandStart (o k : Nat) : Statement (.clauseCommandStart o k) := of_none rfl
theorem EncodedLength.capropRound (o k : Nat) : Statement (.capropRound o k) := of_none rfl
theorem EncodedLength.caloadColumnWrite (o k : Nat) : Statement (.caloadColumnWrite o k) := of_none rfl
theorem EncodedLength.clauseCommandEnd (o k : Nat) : Statement (.clauseCommandEnd o k) := of_none rfl
theorem EncodedLength.launchAct (id : Nat) : Statement (.launchAct id) := of_none rfl
theorem EncodedLength.distributorStep (o : Nat) : Statement (.distributorStep o) := of_none rfl
theorem EncodedLength.overflowRecordRead (o : Nat) : Statement (.overflowRecordRead o) := of_none rfl
theorem EncodedLength.groupStrandsStart (g : Nat) : Statement (.groupStrandsStart g) := of_none rfl
theorem EncodedLength.joinObserveZero (s : StrandId) : Statement (.joinObserveZero s) := of_none rfl
theorem EncodedLength.joinSwapOut (s : StrandId) : Statement (.joinSwapOut s) := of_none rfl
theorem EncodedLength.joinSwapIn (s : StrandId) : Statement (.joinSwapIn s) := of_none rfl
theorem EncodedLength.cancelStrandStop (s : StrandId) : Statement (.cancelStrandStop s) := of_none rfl
theorem EncodedLength.cancelQtimeoutKill (s : StrandId) : Statement (.cancelQtimeoutKill s) := of_none rfl
theorem EncodedLength.wlputAct (id : Nat) : Statement (.wlputAct id) := of_none rfl
theorem EncodedLength.wlgetAttempt (id : Nat) : Statement (.wlgetAttempt id) := of_none rfl
theorem EncodedLength.strandedDetect (o comp : Nat) : Statement (.strandedDetect o comp) := of_none rfl
theorem EncodedLength.trapInPlaceEntry (s : StrandId) : Statement (.trapInPlaceEntry s) := of_none rfl
theorem EncodedLength.trapRecordStore (id : Nat) : Statement (.trapRecordStore id) := of_none rfl
theorem EncodedLength.watchdogTrap (s : StrandId) : Statement (.watchdogTrap s) := of_none rfl
theorem EncodedLength.preemptQuietEnd (o : Nat) : Statement (.preemptQuietEnd o) := of_none rfl
theorem EncodedLength.preemptDrainEnd (o : Nat) : Statement (.preemptDrainEnd o) := of_none rfl
theorem EncodedLength.preemptSaveEnd (o : Nat) : Statement (.preemptSaveEnd o) := of_none rfl
theorem EncodedLength.commandTake (o : Nat) : Statement (.commandTake o) := of_none rfl
theorem EncodedLength.hostLaunch (o : Nat) (c : Command) : Statement (.hostLaunch o c) := of_none rfl
theorem EncodedLength.hostOpen (o : Nat) (c : Command) : Statement (.hostOpen o c) := of_none rfl
theorem EncodedLength.hostClose (o : Nat) (c : Command) : Statement (.hostClose o c) := of_none rfl
theorem EncodedLength.hostCancel (o : Nat) (c : Command) : Statement (.hostCancel o c) := of_none rfl
theorem EncodedLength.ocreate (c : Command) : Statement (.ocreate c) := of_none rfl
theorem EncodedLength.oreset (c : Command) : Statement (.oreset c) := of_none rfl
theorem EncodedLength.odestroy (c : Command) : Statement (.odestroy c) := of_none rfl
theorem EncodedLength.load (c : Command) : Statement (.load c) := of_none rfl
theorem EncodedLength.preempt (c : Command) : Statement (.preempt c) := of_none rfl
theorem EncodedLength.restore (c : Command) : Statement (.restore c) := of_none rfl
theorem EncodedLength.swap (c : Command) : Statement (.swap c) := of_none rfl
theorem EncodedLength.pause (c : Command) : Statement (.pause c) := of_none rfl
theorem EncodedLength.resume (c : Command) : Statement (.resume c) := of_none rfl
theorem EncodedLength.rota (c : Command) : Statement (.rota c) := of_none rfl
theorem EncodedLength.resolve (c : Command) : Statement (.resolve c) := of_none rfl
theorem EncodedLength.unmap (c : Command) : Statement (.unmap c) := of_none rfl
theorem EncodedLength.stats (c : Command) : Statement (.stats c) := of_none rfl
theorem EncodedLength.clearboot (c : Command) : Statement (.clearboot c) := of_none rfl
theorem EncodedLength.intrRecordStore (id : Nat) : Statement (.intrRecordStore id) := of_none rfl
theorem EncodedLength.remoteTimeout (id : Nat) : Statement (.remoteTimeout id) := of_none rfl
theorem EncodedLength.powerFault : Statement .powerFault := of_none rfl

end Sys2Proof.Laws
end

