-- ==== Sys2Proof/Laws/Tables.lean ====
section
/-!
SUPPORT. Tables and memory: a write keeps the canonical form, a read after a write at the same number gives the value written, and
a write leaves every other number alone.
-/

namespace Sys2Proof.Machine

variable {α : Type} [DecidableEq α] {d : α}

/-- Every number of a table lies above `k`. -/
def Above (k : Nat) (t : Tbl α) : Prop := ∀ x ∈ t, k < x.1

theorem tblWf_cons {k : Nat} {v : α} {t : Tbl α} :
    tblWf d ((k, v) :: t) = true ↔ v ≠ d ∧ tblWf d t = true ∧ Above k t := by
  induction t generalizing k v with
  | nil => simp [tblWf, Above]
  | cons y t ih =>
    obtain ⟨j, w⟩ := y
    simp only [tblWf, Bool.and_eq_true, decide_eq_true_eq, bne_iff_ne, ne_eq]
    constructor
    · rintro ⟨⟨hkj, hv⟩, ht⟩
      refine ⟨hv, ht, fun x hx => ?_⟩
      rcases List.mem_cons.1 hx with rfl | hx
      · exact hkj
      · exact lt_trans hkj ((ih.1 ht).2.2 x hx)
    · rintro ⟨hv, ht, ha⟩
      exact ⟨⟨ha (j, w) (by simp), hv⟩, ht⟩

omit [DecidableEq α] in
theorem tblGet_above {k : Nat} {t : Tbl α} (h : Above k t) : tblGet d t k = d := by
  cases t with
  | nil => rfl
  | cons y t =>
    obtain ⟨j, w⟩ := y
    have hj : k < j := h (j, w) (by simp)
    simp [tblGet, Nat.ne_of_gt hj, hj]

/-- Numbers of a table after a write are old ones or the one written. -/
theorem tblSet_mem {t : Tbl α} {k : Nat} {v : α} {x : Nat × α} (h : x ∈ tblSet d t k v) : x ∈ t ∨ x.1 = k := by
  induction t with
  | nil =>
    simp only [tblSet] at h
    split at h <;> simp_all
  | cons y t ih =>
    obtain ⟨j, w⟩ := y
    simp only [tblSet] at h
    split at h
    · split at h
      · exact .inl (List.mem_cons_of_mem _ h)
      · rcases List.mem_cons.1 h with rfl | h
        · exact .inr rfl
        · exact .inl (List.mem_cons_of_mem _ h)
    · split at h
      · split at h
        · exact .inl h
        · rcases List.mem_cons.1 h with rfl | h
          · exact .inr rfl
          · exact .inl h
      · rcases List.mem_cons.1 h with rfl | h
        · exact .inl (by simp)
        · exact (ih h).imp (List.mem_cons_of_mem _) id

/-- A write keeps the canonical form. -/
theorem tblSet_wf {t : Tbl α} (k : Nat) (v : α) (h : tblWf d t = true) : tblWf d (tblSet d t k v) = true := by
  induction t with
  | nil =>
    simp only [tblSet]
    split <;> simp_all [tblWf]
  | cons y t ih =>
    obtain ⟨j, w⟩ := y
    obtain ⟨hw, ht, ha⟩ := tblWf_cons.1 h
    simp only [tblSet]
    split
    · rename_i hjk
      subst hjk
      split
      · exact ht
      · exact tblWf_cons.2 ⟨by assumption, ht, ha⟩
    · split
      · rename_i hkj
        split
        · exact h
        · refine tblWf_cons.2 ⟨by assumption, h, fun x hx => ?_⟩
          rcases List.mem_cons.1 hx with rfl | hx
          · exact hkj
          · exact lt_trans hkj (ha x hx)
      · refine tblWf_cons.2 ⟨hw, ih ht, fun x hx => ?_⟩
        rcases tblSet_mem hx with hx | hx
        · exact ha x hx
        · omega

/-- What a table holds after a write. -/
theorem tblGet_tblSet {t : Tbl α} (k i : Nat) (v : α) (h : tblWf d t = true) :
    tblGet d (tblSet d t k v) i = if i = k then v else tblGet d t i := by
  induction t with
  | nil =>
    simp only [tblSet]
    by_cases hv : v = d <;> by_cases hi : i = k <;> simp [tblGet, hv, hi, eq_comm (a := k)]
  | cons y t ih =>
    obtain ⟨j, w⟩ := y
    obtain ⟨hw, ht, ha⟩ := tblWf_cons.1 h
    have get (m : Nat) : tblGet d ((j, w) :: t) m = if j = m then w else if m < j then d else tblGet d t m := rfl
    simp only [tblSet]
    split
    · rename_i hjk
      subst hjk
      split
      · rename_i hv
        by_cases hi : i = j
        · subst hi; simp [tblGet_above ha, hv]
        · by_cases hlt : i < j
          · rw [get, if_neg hi, if_neg (Ne.symm hi), if_pos hlt]
            exact tblGet_above fun x hx => lt_trans hlt (ha x hx)
          · rw [get]; simp [hi, Ne.symm hi, hlt]
      · by_cases hi : i = j
        · subst hi; simp [tblGet]
        · simp [tblGet, hi, Ne.symm hi]
    · rename_i hjk
      split
      · rename_i hkj
        split
        · rename_i hv
          by_cases hi : i = k
          · subst hi; simp [tblGet, hjk, hkj, hv]
          · simp [hi]
        · by_cases hi : i = k
          · subst hi; simp [tblGet]
          · by_cases hlt : i < k
            · have h1 : i < j := by omega
              have h2 : j ≠ i := by omega
              simp [tblGet, hi, Ne.symm hi, hlt, h1, h2]
            · simp [tblGet, hi, Ne.symm hi, hlt]
      · rename_i hkj
        by_cases hi : i = k
        · subst hi
          simp [tblGet, hjk, hkj, ih ht]
        · simp [tblGet, ih ht, hi]

/-- Storing bytes keeps memory canonical. -/
theorem putCells_wf {m : List Host.Cell} (pa : Nat) (bs : List Byte) (h : memWf m) : memWf (putCells m pa bs) := by
  induction bs generalizing m pa with
  | nil => exact h
  | cons b bs ih => exact ih (pa + 1) (tblSet_wf pa b h)

/-- What memory holds after bytes are stored. -/
theorem putCells_get {m : List Host.Cell} (pa x : Nat) (bs : List Byte) (h : memWf m) :
    tblGet 0 (putCells m pa bs) x = if pa ≤ x ∧ x < pa + bs.length then bs.getD (x - pa) 0 else tblGet 0 m x := by
  induction bs generalizing m pa with
  | nil =>
    rw [if_neg (by simp)]
    rfl
  | cons b bs ih =>
    rw [putCells, ih (pa + 1) (tblSet_wf pa b h), tblGet_tblSet _ _ _ h]
    rcases lt_trichotomy x pa with hx | hx | hx
    · rw [if_neg (by omega), if_neg (by omega), if_neg (by omega)]
    · subst hx; simp
    · by_cases hr : x < pa + (bs.length + 1)
      · have e : x - pa = (x - (pa + 1)) + 1 := by omega
        rw [if_pos (by omega), if_pos (by simp; omega), e]; simp
      · rw [if_neg (by omega), if_neg (by omega), if_neg (by simp; omega)]

@[simp] theorem putBytes_memOk {s : State} (pa : Nat) (bs : List Byte) (h : s.memOk) : (s.putBytes pa bs).memOk :=
  ⟨putCells_wf pa bs h.1, h.2⟩

/-- A byte read after a store. -/
theorem putBytes_byte {s : State} (pa x : Nat) (bs : List Byte) (h : memWf s.mem) :
    (s.putBytes pa bs).byte x = if pa ≤ x ∧ x < pa + bs.length then bs.getD (x - pa) 0 else s.byte x :=
  putCells_get pa x bs h

/-- Memory at reset is canonical. -/
theorem reset_memOk : State.reset.memOk := ⟨rfl, rfl⟩

end Sys2Proof.Machine
end

