-- ==== Sys2Proof/Tests/Slice0.lean ====
section
/-!
SUPPORT. Tests: terms that are not well formed, words decoded, results of single steps, and a state and operands that meet the hypotheses
of every clause of the statements for the provers.
-/

namespace Sys2Proof.Tests

open Sys2Proof Sys2Proof.Machine

set_option Elab.async false
set_option maxRecDepth 16384
set_option exponentiation.threshold 2048

/-! ### Well-formedness: for each check, a term that it refuses -/

/-- Extended operands v1, v2, v3, v4. -/
def x1234 : XOps := ⟨0, .always, .reg 1, .reg 2, .reg 3, .reg 4⟩
/-- Extended operands v1, v2, v3. -/
def x123 : XOps := { x1234 with c := .zero }
/-- Extended operands v2, v4. -/
def x24 : XOps := ⟨0, .always, .reg 2, .reg 4, .zero, .zero⟩
/-- No extended operands. -/
def x0 : XOps := ⟨0, .always, .none, .zero, .zero, .zero⟩
/-- A plain memory map of 4 bytes. -/
def mem4 : MemMod := ⟨.strand, .rlx, .plain, 0, false, .b4, false, false⟩

/-- Well-formed terms beside which the refused ones stand. -/
theorem test_wellFormed_accepts : ([.add ⟨.reg 1, .reg 2, .reg 3⟩, .addLit ⟨.reg 1, .lit 5, .reg 3⟩, .addw ⟨.reg 2, .reg 4, .reg 6⟩,
    .addwLit ⟨.reg 2, .reg 4, .lit 0xFFFFFFFFFFFFFFFF⟩, .sel { x1234 with g := .on (.reg 7) true }, .sel { x1234 with c := .lit 0xFFFFFFFF },
    .vloop { x0 with a := .lit 4 } false, .nadd x123 ⟨16, true, true⟩, .npack x123 ⟨16, true, true⟩ 1, .eret x0, .eretDispose x1234,
    .mad x1234 .n32, .srd { x0 with d := .reg 2 } 0x010, .swr { x0 with a := .reg 2 } 0x010, .vsendLit .value (.lit 1), .brc .z (.reg 1) 4,
    .st { x1234 with d := .none } mem4, .mtile { x0 with a := .reg 8 }, .nop, .call .none 8] : List Instr).all WellFormed = true := by decide

/-- Base forms: D, A and B in their positions, one literal of its width, the row's own literal (R59, R63 to R65, R68). -/
theorem test_wellFormed_refuses_base : ([.addw ⟨.reg 1, .reg 2, .reg 4⟩, .addw ⟨.reg 2, .reg 3, .reg 4⟩, .addw ⟨.reg 2, .lane, .reg 4⟩,
    .mov ⟨.reg 1, .reg 2, .reg 3⟩, .ixwr ⟨.reg 1, .reg 2, .reg 3⟩, .addLit ⟨.reg 1, .lit 1, .lit 1⟩, .addLit ⟨.reg 1, .lit 0x100000000, .reg 2⟩,
    .addwLit ⟨.reg 2, .reg 4, .lit 0x80000000⟩, .add ⟨.reg 1, .lit 1, .reg 2⟩, .addLit ⟨.reg 1, .reg 1, .reg 2⟩, .vsend .any (.lit 1),
    .vsendLit .any (.reg 1), .vsendLit .any (.lit 0x100000000), .brc .z (.lit 0) 4, .jmp (.lit 4), .rfreeLit .zero] : List Instr).all
      (fun i => !WellFormed i) = true := by decide

/-- Extended forms: positions, guards, literals, TY, MOD and the fields that a term has wider than the encoding (R60, R63 to R67, R70 to R82). -/
theorem test_wellFormed_refuses_extended : ([.sel { x1234 with d := .reg 1, c := .lit 0x100000000 }, .div x1234 .s32,
    .div { x123 with d := .reg 1 } .s32, .xlat { x123 with a := .reg 3 }, .rnd { x123 with a := .reg 3 }, .bfx x1234 .s32,
    .st x1234 mem4, .mtile { x0 with a := .reg 2 }, .mtile { x0 with a := .lit 4 }, .mwld { x0 with a := .reg 3 } .bf16 false,
    .sel { x1234 with g := .on (.lit 1) false }, .sel { x1234 with g := .on .zero false }, .vloop { x0 with a := .reg 1, g := .on (.reg 1) false } false,
    .sel { x1234 with a := .lit 1, b := .lit 1 }, .mad x1234 .f32, .bfx x123 .f32, .ffma x1234 .sr, .cmp x123 .f16 .lt, .cmp x123 .s32 .un,
    .pfma x1234 .f32 .rne, .mwld { x0 with a := .reg 2 } .s32 false, .nadd x123 ⟨0, true, true⟩, .nadd x123 ⟨17, true, true⟩,
    .nadd x123 ⟨33, true, true⟩, .npack x123 ⟨8, true, true⟩ 0, .npack x123 ⟨8, true, true⟩ 36, .eret { x0 with c := .reg 1 },
    .eretDispose x123, .eret { x0 with a := .reg 1 }, .st { x1234 with d := .none } { mem4 with sx := true },
    .ld x123 { mem4 with order := .rel }, .ld x123 { mem4 with budget := 1 }, .ld x123 { mem4 with sx := true },
    .atom x1234 .add { mem4 with det := true }, .atom x1234 .fadd { mem4 with size := .b8 }, .atom x1234 .add { mem4 with size := .b1 },
    .feset { x1234 with d := .none } mem4, .fence x0 mem4, .mcon { x0 with b := .reg 2, c := .reg 3 } .bf16 false .seg 0,
    .mcon { x0 with b := .reg 2, c := .reg 3 } .bf16 false .id 1, .srd { x0 with d := .reg 2 } 0x009, .srd { x0 with d := .reg 2 } 0x001,
    .srd { x0 with d := .reg 1 } 0x000, .swr { x0 with a := .reg 2 } 0x009, .swr { x0 with a := .reg 2 } 0x000] : List Instr).all
      (fun i => !WellFormed i) = true := by decide

/-- A step of an engine is no instruction. -/
theorem test_wellFormed_refuses_steps : ([.coreCycle 0, .powerFault, .strandEnd ⟨0, 0, 0⟩, .correctedError] : List Instr).all
    (fun i => !WellFormed i) = true := by decide

/-! ### Decoding: words and the instructions they stand for, numbered as the opcode table numbers their bits -/

/-- Do the words decode to their instructions, and do the instructions encode to the words? -/
def decodesAll (l : List (Nat × Nat × Instr)) : Bool := l.all fun r =>
  decodeTableWord r.1 r.2.1 == some r.2.2 && WellFormed r.2.2 &&
  encode r.2.2 == (List.range (r.1 / 32)).map fun i => BitVec.ofNat 32 (r.2.1 >>> (32 * i))

/-- Words that the entries of spec/12 to spec/15 give as examples. -/
def decodeRows1 : List (Nat × Nat × Instr) := [
  (32, 0x3D81062C, .abs ⟨.reg 3, .reg 1, .zero⟩),
  (32, 0x3040874, .addw ⟨.reg 4, .reg 4, .reg 6⟩),
  (32, 0x788103C, .andn ⟨.reg 8, .reg 8, .reg 15⟩),
  (160, 0x2000000000000803DFB3C03F76B, .barv ⟨0, .always, .none, .reg 3, .lit 512, .zero⟩),
  (160, 0x4040000000000003DFB3C010713, .bfx ⟨0, .always, .reg 3, .reg 1, .lit 0x404, .zero⟩ .s32),
  (160, 0x120000000000000003DFB3C7BF76B, .binit ⟨0, .always, .none, .zero, .lit 73728, .zero⟩),
  (32, 0x3D810458, .brev ⟨.reg 2, .reg 1, .zero⟩),
  (160, 0x70000000001003DFB3DF83D6B, .bwait ⟨0, .always, .reg 30, .lit 7, .zero, .zero⟩),
  (96, 0x2003DFB3D8E1B7A, .cadec ⟨0, .always, .reg 13, .reg 14, .zero, .zero⟩),
  (96, 0x1003D853D82117A, .caload ⟨0, .always, .reg 8, .reg 2, .zero, .reg 5⟩),
  (160, 0x280000000101003DFB3DF80577, .cancel ⟨0, .always, .reg 2, .lit 40, .zero, .zero⟩ .graph),
  (160, 0x400000000002803DFB3DF8157B, .caprop ⟨0, .always, .reg 10, .lit 64, .zero, .zero⟩),
  (96, 0x3003DFB3D94F772, .cbld ⟨0, .always, .none, .reg 20, .zero, .zero⟩),
  (32, 0x3D810454, .clz ⟨.reg 2, .reg 1, .zero⟩),
  (96, 0x10043FB01011302, .cmp ⟨0, .on (.reg 7) true, .reg 9, .reg 1, .reg 2, .zero⟩ .s32 .lt),
  (160, 0x320000000001803DFB3DF81177, .cntrd ⟨0, .always, .reg 8, .lit 50, .zero, .zero⟩ .launch),
  (96, 0x3103DFB3D82072E, .cos ⟨0, .always, .reg 3, .reg 2, .zero, .zero⟩ .fast),
  (96, 0x3DFB3D90F762, .cpy ⟨0, .always, .none, .reg 16, .zero, .zero⟩),
  (96, 0x3DFB0101090E, .div ⟨0, .always, .reg 4, .reg 1, .reg 2, .zero⟩ .s32),
  (96, 0x1003DFB3DFBF77E, .eret ⟨0, .always, .none, .zero, .zero, .zero⟩),
  (96, 0x1003D840182037E, .eretDispose ⟨0, .always, .reg 1, .reg 2, .reg 3, .reg 4⟩),
  (96, 0x103DFB3D82072E, .ex2 ⟨0, .always, .reg 3, .reg 2, .zero, .zero⟩ .fast),
  (96, 0x104903DFB3D82072E, .erf ⟨0, .always, .reg 3, .reg 2, .zero, .zero⟩ .acc),
  (32, 0x3DFBF698, .exit)]

theorem test_decode_1 : decodesAll decodeRows1 = true := by decide

/-- Words that the entries of spec/12 to spec/15 give as examples. -/
def decodeRows2 : List (Nat × Nat × Instr) := [
  (64, 0x3FC000003C010661, .faddLit ⟨.reg 3, .reg 1, .lit 0x3FC00000⟩),
  (96, 0x183DFB3D82071E, .fcls ⟨0, .always, .reg 3, .reg 2, .zero, .zero⟩ .f16),
  (96, 0x4000B00803DFB0184134E, .feget ⟨0, .always, .reg 9, .reg 4, .reg 3, .zero⟩ ⟨.owner, .acq, .plain, 0, false, .b4, false, false⟩),
  (96, 0x400C000003D850184F74E, .feset ⟨0, .always, .none, .reg 4, .reg 3, .reg 5⟩ ⟨.strand, .rlx, .filling, 0, false, .b4, false, false⟩),
  (96, 0x100113D8301010B1A, .ffma ⟨2, .always, .reg 5, .reg 1, .reg 2, .reg 3⟩ .rz),
  (96, 0x101003DFB3D85F782, .fmask ⟨0, .always, .none, .reg 5, .zero, .zero⟩ 1),
  (32, 0x3DFB02A8, .frecv (.reg 1)),
  (96, 0x300103DFB3D820726, .frnd ⟨0, .always, .reg 3, .reg 2, .zero, .zero⟩ .rd),
  (160, 0x30000000100003DFB3DF8F783, .frun ⟨0, .always, .none, .lit 3, .zero, .zero⟩ 1 false),
  (96, 0x10300003DFB3D86F782, .frun ⟨0, .always, .none, .reg 6, .zero, .zero⟩ 3 true),
  (32, 0x1010664, .fsub ⟨.reg 3, .reg 1, .reg 2⟩),
  (96, 0x100803DFB3D87F782, .ftrip ⟨0, .always, .none, .reg 7, .zero, .zero⟩ 1),
  (96, 0x301803DFB3D80F782, .fval ⟨0, .always, .none, .reg 0, .zero, .zero⟩ 3 false),
  (96, 0x1803DFB3DFBF76A, .gsync ⟨0, .always, .none, .zero, .zero, .zero⟩),
  (96, 0x2003D860202037E, .hgate ⟨0, .always, .reg 1, .reg 2, .reg 4, .reg 6⟩),
  (32, 0x3D8F1280, .ixrd ⟨.reg 9, .reg 15, .zero⟩),
  (32, 0x40FF684, .ixwr ⟨.none, .reg 15, .reg 8⟩),
  (32, 0x3D94F694, .jmp (.reg 20)),
  (64, 0x1003DF8F695, .jmpLit (.lit 0x100)),
  (160, 0x280000000000803DFB3DF82377, .join ⟨0, .always, .reg 17, .lit 40, .zero, .zero⟩),
  (160, 0x400000000000003DFB3C04F777, .launch ⟨0, .always, .none, .reg 4, .lit 64, .zero⟩),
  (96, 0x3003DFB3DFBF776, .lcsync ⟨0, .always, .none, .zero, .zero, .zero⟩),
  (160, 0x40004000B00003DFB3C041143, .ld ⟨0, .always, .reg 8, .reg 4, .lit 4, .zero⟩ ⟨.owner, .acq, .plain, 0, false, .b4, false, false⟩),
  (96, 0x4000000003DFB0602135E, .ldt ⟨0, .always, .reg 9, .reg 2, .reg 12, .zero⟩ .b4)]

theorem test_decode_2 : decodesAll decodeRows2 = true := by decide

/-- Words that the entries of spec/12 to spec/15 give as examples. -/
def decodeRows3 : List (Nat × Nat × Instr) := [
  (96, 0x100903DFB3D82072E, .lg2 ⟨0, .always, .reg 3, .reg 2, .zero, .zero⟩ .acc),
  (96, 0x601903DFB3D820736, .lred ⟨0, .always, .reg 3, .reg 2, .zero, .zero⟩ .f32 .fadd),
  (96, 0x83D8301010D0A, .mad ⟨0, .always, .reg 6, .reg 1, .reg 2, .reg 3⟩ .n32),
  (160, 0x40000000001803DF81B34F773, .mclose ⟨0, .always, .none, .reg 52, .reg 54, .lit 4⟩),
  (160, 0x40000000101203DF8067BF773, .mcon ⟨0, .always, .none, .zero, .reg 12, .lit 4⟩ .bf16 true .id 0),
  (32, 0x101061C, .minS32 ⟨.reg 3, .reg 1, .reg 2⟩),
  (32, 0x3D8A2604, .mov ⟨.reg 19, .reg 10, .zero⟩),
  (96, 0x2803DFB3DFB1172, .mstat ⟨0, .always, .reg 8, .zero, .zero, .zero⟩),
  (96, 0xF03D8E060AF772, .mstr ⟨0, .always, .none, .reg 10, .reg 12, .reg 14⟩ .gb16 false false),
  (96, 0x2003DFB3D98F772, .mtile ⟨0, .always, .none, .reg 24, .zero, .zero⟩),
  (96, 0x703DFB3D8AF772, .mwld ⟨0, .always, .none, .reg 10, .zero, .zero⟩ .gb16 false),
  (96, 0x100203DFB3D8AF772, .mwld ⟨0, .always, .none, .reg 10, .zero, .zero⟩ .bf16 true),
  (96, 0x6400003DFB01010732, .nadd ⟨0, .always, .reg 3, .reg 1, .reg 2, .zero⟩ ⟨4, true, true⟩),
  (96, 0x2801803D8301010932, .ndot ⟨0, .always, .reg 4, .reg 1, .reg 2, .reg 3⟩ ⟨8, true, false⟩),
  (32, 0x0, .nop),
  (96, 0x46803003DFB01010732, .npack ⟨0, .always, .reg 3, .reg 1, .reg 2, .zero⟩ ⟨8, true, true⟩ 4),
  (96, 0x1000803DFB01010732, .nsub ⟨0, .always, .reg 3, .reg 1, .reg 2, .zero⟩ ⟨16, false, false⟩),
  (64, 0x80003C020C35, .orLit ⟨.reg 6, .reg 2, .lit 0x8000⟩),
  (96, 0x203D8301010B2A, .pfma ⟨0, .always, .reg 5, .reg 1, .reg 2, .reg 3⟩ .bf16 .rne),
  (32, 0x3D810450, .popc ⟨.reg 2, .reg 1, .zero⟩),
  (32, 0x101065C, .prmb ⟨.reg 3, .reg 1, .reg 2⟩),
  (160, 0x400000000001803DFB3DF8057F, .ralloc ⟨0, .always, .reg 2, .lit 64, .zero, .zero⟩),
  (96, 0x101103DFB3D82072E, .rcp ⟨0, .always, .reg 3, .reg 2, .zero, .zero⟩ .acc),
  (96, 0x302003DFB3DFBF782, .regang ⟨0, .always, .none, .zero, .zero, .zero⟩ 3)]

theorem test_decode_3 : decodesAll decodeRows3 = true := by decide

/-- Words that the entries of spec/12 to spec/15 give as examples. -/
def decodeRows4 : List (Nat × Nat × Instr) := [
  (64, 0x203DF8F6B5, .rfreeLit (.lit 32)),
  (96, 0x3DFB0304073A, .rnd ⟨0, .always, .reg 3, .reg 4, .reg 6, .zero⟩),
  (64, 0x83C01064D, .rotLit ⟨.reg 3, .reg 1, .lit 8⟩),
  (96, 0x1903DFB3D82072E, .rsq ⟨0, .always, .reg 3, .reg 2, .zero, .zero⟩ .fast),
  (96, 0x801003DFB3D820736, .scan ⟨0, .always, .reg 3, .reg 2, .zero, .zero⟩ .s32 .add true),
  (96, 0x3DFB3DFB1D66, .seal ⟨0, .always, .reg 14, .zero, .zero, .zero⟩),
  (96, 0x3D8901010706, .sel ⟨0, .always, .reg 3, .reg 1, .reg 2, .reg 9⟩),
  (160, 0x10000000300003DFB3C020737, .shfl ⟨0, .always, .reg 3, .reg 2, .lit 1, .zero⟩ .xor),
  (64, 0x102780A41, .shlLit ⟨.reg 5, .lit 1, .reg 4⟩),
  (64, 0x183C091245, .shrLit ⟨.reg 9, .reg 9, .lit 24⟩),
  (64, 0x43C010649, .sraLit ⟨.reg 3, .reg 1, .lit 4⟩),
  (96, 0x4000003DFB3DFB077E, .srd ⟨0, .always, .reg 3, .zero, .zero, .zero⟩ 0x040),
  (160, 0x40000400D300003D853C04F747, .st ⟨0, .always, .none, .reg 4, .lit 64, .reg 5⟩ ⟨.owner, .rel, .filling, 0, false, .b4, false, false⟩),
  (96, 0x4000000803D890602F75E, .stt ⟨0, .always, .none, .reg 2, .reg 12, .reg 9⟩ .b4),
  (32, 0x308120C, .sub ⟨.reg 9, .reg 8, .reg 6⟩),
  (96, 0x803DFB3D8EF766, .swait ⟨0, .always, .none, .reg 14, .zero, .zero⟩),
  (160, 0x3E80000002400803DFB3DF8F77F, .swr ⟨0, .always, .none, .lit 1000, .zero, .zero⟩ 0x024),
  (160, 0x10080090000000000003DFB3DF8016F, .talloc ⟨0, .always, .reg 0, .lit 0x01008009, .zero, .zero⟩ .core),
  (96, 0x103903DFB3D82072E, .tanh ⟨0, .always, .reg 3, .reg 2, .zero, .zero⟩ .acc),
  (96, 0x803DFB3D80F76E, .tfree ⟨0, .always, .none, .reg 0, .zero, .zero⟩),
  (96, 0x1003DFB3D80116E, .tinfo ⟨0, .always, .reg 8, .reg 0, .zero, .zero⟩),
  (32, 0x1A24F6B0, .trap 0x1234),
  (96, 0x803DFB3D820736, .vote ⟨0, .always, .reg 3, .reg 2, .zero, .zero⟩ .ballot),
  (32, 0x3DFB04A4, .vpop (.reg 2))]

theorem test_decode_4 : decodesAll decodeRows4 = true := by decide

/-- Words that the entries of spec/12 to spec/15 give as examples. -/
def decodeRows5 : List (Nat × Nat × Instr) := [
  (32, 0x1010638, .xor ⟨.reg 3, .reg 1, .reg 2⟩),
  (32, 0x3DFBF6AC, .yield)]

theorem test_decode_5 : decodesAll decodeRows5 = true := by decide

/-- Words written out field by field from R59, R60 and R68 to R82. -/
def decodeRows6 : List (Nat × Nat × Instr) := [
  (64, 0x89ABCDEF3DF8EE05, .movLit ⟨.reg 119, .lit 0x89ABCDEF, .zero⟩),
  (32, 0x3BF90A08, .add ⟨.reg 5, .lane, .reg 119⟩),
  (64, 0x89ABCDEF3C060A09, .addLit ⟨.reg 5, .reg 6, .lit 0x89ABCDEF⟩),
  (64, 0x89ABCDEF03780A0D, .subLit ⟨.reg 5, .lit 0x89ABCDEF, .reg 6⟩),
  (32, 0x3D060A10, .mul ⟨.reg 5, .reg 6, .slice⟩),
  (64, 0x89ABCDEF3C060A11, .mulLit ⟨.reg 5, .reg 6, .lit 0x89ABCDEF⟩),
  (32, 0x1820214, .mulhS32 ⟨.reg 1, .reg 2, .reg 3⟩),
  (64, 0x89ABCDEF01F80215, .mulhS32Lit ⟨.reg 1, .lit 0x89ABCDEF, .reg 3⟩),
  (32, 0x1820218, .mulhN32 ⟨.reg 1, .reg 2, .reg 3⟩),
  (64, 0x89ABCDEF3C020219, .mulhN32Lit ⟨.reg 1, .reg 2, .lit 0x89ABCDEF⟩),
  (64, 0x89ABCDEF3C02021D, .minS32Lit ⟨.reg 1, .reg 2, .lit 0x89ABCDEF⟩),
  (32, 0x1820220, .minN32 ⟨.reg 1, .reg 2, .reg 3⟩),
  (64, 0x89ABCDEF3C020221, .minN32Lit ⟨.reg 1, .reg 2, .lit 0x89ABCDEF⟩),
  (32, 0x1820224, .maxS32 ⟨.reg 1, .reg 2, .reg 3⟩),
  (64, 0x89ABCDEF3DF80225, .maxS32Lit ⟨.reg 1, .lit 0x89ABCDEF, .zero⟩),
  (32, 0x3EFC0228, .maxN32 ⟨.reg 1, .strand, .group⟩),
  (64, 0x89ABCDEF3C020229, .maxN32Lit ⟨.reg 1, .reg 2, .lit 0x89ABCDEF⟩),
  (64, 0x89ABCDEF3DF8022D, .absLit ⟨.reg 1, .lit 0x89ABCDEF, .zero⟩),
  (32, 0x1FE0230, .and ⟨.reg 1, .ocyc, .reg 3⟩),
  (64, 0x89ABCDEF3C020231, .andLit ⟨.reg 1, .reg 2, .lit 0x89ABCDEF⟩),
  (32, 0x182F634, .or ⟨.none, .reg 2, .reg 3⟩),
  (64, 0x89ABCDEF3C020239, .xorLit ⟨.reg 1, .reg 2, .lit 0x89ABCDEF⟩),
  (64, 0x89ABCDEF01F8023D, .andnLit ⟨.reg 1, .lit 0x89ABCDEF, .reg 3⟩),
  (32, 0x1820240, .shl ⟨.reg 1, .reg 2, .reg 3⟩)]

theorem test_decode_6 : decodesAll decodeRows6 = true := by decide

/-- Words written out field by field from R59, R60 and R68 to R82. -/
def decodeRows7 : List (Nat × Nat × Instr) := [
  (32, 0x1820244, .shr ⟨.reg 1, .reg 2, .reg 3⟩),
  (32, 0x1820248, .sra ⟨.reg 1, .reg 2, .reg 3⟩),
  (32, 0x182024C, .rot ⟨.reg 1, .reg 2, .reg 3⟩),
  (64, 0x89ABCDEF3DF80251, .popcLit ⟨.reg 1, .lit 0x89ABCDEF, .zero⟩),
  (64, 0x89ABCDEF3DF80255, .clzLit ⟨.reg 1, .lit 0x89ABCDEF, .zero⟩),
  (64, 0x89ABCDEF3DF80259, .brevLit ⟨.reg 1, .lit 0x89ABCDEF, .zero⟩),
  (64, 0x89ABCDEF3C02025D, .prmbLit ⟨.reg 1, .reg 2, .lit 0x89ABCDEF⟩),
  (32, 0x1820260, .fadd ⟨.reg 1, .reg 2, .reg 3⟩),
  (64, 0x89ABCDEF01F80265, .fsubLit ⟨.reg 1, .lit 0x89ABCDEF, .reg 3⟩),
  (32, 0x1820268, .fmul ⟨.reg 1, .reg 2, .reg 3⟩),
  (64, 0x89ABCDEF3C020269, .fmulLit ⟨.reg 1, .reg 2, .lit 0x89ABCDEF⟩),
  (32, 0x182026C, .fmin ⟨.reg 1, .reg 2, .reg 3⟩),
  (64, 0x89ABCDEF3C02026D, .fminLit ⟨.reg 1, .reg 2, .lit 0x89ABCDEF⟩),
  (32, 0x1820270, .fmax ⟨.reg 1, .reg 2, .reg 3⟩),
  (64, 0x89ABCDEF3C020271, .fmaxLit ⟨.reg 1, .reg 2, .lit 0x89ABCDEF⟩),
  (64, 0xFFFFFFFE3C060875, .addwLit ⟨.reg 4, .reg 6, .lit 0xFFFFFFFFFFFFFFFE⟩),
  (32, 0x1810878, .mulwN32 ⟨.reg 4, .reg 1, .reg 3⟩),
  (64, 0x89ABCDEF3C010879, .mulwN32Lit ⟨.reg 4, .reg 1, .lit 0x89ABCDEF⟩),
  (32, 0x181087C, .mulwS32 ⟨.reg 4, .reg 1, .reg 3⟩),
  (64, 0x89ABCDEF01F8EC7D, .mulwS32Lit ⟨.reg 118, .lit 0x89ABCDEF, .reg 3⟩),
  (64, 0x773DF80281, .ixrdLit ⟨.reg 1, .lit 0x77, .zero⟩),
  (64, 0x89ABCDEF3C0FF685, .ixwrLit ⟨.none, .reg 15, .lit 0x89ABCDEF⟩),
  (32, 0x3FFFFE88, .bra 0x1FFFFF),
  (64, 0xFFFFFFF03C070A8D, .brc .even (.reg 7) 0xFFFFFFF0)]

theorem test_decode_7 : decodesAll decodeRows7 = true := by decide

/-- Words written out field by field from R59, R60 and R68 to R82. -/
def decodeRows8 : List (Nat × Nat × Instr) := [
  (64, 0x403C7B2891, .call (.reg 20) 0x40),
  (32, 0x3DFBF69C, .vend),
  (32, 0x3DFBF6A0, .vlend),
  (32, 0x3D89F6B4, .rfree (.reg 9)),
  (32, 0x3D8908B8, .vsend .count (.reg 9)),
  (64, 0x553DF802B9, .vsendLit .ballot (.lit 0x55)),
  (96, 0x3D8401820316, .bfi ⟨0, .always, .reg 1, .reg 2, .reg 3, .reg 4⟩),
  (96, 0x2C00283DFB01820322, .cvt ⟨0, .always, .reg 1, .reg 2, .reg 3, .zero⟩ .e4m3 .f32 true .sr),
  (96, 0xC2006F82FB3D840522, .cvt ⟨15, .on (.reg 5) false, .reg 2, .reg 4, .zero, .zero⟩ .n64 .s64 false .ru),
  (96, 0x102103DFB3D82032E, .sqt ⟨0, .always, .reg 1, .reg 2, .zero, .zero⟩ .acc),
  (96, 0x2903DFB3D82032E, .sin ⟨0, .always, .reg 1, .reg 2, .zero, .zero⟩ .fast),
  (96, 0x4103DFB3D82032E, .sigm ⟨0, .always, .reg 1, .reg 2, .zero, .zero⟩ .fast),
  (96, 0x4101003DFB01820332, .nmul ⟨0, .always, .reg 1, .reg 2, .reg 3, .zero⟩ ⟨1, false, true⟩),
  (96, 0x2902003DFB01820332, .nmin ⟨0, .always, .reg 1, .reg 2, .reg 3, .zero⟩ ⟨9, true, false⟩),
  (96, 0x1002803DFB01820332, .nmax ⟨0, .always, .reg 1, .reg 2, .reg 3, .zero⟩ ⟨16, false, false⟩),
  (96, 0x6001B04803D880304054A, .atom ⟨0, .always, .reg 2, .reg 4, .reg 6, .reg 8⟩ .cas ⟨.owner, .ar, .plain, 0, false, .b8, false, false⟩),
  (96, 0x24000405103D880304F74A, .atom ⟨0, .always, .none, .reg 4, .reg 6, .reg 8⟩ .fadd ⟨.system, .rlx, .plain, 0, false, .b4, false, true⟩),
  (96, 0x11C88100003DFB03040542, .ld ⟨0, .always, .reg 2, .reg 4, .reg 6, .zero⟩ ⟨.group, .rlx, .consuming, 200, true, .b1, true, false⟩),
  (96, 0x5030A00003D8803040552, .waita ⟨0, .always, .reg 2, .reg 4, .reg 6, .reg 8⟩ ⟨.core, .acq, .plain, 3, true, .b4, false, false⟩),
  (96, 0x4001300803D8803040552, .wake ⟨0, .always, .reg 2, .reg 4, .reg 6, .reg 8⟩ ⟨.owner, .rel, .plain, 0, false, .b4, false, false⟩),
  (160, 0x10000000000000003DFB3C040557, .xlat ⟨0, .always, .reg 2, .reg 4, .lit 0x1000, .zero⟩),
  (96, 0x803DFB3D84F756, .xdrop ⟨0, .always, .none, .reg 4, .zero, .zero⟩),
  (96, 0x1C00003DFB3DFBF75A, .fence ⟨0, .always, .none, .zero, .zero, .zero⟩ ⟨.system, .ar, .plain, 0, false, .b1, false, false⟩),
  (96, 0x1003DFB3D840566, .twany ⟨0, .always, .reg 2, .reg 4, .zero, .zero⟩)]

theorem test_decode_8 : decodesAll decodeRows8 = true := by decide

/-- Words written out field by field from R59, R60 and R68 to R82. -/
def decodeRows9 : List (Nat × Nat × Instr) := [
  (96, 0x1803DFB3D840566, .twall ⟨0, .always, .reg 2, .reg 4, .zero, .zero⟩),
  (96, 0x2003DFB3D840566, .tfirst ⟨0, .always, .reg 2, .reg 4, .zero, .zero⟩),
  (160, 0xFEDCBA98765432100000000002803DFB3DF8F767, .tclr ⟨0, .always, .none, .lit 0xFEDCBA9876543210, .zero, .zero⟩),
  (96, 0xFF0C01283D83067BF772, .mcon ⟨0, .always, .none, .zero, .reg 12, .reg 3⟩ .e4m3 false .seg 255),
  (96, 0x401183D830609F772, .mcon ⟨0, .always, .none, .reg 9, .reg 12, .reg 3⟩ .f16 false .perm 0),
  (96, 0x300983D8E060AF772, .mstr ⟨0, .always, .none, .reg 10, .reg 12, .reg 14⟩ .f16 true true),
  (96, 0x2003DFB01820376, .wlput ⟨0, .always, .reg 1, .reg 2, .reg 3, .zero⟩),
  (160, 0xA0000000002803DFB3C040577, .wlget ⟨0, .always, .reg 2, .reg 4, .lit 10, .zero⟩),
  (96, 0x3DFB0182037A, .caopen ⟨0, .always, .reg 1, .reg 2, .reg 3, .zero⟩),
  (96, 0x803DFB3DFBF77A, .caclose ⟨0, .always, .none, .zero, .zero, .zero⟩),
  (96, 0x1803DFB3D82037A, .calearn ⟨0, .always, .reg 1, .reg 2, .zero, .zero⟩),
  (96, 0x3003DFB3D82037A, .caback ⟨0, .always, .reg 1, .reg 2, .zero, .zero⟩),
  (96, 0x3803DFB3D82037A, .caval ⟨0, .always, .reg 1, .reg 2, .zero, .zero⟩),
  (96, 0x4003DFB3D84057A, .catrail ⟨0, .always, .reg 2, .reg 4, .zero, .zero⟩),
  (96, 0x4803DFB3D82F77A, .cadel ⟨0, .always, .none, .reg 2, .zero, .zero⟩),
  (96, 0x10200803DFB3D84F77E, .swr ⟨0, .always, .none, .reg 4, .zero, .zero⟩ 0x102),
  (160, 0x70000000002803DFB01F8F77F, .intr ⟨0, .always, .none, .lit 7, .reg 3, .zero⟩),
  (96, 0x3DFB3D84F786, .vloop ⟨0, .always, .none, .reg 4, .zero, .zero⟩ false),
  (96, 0x100003DFB3DFBF786, .vloop ⟨0, .always, .none, .zero, .zero, .zero⟩ true)]

theorem test_decode_9 : decodesAll decodeRows9 = true := by decide

/-- Words that are no instruction, with the subcode they raise (R84): reserved opcodes and FN, LEN, operand codes, literals, TY, MOD, registers. -/
theorem test_decode_refuses : ([
    ([0xBC], 0x01), ([0x13E, 0, 0], 0x01), ([0x18A, 0, 0], 0x01), ([0x102, 0x04003DFB, 0], 0x02), ([0x3DFBF69A, 0, 0], 0x03),
    ([0x88 + 1, 0], 0x03), ([0x100], 0x03), ([0x0101FE08], 0x05), ([0x017F0208], 0x05), ([0x0101F208], 0x06), ([0x01010204], 0x07),
    ([0x3C780209, 1], 0x08), ([0x3C010208], 0x09), ([0x01010209, 1], 0x0A), ([0x3C010707, 0x00003D89, 0, 0, 1], 0x0B),
    ([0x03040A74], 0x0C), ([0x01011302, 0x00193DFB, 0], 0x0D), ([0x01010732, 0x00003DFB, 0], 0x0E), ([0x3DFB077E, 0x00003DFB, 9], 0x0F),
    ([0x3D84F77E, 0x00803DFB, 0], 0x10), ([0x3C010CBD - 0x30, 4], 0x11)] : List (List Word × Nat)).all (fun r =>
      match decode r.1 with
      | .error (.illegal sub _) => sub == r.2
      | _ => false) = true := by decide

/-! ### Witnesses: for every statement for the provers, states and operands that meet the hypotheses of each clause

`meets s i cost P`: in the state `s` the instruction `i` has its own effect, and `P` holds of what it sees. Rows of a list are the clauses of
the statement, in its order. -/

def meets (s : State) (i : Instr) (cost : Nat) (P : Ctx → State → Bool) : Bool := ((issuing s i cost).map fun c => P c s).getD false

/-- What `meets` says: the hypotheses of `Completes`, `Answers` and `Traps` hold together. -/
theorem meets_iff (s : State) (i : Instr) (cost : Nat) (P : Ctx → State → Bool) :
    meets s i cost P = true ↔ ∃ c, issuing s i cost = some c ∧ P c s = true := by
  unfold meets; cases issuing s i cost <;> simp

/-- No condition but that the instruction has its own effect. -/
def ok (_ : Ctx) (_ : State) : Bool := true

/-- The strand of the tests. -/
def me : StrandId := ⟨0, 0, 0⟩
/-- Its control stream. -/
def mine : Cur := ⟨me, none⟩
/-- A resident strand of owner 0 whose control stream issues, in owner cycle 8. -/
def ctl : State := { (State.reset.atInstr false).modLcore 0 0 fun l => { l with ocyc := 8 } with cur := some mine }
/-- The same strand with a gang set of eight slices whose block issues. -/
def vec : State := { (State.reset.atInstr true).modLcore 0 0 fun l => { l with ocyc := 8 } with cur := some ⟨me, some 0⟩ }
def onStrand (s : State) (f : Strand → Strand) : State := s.modStrand me f
def onCore (s : State) (f : LCore → LCore) : State := s.modLcore 0 0 f
def onOwner (s : State) (f : Owner → Owner) : State := s.modOwner 0 f
def onGroup (s : State) (f : Group → Group) : State := s.modGroup 1 f
def onSet (s : State) (f : GSet → GSet) : State := s.modStrand me (·.modSet 0 f)
/-- Values in lane 0 of control registers. -/
def regs (s : State) (l : List (Nat × Word)) : State := s.modStrand me fun t => { t with cregs := tblSets 0 t.cregs (l.map fun r => (r.1 * 4, r.2)) }
/-- The instructions that issue in the control stream, and those that issue in a gang set, with their cost. -/
def issueIn (s : State) (l : List (Instr × Nat)) : Bool := l.all fun r => meets s r.1 r.2 ok

/-- Base operands with the highest register, and with a literal. -/
def o3 : BOps := ⟨.reg 119, .reg 0, .reg 119⟩
def ol : BOps := ⟨.reg 119, .lit 0xFFFFFFFF, .zero⟩
/-- The same in register pairs. -/
def p3 : BOps := ⟨.reg 118, .reg 2, .reg 118⟩
def pl : BOps := ⟨.reg 118, .lit 0xFFFFFFFFFFFFFFFF, .zero⟩
/-- Extended operands with a guard that holds. -/
def xg : XOps := ⟨15, .on .zero true, .reg 118, .reg 2, .reg 4, .reg 6⟩

def integerForms : List (Instr × Nat) := [
  (.mov o3, 1), (.movLit ol, 1), (.add o3, 1), (.addLit ol, 1), (.sub o3, 1), (.subLit ol, 1), (.mul o3, 1), (.mulLit ol, 1),
  (.mulhS32 o3, 1), (.mulhS32Lit ol, 1), (.mulhN32 o3, 1), (.mulhN32Lit ol, 1), (.minS32 o3, 1), (.minS32Lit ol, 1), (.minN32 o3, 1),
  (.minN32Lit ol, 1), (.maxS32 o3, 1), (.maxS32Lit ol, 1), (.maxN32 o3, 1), (.maxN32Lit ol, 1), (.abs o3, 1), (.absLit ol, 1),
  (.and o3, 1), (.andLit ol, 1), (.or o3, 1), (.orLit ol, 1), (.xor o3, 1), (.xorLit ol, 1), (.andn o3, 1), (.andnLit ol, 1)]

theorem witness_IntegerOperationsComplete : issueIn ctl integerForms = true ∧ issueIn vec integerForms = true := by decide

def shiftForms : List (Instr × Nat) := [(.shl o3, 1), (.shlLit ol, 1), (.shr o3, 1), (.shrLit ol, 1), (.sra o3, 1), (.sraLit ol, 1),
  (.rot o3, 1), (.rotLit ol, 1), (.popc o3, 1), (.popcLit ol, 1), (.clz o3, 1), (.clzLit ol, 1), (.brev o3, 1), (.brevLit ol, 1),
  (.prmb o3, 1), (.prmbLit ol, 1)]

theorem witness_ShiftsAndBitOperationsComplete : issueIn ctl shiftForms = true ∧ issueIn vec shiftForms = true ∧
    (1 : Word) ≠ 0 ∧ (leadingZeros 1).toNat = 31 ∧ (leadingZeros 0xFFFFFFFF).toNat = 0 := by decide

def floatForms : List (Instr × Nat) := [(.fadd o3, 1), (.faddLit ol, 1), (.fsub o3, 1), (.fsubLit ol, 1), (.fmul o3, 1), (.fmulLit ol, 1),
  (.fmin o3, 1), (.fminLit ol, 1), (.fmax o3, 1), (.fmaxLit ol, 1), (.ffma xg .rz, 1), (.frnd xg .rd, 1), (.fcls xg .bf16, 1),
  (.pfma xg .f16 .rne, 1), (.cvt xg .s64 .f32 true .ru, 1), (.cvt xg .f32 .n64 false .sr, 1)]

theorem witness_FloatOperationsComplete : issueIn ctl floatForms = true ∧ issueIn vec floatForms = true := by decide

theorem witness_NaNOperandsGiveTheCanonicalNaN : (f32 0x7F800001).isNan = true ∧ (f32 0xFFFFFFFF).isNan = true ∧
    (f32 0x7F800000).isNan = false ∧ (f32 0).isNan = false := by decide

/-- Indexed moves that name the last register, and one beyond it in the first active lane and in a later one. -/
theorem witness_PairAndIndexedOperationsComplete :
    issueIn ctl [(.addw p3, 1), (.addwLit pl, 1), (.mulwN32 p3, 1), (.mulwN32Lit pl, 1), (.mulwS32 p3, 1), (.mulwS32Lit pl, 1), (.div xg .s32, 1),
      (.div xg .n32, 1)] = true ∧
    ([.ixrd ⟨.reg 1, .lit 119, .zero⟩, .ixrdLit ⟨.reg 1, .lit 119, .zero⟩, .ixwr ⟨.none, .lit 119, .zero⟩, .ixwrLit ⟨.none, .lit 119, .zero⟩]
      : List Instr).all (fun i => meets vec i 1 fun c _ => c.lanes.all fun l => decide ((c.src (.lit 119) l).toNat < c.t.n)) = true ∧
    ([.ixrd ⟨.reg 1, .lit 120, .zero⟩, .ixrdLit ⟨.reg 1, .lit 120, .zero⟩, .ixwr ⟨.none, .lit 120, .zero⟩, .ixwrLit ⟨.none, .lit 120, .zero⟩]
      : List Instr).all (fun i => meets vec i 1 fun c _ => c.lanes.find? (fun k => decide (c.t.n ≤ (c.src (.lit 120) k).toNat)) == some 0) = true ∧
    meets (onStrand vec fun t => { t with n := 31 }) (.ixrd ⟨.reg 1, .lane, .zero⟩) 1
      (fun c _ => c.lanes.find? (fun k => decide (c.t.n ≤ (c.src .lane k).toNat)) == some 31) = true := by decide

theorem witness_DivisionQuotientAndRemainder : ∃ x y : Word, y ≠ 0 ∧ ¬ (x = 0x80000000 ∧ y = 0xFFFFFFFF) ∧ y = 0xFFFFFFFF :=
  ⟨0x80000001, 0xFFFFFFFF, by decide⟩

theorem witness_CompareSelectAndFieldOperationsComplete :
    issueIn ctl [(.cmp xg .s32 .lt, 1), (.cmp xg .n64 .ge, 1), (.cmp xg .f32 .un, 1), (.sel xg, 1), (.mad xg .n32, 1), (.bfx xg .s32, 1), (.bfi xg, 1)] =
      true ∧ issueIn vec [(.cmp xg .s64 .eq, 1), (.sel xg, 1), (.mad xg .s32, 1), (.bfx xg .n32, 1), (.bfi xg, 1)] = true := by decide

/-- Both grades; precisions 1, 8, 9 and 16, where the cost changes from 1 to 2 between 8 and 9. -/
theorem witness_SpecialAndNarrowOperationsComplete :
    (List.all [Grade.fast, .acc] fun g => issueIn ctl [(.ex2 xg g, 2), (.lg2 xg g, 2), (.rcp xg g, 2), (.rsq xg g, 2), (.sqt xg g, 2), (.sin xg g, 2),
      (.cos xg g, 2), (.tanh xg g, 2), (.sigm xg g, 2), (.erf xg g, 2)]) = true ∧
    (List.all [1, 8, 9, 16] fun p => let m : NarMod := ⟨p, true, false⟩
      issueIn vec ([.nadd xg m, .nsub xg m, .nmul xg m, .nmin xg m, .nmax xg m, .ndot xg m, .npack xg m 16].map fun i => (i, if p ≤ 8 then 1 else 2))) =
      true := by decide

theorem witness_CrossLaneOperationsComplete :
    (List.all [ShflMode.idx, .up, .down, .xor] fun m => issueIn vec [(.shfl xg m, 1)]) = true ∧
    (List.all [VoteMode.ballot, .any, .all, .count] fun m => issueIn vec [(.vote xg m, 1)]) = true ∧
    (List.all [RedMode.add, .min, .max, .and, .or, .xor, .fadd] fun m => issueIn vec [(.lred xg .s32 m, 1), (.scan xg .s32 m true, 1)]) = true ∧
    issueIn vec [(.rnd xg, 1)] = true := by decide

theorem witness_PlainStreamInstructionsComplete :
    issueIn ctl [(.nop, 1), (.lcsync x0, 1), (.fence x0 mem4, 1), (.yield, 1), (.trap 0x3FFF, 1)] = true := by decide

/-- The last word of owner 0's store, the first byte beyond it, and below address 0. -/
def branchRows : List Bool :=
  let here (n : Int) (c : Ctx) (s : State) : Bool := storeAddr s c.cur.strand n
  [meets ctl (.bra 0xFFFF) 1 (here 0x3FFFC), meets ctl (.bra 0x10000) 1 (fun c s => !here 0x40000 c s), meets ctl (.bra (-1)) 1 (fun c s => !here (-4) c s),
   meets ctl (.brc .z .zero 4) 1 (fun c s => condHolds .z (c.src .zero 0) && here 16 c s),
   meets ctl (.brc .z .zero 0x10000) 1 (fun c s => condHolds .z (c.src .zero 0) && !here 0x40000 c s),
   meets ctl (.brc .nz .zero 4) 1 (fun c _ => !condHolds .nz (c.src .zero 0)),
   meets ctl (.call (.reg 119) 4) 1 (here 16), meets ctl (.call .none (-1)) 1 (fun c s => !here (-4) c s)] ++
  ([.jmp (.reg 0), .jmpLit (.lit 0x3FFFC)] : List Instr).map (fun i => meets (regs ctl [(0, 0x3FFFC)]) i 1 fun c s =>
    (c.lane0 (if i = .jmp (.reg 0) then .reg 0 else .lit 0x3FFFC)).toNat % 4 == 0 && here 0x3FFFC c s) ++
  ([.jmp (.reg 0), .jmpLit (.lit 0x40000)] : List Instr).map (fun i => meets (regs ctl [(0, 0x40000)]) i 1 fun c s =>
    (c.lane0 (if i = .jmp (.reg 0) then .reg 0 else .lit 0x40000)).toNat % 4 == 0 && !here 0x40000 c s) ++
  ([.jmp (.reg 0), .jmpLit (.lit 6)] : List Instr).map fun i => meets (regs ctl [(0, 6)]) i 1 fun c _ =>
    (c.lane0 (if i = .jmp (.reg 0) then .reg 0 else .lit 6)).toNat % 4 != 0

theorem witness_BranchesGoToTheirTargets : branchRows.all id = true := by decide

/-- A token that every slice of the gang has still to take. -/
def tok (k : TokKind) (payload : Word) : Token := ⟨77, k, payload, List.range 8, List.range 8, 0, 0, .none⟩
/-- A flume of n tokens. -/
def flumeOf (n : Nat) (s : State) : State := onStrand s fun t => { t with flume := List.replicate n (tok .run 0) }

/-- Fifteen and sixteen tokens; the highest slice, no slice, a slice beyond the strand's seven. -/
def flumeRows : List Bool :=
  let forms (m : BitVec 8) : List Instr := [.frun xg m true, .ftrip xg m, .fmask xg m, .fval xg m false, .regang xg m]
  let inGang (m : BitVec 8) (c : Ctx) : Bool := m != 0 && (List.range 8).all fun k => !m.getLsbD k || decide (k < c.t.slices)
  ((forms 0x80).map fun i => meets (flumeOf 15 ctl) i 1 fun c _ => inGang 0x80 c && decide (c.t.flume.length < 16)) ++
  ((forms 0).map fun i => meets ctl i 1 fun _ _ => true) ++
  ((forms 0x80).map fun i => meets (onStrand ctl fun t => { t with slices := 7 }) i 1 fun c _ => (0x80 : BitVec 8).getLsbD 7 && decide (c.t.slices ≤ 7)) ++
  ((forms 0x80).map fun i => meets (flumeOf 16 ctl) i 1 fun c _ => inGang 0x80 c && decide (16 ≤ c.t.flume.length)) ++
  [meets (flumeOf 15 ctl) .exit 1 fun c _ => decide (c.t.flume.length < 16)]

theorem witness_FlumeInstructionsComplete : flumeRows.all id = true := by decide

/-- A loop whose last pass is next, and one with passes left. -/
def loopOf (n : Word) : Loop := ⟨n, 0, 0⟩
def inLoop (l : List Loop) : State := onSet vec fun g => { g with loops := l }
def gangOf (s : State) : GSet := ((s.strand? me).bind fun t => t.set? 0).getD ⟨[], .idle, stream0, [], 0, 0⟩

def blockEndRows : List Bool := [
  meets vec .vend 1 (fun c _ => c.set? == some (gangOf vec) && (gangOf vec).loops == []),
  meets (inLoop [loopOf 1]) .vend 1 (fun c _ => c.set? == some (gangOf (inLoop [loopOf 1])) && (gangOf (inLoop [loopOf 1])).loops != []),
  meets vec .vlend 1 (fun c _ => c.set? == some (gangOf vec) && (gangOf vec).loops == []),
  meets (inLoop [loopOf 1, loopOf 7]) .vlend 1 (fun c _ => c.set? == some (gangOf (inLoop [loopOf 1, loopOf 7]))),
  meets (inLoop [loopOf 2]) .vlend 1 (fun c _ => c.set? == some (gangOf (inLoop [loopOf 2]))),
  meets (inLoop [loopOf 0]) .vlend 1 (fun c _ => c.set? == some (gangOf (inLoop [loopOf 0])))]

theorem witness_BlockEndsComplete : blockEndRows.all id = true := by decide

/-- A VLEND word after the VLOOP's three, in a store that holds nothing else, and no such word; two and three open loops; a flume with and without
a token, with one of another kind, and with one for a single slice. -/
def loopRows : List Bool :=
  let code (s : State) : State := onOwner s fun w => { w with code := tblSets 0 w.code [(4, 0x3DFBF6A0)] }
  let flume (s : State) (k : TokKind) (v : Word) : State := onStrand s fun t => { t with flume := [tok k v] }
  let split (s : State) : State := onStrand s fun t => { t with flume := [{ tok .val 5 with left := [7] }] }
  let s2 := code (inLoop [loopOf 1, loopOf 1])
  let found (s : State) (c : Ctx) : Bool := c.set? == some (gangOf s) && decide ((gangOf s).loops.length < 3) &&
    findVlend s c.cur.strand.owner 256 0 (c.str.pc.toNat + 4 * 3) == some 16
  let x (v : Src) : XOps := { x0 with a := v }
  let next (c : Ctx) (s : State) (k : TokKind) (v : Word) : Bool := findToken c.t (gangOf s) c.now == .token (tok k v)
  [meets s2 (.vloop (x (.reg 3)) false) 1 (fun c s => found s c && (c.src (.reg 3) (c.all.headD 0)) == 0),
   meets (onStrand s2 fun t => { t with vregs := [(3 * 32, 0xFFFFFFFF)] }) (.vloop (x (.reg 3)) false) 1
     (fun c s => found s c && (c.src (.reg 3) (c.all.headD 0)) != 0),
   meets (flume s2 .trip 9) (.vloop (x .zero) true) 1 (fun c s => found s c && next c s .trip 9),
   meets (flume s2 .trip 0) (.vloop (x .zero) true) 1 (fun c s => found s c && next c s .trip 0),
   meets (flume s2 .val 9) (.vloop (x .zero) true) 1 (fun c s => found s c && next c s .val 9),
   meets (split s2) (.vloop (x .zero) true) 1 (fun c s => found s c && findToken c.t (gangOf s) c.now == .misuse),
   meets (inLoop [loopOf 1, loopOf 1]) (.vloop (x .zero) true) 1 (fun c s => c.set? == some (gangOf s) && decide ((gangOf s).loops.length < 3) &&
     findVlend s c.cur.strand.owner 256 0 (c.str.pc.toNat + 4 * 3) == none),
   meets (split vec) (.vpop (.reg 119)) 1 (fun c s => c.set? == some (gangOf s) && findToken c.t (gangOf s) c.now == .misuse &&
     (gangOf s).slices != []),
   meets s2 (.vloop (x .zero) true) 1 (fun c s => found s c && findToken c.t (gangOf s) c.now == .nothing),
   meets (inLoop [loopOf 1, loopOf 1, loopOf 1]) (.vloop (x .zero) true) 1 (fun c s => c.set? == some (gangOf s) && decide (3 ≤ (gangOf s).loops.length)),
   meets (flume vec .val 5) (.vpop (.reg 119)) 1 (fun c s => c.set? == some (gangOf s) && next c s .val 5),
   meets vec (.vpop (.reg 119)) 1 (fun c s => c.set? == some (gangOf s) && findToken c.t (gangOf s) c.now == .nothing),
   meets (flume vec .run 5) (.vpop (.reg 119)) 1 (fun c s => c.set? == some (gangOf s) && next c s .run 5)]

theorem witness_LoopsAndInBlockTokensComplete : loopRows.all id = true := by decide

/-- Seven and eight places taken; an entry that is there, one on its way, none. -/
def rqOf (n : Nat) (here : Bool) (s : State) : State := onStrand s fun t => { t with rq := List.replicate n ⟨9, 0, here, .none⟩ }

def returnQueueRows : List Bool :=
  (List.flatMap (fun m => [Instr.vsend m (.reg 1), .vsendLit m (.lit 1)]) [.value, .ballot, .any, .all, .count]).flatMap (fun i =>
    [meets (rqOf 7 true vec) i 1 (fun c _ => decide (c.t.rq.length < 8)), meets (rqOf 8 true vec) i 1 (fun c _ => decide (8 ≤ c.t.rq.length))]) ++
  [decide ((rqOf 1 false ctl).strands.any fun t => (t.rq.findIdx? fun e => !e.here && decide (e.enters ≤ (rqOf 1 false ctl).lcNow 0 0)) == some 0),
   meets (rqOf 2 true ctl) (.frecv (.reg 0)) 1 (fun c _ => decide ((c.t.rq.head?).map (·.here) = some true)),
   meets ctl (.frecv (.reg 0)) 1 (fun c _ => c.t.rq == []),
   meets (rqOf 1 false ctl) (.frecv (.reg 0)) 1 (fun c _ => decide ((c.t.rq.head?).map (·.here) = some false))]

theorem witness_ReturnQueueInstructionsComplete : returnQueueRows.all id = true := by decide

/-- A result of the control stream in flight: no quiet point. -/
def busy (s : State) : State := s.modStream mine fun x => { x with res := [⟨5, [1], false, 0, false⟩] }

/-- Counts 7, 8, 120 and 121; a strand of 64 registers, another that has waited longer, no quiet point. -/
def registerRows : List Bool :=
  let x (v : Src) : XOps := { x0 with d := .reg 1, a := v }
  let legal (c : Ctx) (v : Src) : Bool := decide (8 ≤ c.n0 v ∧ c.n0 v ≤ 120)
  let half := onStrand ctl fun t => { t with n := 64 }
  let older : State := { half with strands := half.strands ++ half.strands.map fun t => { t with
    id := ⟨0, 0, 1⟩, ctl := { t.ctl with wait := some ⟨.ralloc (x (.lit 120)), 0, [120], 0⟩ } } }
  let short (c : Ctx) (s : State) (v : Src) : Bool := s.olderWaiter c.t s.nextId ||
    decide (s.vectorFree c.t.id.owner c.t.id.lcore < c.t.slices * ((c.n0 v + 7) / 8 - (c.t.n + 7) / 8))
  ([Instr.rfree (.lit 8), .rfreeLit (.lit 8)].flatMap fun i =>
    [meets ctl i 1 (fun c s => decide (8 ≤ c.n0 (.lit 8)) && s.quietAt c.t none), meets (busy ctl) i 1 (fun c s => decide (8 ≤ c.n0 (.lit 8)) && !s.quietAt c.t none)]) ++
  ([Instr.rfree (.lit 7), .rfreeLit (.lit 7)].map fun i => meets ctl i 1 fun c _ => decide (c.n0 (.lit 7) < 8)) ++
  [meets ctl (.ralloc (x (.lit 8))) 1 (fun c s => legal c (.lit 8) && s.quietAt c.t (some s.nextId) && decide (c.n0 (.lit 8) ≤ c.t.n)),
   meets half (.ralloc (x (.lit 120))) 1 (fun c s => legal c (.lit 120) && s.quietAt c.t (some s.nextId) && decide (c.t.n < c.n0 (.lit 120)) &&
     !short c s (.lit 120)),
   meets (busy half) (.ralloc (x (.lit 120))) 1 (fun c s => legal c (.lit 120) && !s.quietAt c.t (some s.nextId)),
   meets older (.ralloc (x (.lit 120))) 1 (fun c s => legal c (.lit 120) && s.quietAt c.t (some s.nextId) && short c s (.lit 120)),
   meets ctl (.ralloc (x (.lit 7))) 1 (fun c _ => !legal c (.lit 7)), meets ctl (.ralloc (x (.lit 121))) 1 (fun c _ => !legal c (.lit 121))]

theorem witness_RegisterCountInstructionsComplete : registerRows.all id = true := by decide

/-- A handler strand at SUPER, inside and outside a handler, and another strand whose gang set waits for ERET. -/
def trapReturnRows : List Bool :=
  let sup := onStrand ctl fun t => { t with priv := 1 }
  let waiting : State := { sup with strands := sup.strands ++ sup.strands.map fun t => { t with
    id := ⟨0, 0, 1⟩, sets := t.sets.map fun g => { g with st := .block, str := { g.str with trap := some ⟨⟨0x07, 0, 0, 1⟩, .await, 0, 1⟩ } } } }
  let x (c : Src) : XOps := ⟨0, .always, .reg 1, .lit 0x5FE00, .zero, c⟩
  let there (c : Ctx) (s : State) : Bool := (awaiting s c.cur.strand.owner (c.lane0 (.lit 0x5FE00)) (c.lane0 .zero)).isSome
  [meets (onStrand sup fun t => { t with depth := 1 }) (.eret x0) 1 (fun c _ => decide (c.t.depth ≠ 0)), meets sup (.eret x0) 1 (fun c _ => c.t.depth == 0),
   meets sup (.eretDispose (x (.lit 1))) 1 (fun c s => !there c s)] ++
  [0, 1, 2, 3, 0xFFFFFFFF].map fun k => meets waiting (.eretDispose (x (.lit k))) 1 there

theorem witness_TrapReturnsComplete : trapReturnRows.all id = true := by decide

/-! The state of a group with one live window in slot 0 over `base` to `base + limit`, handle 0. -/

def pageOf (kind : Nat) : Page := ⟨kind, 1, 0x10000, 0x10000, true, false, false⟩
def window (base limit : Nat) (s : State) : State :=
  onGroup s fun g => { g with windows := [(0, ⟨0, true, none, base, limit, pageOf 1⟩)] }
def winOf (s : State) (h : Word) : Option WinSlot := windowOf s 1 8 h

/-- The memory instructions with their sizes. -/
def memForms (x : XOps) : List (Instr × Nat) := [(.ld x { mem4 with size := .b16 }, 16), (.ld x mem4, 4), (.st x { mem4 with size := .b2 }, 2), (.st x mem4, 4),
  (.atom x .cas { mem4 with size := .b8 }, 8), (.atom x .add mem4, 4), (.feset x { mem4 with fef := .filling }, 4), (.feget x mem4, 4),
  (.waita x mem4, 4), (.wake x mem4, 4)]

/-- The window's last bytes, at the top of the address space too; no active lane; a stale handle; a lane off by one byte; a lane that begins
where the address space ends. -/
def memoryRows : List Bool :=
  let x (h b : DWord) : XOps := ⟨0, .always, .reg 4, .lit h, .lit b, .reg 8⟩
  let fits (base limit b size : Nat) (c : Ctx) (s : State) : Bool := !c.lanes.isEmpty && (windowOf s c.t.grp c.now 0).isSome &&
    c.lanes.all fun l => decide ((base + (c.src (.lit (BitVec.ofNat 64 b)) l).toNat) % size = 0 ∧
      base + (c.src (.lit (BitVec.ofNat 64 b)) l).toNat + size ≤ 2 ^ 56 ∧
      base + (c.src (.lit (BitVec.ofNat 64 b)) l).toNat + size ≤ base + limit) && decide (s.accs = []) && !s.untimed c.cur.strand.owner
  let va (base : Nat) (b : DWord) (c : Ctx) (l : Nat) : Nat := base + (c.src (.lit b) l).toNat
  ((memForms (x 0 240)).map fun i => meets (window 0x10000 256 vec) i.1 1 (fits 0x10000 256 240 i.2)) ++
  ((memForms (x 0 0)).map fun i => meets (window (2 ^ 56 - 16) 16 ctl) i.1 1 (fits (2 ^ 56 - 16) 16 0 i.2)) ++
  ((memForms { x 0 0 with g := .on .zero false }).map fun i => meets vec i.1 1 fun c _ => c.lanes == []) ++
  ((memForms (x 1 0)).map fun i => meets (window 0x10000 256 vec) i.1 1 fun c s => !c.lanes.isEmpty && windowOf s c.t.grp c.now 1 == none) ++
  ((memForms (x 0 1)).map fun i => meets (window 0x10000 256 vec) i.1 1 fun c s => (windowOf s c.t.grp c.now 0).isSome &&
    c.lanes.find? (fun l => va 0x10000 1 c l % i.2 != 0) == some 0) ++
  ((memForms (x 0 16)).map fun i => meets (window (2 ^ 56 - 16) 16 vec) i.1 1 fun c s => (windowOf s c.t.grp c.now 0).isSome &&
    c.lanes.all (fun k => va (2 ^ 56 - 16) 16 c k % i.2 == 0) &&
    c.lanes.find? (fun l => decide (2 ^ 56 < va (2 ^ 56 - 16) 16 c l + i.2)) == some 0)

theorem witness_MemoryInstructionsEnterTheirAccess : memoryRows.all id = true := by decide

def windowRows : List Bool :=
  let x (a : DWord) : XOps := { x0 with d := .reg 1, a := .lit a, b := .lit 64 }
  [meets ctl (.xlat (x 0x00FFFFFFFFFFFFFC)) 1 (fun c _ => (c.pair0 (.lit 0x00FFFFFFFFFFFFFC)).toNat % 4 == 0 &&
     decide ((c.pair0 (.lit 0x00FFFFFFFFFFFFFC)).toNat < 2 ^ 56)),
   meets ctl (.xlat (x 2)) 1 (fun c _ => (c.pair0 (.lit 2)).toNat % 4 != 0),
   meets ctl (.xlat (x 0x0100000000000000)) 1 (fun c _ => (c.pair0 (.lit 0x0100000000000000)).toNat % 4 == 0 &&
     decide (2 ^ 56 ≤ (c.pair0 (.lit 0x0100000000000000)).toNat)),
   meets (window 0 64 ctl) (.xdrop (x 0)) 1 (fun c s => (windowOf s c.t.grp c.now (c.lane0 (.lit 0))).isSome),
   meets (window 0 64 ctl) (.xdrop (x 0x10)) 1 (fun c s => windowOf s c.t.grp c.now (c.lane0 (.lit 0x10)) == none)]

theorem witness_WindowInstructionsComplete : windowRows.all id = true := by decide

/-- Tile 0 of the strand's group, in a state, of generation 5: 9 rows of 8 elements of 4 bytes. -/
def tileOf (st : TileSt) (s : State) : State := onCore s fun l => l.setTile 0 ⟨st, 5, 1, 0, 0x01001008, 0, 0, [], []⟩
def coreOf (s : State) : LCore := (s.lcore? 0 0).getD (lcoreNew 0 0 0)

/-- A free entry, the entry asked for free, allocated and draining; a shape of no rows, a request of 14 bits; right and wrong handles. -/
def tileTableRows : List Bool :=
  let x (a b : DWord) : XOps := { x0 with d := .reg 2, a := .lit a, b := .lit b }
  let asks (a b : DWord) (c : Ctx) (s : State) : Option (Option Word) :=
    match s.lcore? c.cur.strand.owner c.cur.strand.lcore, s.owner? c.cur.strand.owner, s.group? c.t.grp with
    | some l, some w, some g => if shapeOk (c.lane0 (.lit a)) ∧ (c.lane0 (.lit b)).toNat < 2 ^ 13 then
        some ((tallocDecide l w.orec g.id g.quota 0 (c.lane0 (.lit a)) (c.lane0 (.lit b))).map (·.2)) else none
    | _, _, _ => none
  let rich (s : State) : State := onGroup s fun g => { g with quota := 4096 }
  let handle (own : Bool) (h : DWord) (c : Ctx) (s : State) : Option Nat := handleError (coreOf s) c.t.grp own (c.lane0 (.lit h))
  [meets (rich ctl) (.talloc (x 0x01001008 0) .core) 1 (fun c s => asks 0x01001008 0 c s == some (some 0x1000)),
   meets (rich ctl) (.talloc (x 0x01001008 0x1FFF) .core) 1 (fun c s => asks 0x01001008 0x1FFF c s == some (some 0x1FFF)),
   meets ctl (.talloc (x 0x01001008 0) .core) 1 (fun c s => asks 0x01001008 0 c s == some (some 0xFFFFFFFF)),
   meets (tileOf .allocated (rich ctl)) (.talloc (x 0x01001008 0x1000) .core) 1 (fun c s => asks 0x01001008 0x1000 c s == some (some 0xFFFFFFFF)),
   meets (tileOf .draining (rich ctl)) (.talloc (x 0x01001008 0x1000) .core) 1 (fun c s => asks 0x01001008 0x1000 c s == some none),
   meets ctl (.talloc (x 0x01001000 0) .core) 1 (fun c _ => !shapeOk (c.lane0 (.lit 0x01001000))),
   meets ctl (.talloc (x 0x01001008 0x2000) .core) 1 (fun c _ => decide (2 ^ 13 ≤ (c.lane0 (.lit 0x2000)).toNat)),
   meets (tileOf .allocated ctl) (.tfree (x 0x5000 0)) 1 (fun c s => handle false 0x5000 c s == none),
   meets (tileOf .draining ctl) (.tfree (x 0x5000 0)) 1 (fun c s => handle false 0x5000 c s == some 1),
   meets (tileOf .allocated ctl) (.tfree (x 0x6000 0)) 1 (fun c s => handle false 0x6000 c s == some 3),
   meets (tileOf .draining ctl) (.tinfo (x 0x5000 0)) 1 (fun c s => handle true 0x5000 c s == none),
   meets ctl (.tinfo (x 0x5000 0)) 1 (fun c s => handle true 0x5000 c s == some 1)]

theorem witness_TileTableInstructionsComplete : tileTableRows.all id = true := by decide

/-- A grant that uses the group's quota up, of the lowest free entry and of an entry asked for. -/
theorem witness_GrantedTileWasFreeAndFits : shapeOk 0x01001008 = true ∧ footprint 0x01001008 = 2048 ∧
    ([0, 0x1FFF] : List Word).all (fun r => ((tallocDecide (coreOf ctl) ownerZeroRec 1 2048 0 0x01001008 r).map fun p => p.2 != 0xFFFFFFFF) == some true) =
      true := by decide

/-- Lanes at their own offsets in row 0 and in the last row; the row beyond it, a byte off, and a DRAINING tile stop the first lane. -/
def tileLaneRows : List Bool :=
  let x (a : DWord) (b : Src) : XOps := ⟨0, .always, .reg 4, .lit a, b, .reg 8⟩
  let lanes (n : Nat) (a : DWord) (b : Src) (c : Ctx) (s : State) : Except (Nat × Nat × DWord) (List (Nat × Nat × Nat)) :=
    tileLanes (coreOf s) c.t.grp c.now n (descOf (c.pair0 (.lit a)).lo (c.pair0 (.lit a)).hi) (fun i => (c.src b i).toNat) c.lanes
  let fine (n : Nat) (a : DWord) (b : Src) (c : Ctx) (s : State) : Bool := match lanes n a b c s with | .ok xs => xs.length == 32 | .error _ => false
  let stops (e : Nat × Nat × DWord) (n : Nat) (a : DWord) (b : Src) (c : Ctx) (s : State) : Bool :=
    match lanes n a b c s with | .ok _ => false | .error q => q == e
  let s := tileOf .allocated vec
  (List.flatMap (fun (i : XOps → Size → Instr) => [
    meets s (i (x 0 .lane) .b1) 1 (fine 1 0 .lane), meets s (i (x 0x7000 (.lit 16)) .b16) 1 (fine 16 0x7000 (.lit 16)),
    meets s (i (x 0x8000 .lane) .b1) 1 (stops (0x0E, 4, 0) 1 0x8000 .lane), meets s (i (x 0 (.lit 2)) .b4) 1 (stops (0x06, 0, 2) 4 0 (.lit 2)),
    meets (tileOf .draining vec) (i (x 0 .lane) .b1) 1 (stops (0x0E, 2, 0) 1 0 .lane)]) [.ldt, .stt])

theorem witness_TileLaneAccessesComplete : tileLaneRows.all id = true := by decide

/-- A record of 1 row of 4 bytes, of the greatest count of bytes, and records with a reserved bit, kind 6, no bytes and no rows. -/
def copyRows : List Bool :=
  let s (w dim : Word) : State := window 0x10000 0x1000 (regs ctl [(112, w), (117, dim)])
  let x : XOps := { x0 with a := .reg 112 }
  let r (c : Ctx) (k : Nat) : Word := c.reg (112 + k) 0
  let e (c : Ctx) : Nat := 4 * field (r c 5) 31 16
  let rows (c : Ctx) : Nat := field (r c 5) 15 0
  let good (c : Ctx) (s : State) : Bool := (s.lcore? c.cur.strand.owner c.cur.strand.lcore).isSome &&
    decide (e c ≠ 0 ∧ rows c ≠ 0 ∧ rows c * e c ≤ 0xFFFFFFFC ∧ field (r c 0) 31 24 = 0 ∧ field (r c 0) 2 0 = 2 ∧ field (r c 0) 11 10 ≠ 3 ∧
      (r c 0).getLsbD 12 = false ∧ (r c 0).getLsbD 23 = false) && ((windowOf s c.t.grp c.now (r c 1)).map (·.page.kind)) == some 1 &&
      ((windowOf s c.t.grp c.now (r c 3)).map (·.page.kind)) == some 1 && [2, 4, 6, 7].all fun k => (r c k).toNat % 4 == 0
  [meets (s 2 0x00010001) (.cpy x) 1 good, meets (s 0x1FA 0x40003FFF) (.cpy x) 1 good,
   meets (s 0x01000002 0x00010001) (.cpy x) 1 (fun c _ => field (r c 0) 31 24 != 0), meets (s 6 0x00010001) (.cpy x) 1 (fun c _ => decide (5 < field (r c 0) 2 0)),
   meets (s 2 0x00000001) (.cpy x) 1 (fun c _ => e c == 0), meets (s 2 0x00010000) (.cpy x) 1 (fun c _ => rows c == 0)]

theorem witness_CopyInstructionsComplete : copyRows.all id = true := by decide

/-- Tag 63 with a set bit, with a copy in flight, and with neither; a sealed batch with and without a member in flight. -/
def copyOf (batch : Nat) : Copy :=
  { id := 50, strand := me, grp := 1, kind := 2, tag := 63, batch := some batch, bar := none, crcOn := false, fem := 0, follow := none
    src := .mem 0x10000 (pageOf 1) 0, dst := .mem 0x10000 (pageOf 1) 0, scale := none, comp := 0, compPitch := 0, block := 0, sink := none, pc := 0
    sup := false, rowBytes := 4, rows := 1, issued := 0, base := none, unit := 0, moved := 0, cbuf := [], segs := 0, crc := 0, waits := false, code := 0
    stopAt := none, landed := 0, need := 0, ended := false, ebuf := [], ahead := [], seq0 := 0, sent := 0, inWrite := 0, held := [] }

def batchRows : List Bool :=
  let m : DWord := 0x8000000000000000
  let x : XOps := { x0 with d := .reg 2, a := .lit m }
  let tag (bit : Bool) (n : Nat) (s : State) : State := onCore s fun l => { l with tags := [(63, ⟨bit, n, 0, 0⟩)] }
  let t (c : Ctx) (s : State) : List Tag := (tagsOf (c.pair0 (.lit m))).map (coreOf s).tag
  let sealed (s : State) : State := onCore (onStrand s fun t => { t with batch := 1 }) fun l => { l with copies := [copyOf 0] }
  [meets ctl (.seal x) 1 ok, meets ctl (.swait { x with a := .zero }) 1 (fun c s => !swaitPending s c.t (c.lane0 .zero)),
   meets (sealed ctl) (.swait { x with a := .zero }) 1 (fun c s => swaitPending s c.t (c.lane0 .zero)),
   meets (tag true 1 ctl) (.twany x) 1 (fun c s => (t c s).any (·.bit)), meets ctl (.twany x) 1 (fun c s => (t c s).all (·.count == 0)),
   meets (tag false 1 ctl) (.twany x) 1 (fun c s => (t c s).all (!·.bit) && (t c s).any (·.count != 0)),
   meets (tag true 0 ctl) (.twall x) 1 (fun c s => (t c s).all (·.count == 0)), meets (tag true 1 ctl) (.twall x) 1 (fun c s => (t c s).any (·.count != 0)),
   meets ctl (.tfirst x) 1 ok, meets ctl (.tclr x) 1 ok]

theorem witness_BatchAndTagInstructionsComplete : batchRows.all id = true := by decide

/-- Barrier 255, expecting nothing, expecting one byte more than has arrived, and met; barrier 256. -/
def barrierRows : List Bool :=
  let x (a : DWord) : XOps := { x0 with d := .reg 2, a := .lit a, b := .lit 7 }
  let bar (n k : Word) (s : State) : State := onCore s fun l => l.setBar 255 ⟨n, k, 3, 0⟩
  let b (s : State) : Barrier := (coreOf s).settleBars.bar 255
  let met (s : State) : Bool := decide ((b s).expected = 0 ∨ (b s).expected.toNat ≤ (b s).arrived.toNat)
  [meets ctl (.binit (x 255)) 1 ok, meets ctl (.barv (x 255)) 1 ok, meets (bar 9 0 ctl) (.barv (x 255)) 1 ok,
   meets ctl (.bwait (x 255)) 1 (fun _ s => met s), meets (bar 9 9 ctl) (.bwait (x 255)) 1 (fun _ s => met s),
   meets (bar 9 8 ctl) (.bwait (x 255)) 1 (fun _ s => !met s)] ++
  ([Instr.binit (x 256), .barv (x 256), .bwait (x 256)].map fun i => meets ctl i 1 fun c _ => decide (255 < (c.lane0 (.lit 256)).toNat)) ++
  [meets ctl (.gsync x0) 1 ok]

theorem witness_BarrierInstructionsComplete : barrierRows.all id = true := by decide

/-! A strand whose owner holds an ARR position, with tiles 1 to 4 of its group: 256 rows of 128 BF16 elements, the same chains, a tile of
512-byte F32 rows, and 8-bit rows of 256 bytes. -/

def latchOf (ty : Nat) : Latch := ⟨ty, false, false, [], [], 1⟩
def arrOf (s : State) : State :=
  let tile (sh : Word) : Tile := ⟨.allocated, 1, 1, 0, sh, 0, 0, [], []⟩
  { onCore s (fun l => ((((l.setTile 1 (tile 0x04008100)).setTile 2 (tile 0x12020100)).setTile 3 (tile 0x02010100)).setTile 4 (tile 0x00008100)))
    with cores := tblSets core0 s.cores [(0, { s.core 0 with rotac := 0x0001FFFFFFFFFFC0 })] }
def arr : State := arrOf (onCore ctl fun l => { l with latch := some (latchOf 4) })
/-- An MTILE's record at v8 to v15: descriptors of tiles 1, 1 and 2, START, types 4 and 4, m rows, nk chunks. -/
def macroRegs (m nk : Word) (s : State) : State :=
  regs s [(8, 1), (9, 0x00100001), (10, 1), (11, 0x00100001), (12, 2), (13, 0x00100001), (14, 0x00144000 + m), (15, nk)]

/-- M of 1, of the tile's 256 rows, and beyond them; 0 and 4,096. A strand's last registers; a codebook; none latched; a command, an MTILE under way
and one not started in array order. -/
def matrixRows : List Bool :=
  let x (a b : Src) (m : DWord) : XOps := ⟨0, .always, .none, a, b, .lit m⟩
  let at_ (s : State) (P : Ctx → LCore → Bool) (c : Ctx) (t : State) : Bool :=
    (s.lcore? 0 0 == t.lcore? c.cur.strand.owner c.cur.strand.lcore) && t.hasArr c.cur.strand.owner c.cur.strand.lcore && P c (coreOf s)
  let fine (s : State) (i : Instr) (P : Ctx → Bool) (op : Ctx → MatOp) : Bool :=
    meets s i 1 (at_ s fun c l => P c && matCheck l c.t.grp c.now l.latchAhead (op c) == none)
  let stops (s : State) (i : Instr) (P : Ctx → Bool) (op : Ctx → MatOp) (e : Nat × Nat × DWord) : Bool :=
    meets s i 1 (at_ s fun c l => P c && matCheck l c.t.grp c.now l.latchAhead (op c) == some e)
  let m (y : XOps) (c : Ctx) : Nat := (c.lane0 y.c).toNat
  let d (y : Src) (c : Ctx) : Desc := descOf (c.pair0 y).lo (c.pair0 y).hi
  let legal (y : XOps) (c : Ctx) : Bool := decide (1 ≤ m y c ∧ m y c ≤ 4095)
  let s := regs arr [(2, 1), (3, 0x00100001), (4, 2), (5, 0x00100001), (6, 3), (7, 0x00100001), (8, 4), (9, 0x00100001)]
  let mstr (y : XOps) (c : Ctx) : MatOp := .mstr 4 true (d y.a c) 0 0 (d y.b c) (m y c) none
  let mreg (n : Nat) (y : XOps) (c : Ctx) : MatOp :=
    .mstr 4 true (descOf 0 0) 0 0 (d y.b c) (m y c) (some ((List.range (m y c)).map fun i => regRow c.t (n + 2 * i)))
  let perm (n : Nat) (y : XOps) (c : Ctx) : MatOp :=
    .mcon 4 true .perm 0 ((List.range (m y c)).map fun i => (c.reg (n + i / 4) (i % 4)).toNat) (d y.b c) (m y c)
  let a1 := x (.reg 2) (.reg 4) 1; let a256 := x (.reg 2) (.reg 4) 256; let a257 := x (.reg 2) (.reg 4) 257
  let r1 := x (.reg 118) (.reg 4) 1; let o1 := x (.reg 4) (.reg 6) 1; let o257 := x (.reg 4) (.reg 6) 257
  let p1 := x (.reg 119) (.reg 4) 4; let p2 := x (.reg 110) (.reg 2) 4
  let plain : MatCmd := ⟨60, me, 1, .cbld ⟨0, 4, 0, 1, 1⟩, none, 0, none, none, none, 0⟩
  let macro2 : Macro := ⟨⟨1, 0, 0, 0, 1⟩, ⟨1, 0, 0, 0, 1⟩, ⟨2, 0, 0, 0, 1⟩, true, 4, 4, 65, 2⟩
  let mtile (k : Nat) (out : Option MatOut) : MatCmd := ⟨61, me, 1, macro2.step k, some (macro2, k), 0, none, none, out, 9⟩
  let mstat (l : List MatCmd) (P : Macro → Bool) : Bool := let t := onCore s fun q => { q with mats := l }
    meets t (.mstat x24) 1 (at_ t fun _ q => q.mats == l && P macro2)
  [fine s (.mwld (x (.reg 2) .zero 0) .bf16 false) (fun _ => true) (fun c => .mwld 4 false (d (.reg 2) c) 0),
   stops s (.mwld (x (.reg 2) .zero 0) .f16 false) (fun _ => true) (fun c => .mwld 3 false (d (.reg 2) c) 0) (0x0F, 3, 0),
   fine s (.mstr a1 .bf16 true false) (legal a1) (mstr a1), fine s (.mstr a256 .bf16 true false) (legal a256) (mstr a256),
   stops s (.mstr a257 .bf16 true false) (legal a257) (mstr a257) (0x0E, 4, 1),
   fine s (.mstr r1 .bf16 true true) (fun c => legal r1 c && decide (118 + 2 * m r1 c ≤ c.t.n)) (mreg 118 r1),
   stops (onCore s fun l => { l with latch := none }) (.mstr r1 .bf16 true true) (fun c => legal r1 c && decide (118 + 2 * m r1 c ≤ c.t.n))
     (mreg 118 r1) (0x0F, 1, 0),
   fine s (.mcon a1 .bf16 true .seg 8) (legal a1) (fun c => .mcon 4 true .seg 8 [] (d a1.b c) (m a1 c)),
   stops s (.mcon a257 .bf16 true .ones 0) (legal a257) (fun c => .mcon 4 true .ones 0 [] (d a257.b c) (m a257 c)) (0x0E, 4, 2),
   fine s (.mcon p1 .bf16 true .perm 0) (fun c => legal p1 c && decide (119 + (m p1 c + 3) / 4 ≤ c.t.n)) (perm 119 p1),
   stops s (.mcon p2 .bf16 true .perm 0) (fun c => legal p2 c && decide (110 + (m p2 c + 3) / 4 ≤ c.t.n)) (perm 110 p2) (0x0F, 3, 0),
   fine s (.mclose o1) (legal o1) (fun c => .mclose (d o1.a c) (d o1.b c) (m o1 c)),
   stops s (.mclose o257) (legal o257) (fun c => .mclose (d o257.a c) (d o257.b c) (m o257 c)) (0x0E, 4, 2),
   fine s (.cbld (x (.reg 8) .zero 0)) (fun _ => true) (fun c => .cbld (d (.reg 8) c)),
   stops s (.cbld (x (.reg 2) .zero 0)) (fun _ => true) (fun c => .cbld (d (.reg 2) c)) (0x0F, 3, 0),
   meets (macroRegs 65 1 arr) (.mtile (x (.reg 8) .zero 0)) 1 (fun c t => t.hasArr c.cur.strand.owner c.cur.strand.lcore && match macroOf c 8 with
     | some r => macroCheck (coreOf arr) c.t.grp c.now r == none
     | none => false),
   meets ctl (.mstat x24) 1 (fun c t => (t.lcore? c.cur.strand.owner c.cur.strand.lcore).isSome && !t.hasArr c.cur.strand.owner c.cur.strand.lcore),
   meets s (.mstat x24) 1 (at_ s fun _ l => l.mats == []),
   mstat [plain] (fun _ => true), mstat [plain, mtile 0 (some (.codebook []))] (fun r => decide (0 + 1 < r.steps)), mstat [mtile 1 none, plain] (fun _ => true)] ++
  ([0, 4096].flatMap fun k => let y := x (.reg 2) (.reg 4) k
    ([.mstr y .bf16 true false, .mstr y .bf16 true true, .mcon y .bf16 true .perm 0, .mclose y] : List Instr).map fun i =>
      meets s i 1 (at_ s fun c _ => m y c == 0 || decide (4095 < m y c))) ++
  ([.mwld (x (.reg 2) .zero 0) .bf16 false, .mstr a1 .bf16 true false, .mstr r1 .bf16 true true, .mcon a1 .bf16 true .seg 8, .mclose o1,
    .cbld (x (.reg 8) .zero 0), .mtile (x (.reg 8) .zero 0)] : List Instr).map fun i => meets ctl i 1 fun c t =>
      (t.lcore? c.cur.strand.owner c.cur.strand.lcore).isSome && !t.hasArr c.cur.strand.owner c.cur.strand.lcore

theorem witness_MatrixInstructionsComplete : matrixRows.all id = true := by decide

/-- Array 0 of owner 0, held by the strand's group. -/
def caHeld (s : State) : State := s.setClause 0 0 { clause0 with holder := some 1 }

/-- Ranges at their ends: column 4,095, 4,096 columns, level and variable 1,023, decision word 0x7FF; and one beyond each; an array mapped out. -/
def clauseRows : List Bool :=
  let s := caHeld (tileOf .allocated (onCore ctl fun l => l.setTile 4 ⟨.allocated, 1, 1, 0, 0x00008FFF, 0, 0, [], []⟩))
  let l := coreOf s
  let x (a b c : Nat) : XOps := { x0 with d := .reg 2, a := .lit (BitVec.ofNat 64 a), b := .lit (BitVec.ofNat 64 b), c := .lit (BitVec.ofNat 64 c) }
  let t4 : Nat := 0x0010000100000004
  let forms (t col n dec lvl v del : Nat) : List (Instr × (Ctx → ClauseOp)) := [
    (.caload (x t col n), fun c => .load (descOf (c.pair0 (x t col n).a).lo (c.pair0 (x t col n).a).hi) (c.n0 (x t col n).b) (c.n0 (x t col n).c)),
    (.calearn (x t 0 0), fun c => .learn (descOf (c.pair0 (x t 0 0).a).lo (c.pair0 (x t 0 0).a).hi)), (.cadec (x dec 0 0), fun c => .dec (c.lane0 (x dec 0 0).a)),
    (.caback (x lvl 0 0), fun c => .back (c.n0 (x lvl 0 0).a)), (.caval (x v 0 0), fun c => .val (c.n0 (x v 0 0).a)),
    (.cadel (x del 0 0), fun c => .del (c.n0 (x del 0 0).a))]
  let free : List (Instr × (Ctx → ClauseOp)) := [(.caclose x0, fun _ => .close), (.caprop (x 0xFFFFFFFF 0 0), fun c => .prop (c.n0 (x 0xFFFFFFFF 0 0).a)),
    (.catrail (x 0xFFFFFFFF 0 0), fun c => .trail (c.n0 (x 0xFFFFFFFF 0 0).a))]
  let held (c : Ctx) (s : State) : Bool := s.heldArray c.cur.strand.owner c.t.grp == some 0 && s.lcore? c.cur.strand.owner c.cur.strand.lcore == some l
  let timed (c : Ctx) (s : State) (b : Nat) : Bool := !s.untimed c.cur.strand.owner && decide (b ≤ 1)
  let caq (s : State) : State := onOwner s fun w => { w with orec := { w.orec with caq := 1 } }
  let there (c : Ctx) (s : State) (a : Nat) : Bool := match s.owner? c.cur.strand.owner with
    | some w => decide (a < w.orec.caq) && match w.clusters[a]? with
      | some y => !s.dev.noArrays.contains y
      | none => true
    | none => false
  let out (s : State) : State := { onOwner s fun w => { w with clusters := [5] } with dev := { s.dev with noArrays := [5] } }
  ((forms t4 4095 1 0x7FF 1023 1023 4095 ++ forms t4 0 4095 0 0 0 0 ++ free).map fun r => meets s r.1 1 fun c s => held c s &&
    clauseCheck l c.t.grp c.now (r.2 c) == none) ++
  ((forms 5 4096 1 0x800 1024 1024 4096).map fun r => meets s r.1 1 fun c s => held c s && (clauseCheck l c.t.grp c.now (r.2 c)).isSome) ++
  ((forms t4 4095 1 0x7FF 1023 1023 4095 ++ free).map fun r => meets ctl r.1 1 fun c s => s.heldArray c.cur.strand.owner c.t.grp == none) ++
  [meets (caq ctl) (.caopen (x 0 1 0)) 1 (fun c s => timed c s 1 && s.heldArray c.cur.strand.owner c.t.grp == none && there c s 0),
   meets (caq ctl) (.caopen (x 1 0 0)) 1 (fun c s => timed c s 0 && s.heldArray c.cur.strand.owner c.t.grp == none && !there c s 1),
   meets (out (caq ctl)) (.caopen (x 0 0 0)) 1 (fun c s => timed c s 0 && s.heldArray c.cur.strand.owner c.t.grp == none && !there c s 0),
   meets s (.caopen (x 0 0 0)) 1 (fun c s => timed c s 0 && s.heldArray c.cur.strand.owner c.t.grp != none),
   meets (onOwner ctl fun w => { w with orec := { w.orec with untimed := true } }) (.caopen (x 0 0 0)) 1 (fun c s => s.untimed c.cur.strand.owner),
   meets ctl (.caopen (x 0 2 0)) 1 (fun c s => !s.untimed c.cur.strand.owner && decide (1 < (c.lane0 (x 0 2 0).b).toNat))]

theorem witness_ClauseInstructionsComplete : clauseRows.all id = true := by decide

/-- Counter 4,095 at zero, pending at level 1 beneath counter 9, above the strand's own; a quota that leaves it out; counter 4,096. -/
def counterRows : List Bool :=
  let x (k : DWord) : XOps := { x0 with d := .reg 2, a := .lit k }
  let tab (l : List (Nat × Counter)) (s : State) : State := onOwner s fun w => { w with counters := tblSets ctr0 w.counters l, snap := tblSets ctr0 w.snap l }
  let pending := tab [(4095, ⟨1, 0, 7, some 9, false⟩)] ctl
  let up := tab [(0, ⟨0, 0, 1, some 4095, false⟩), (4095, ⟨1, 0, 1, none, false⟩)] ctl
  let at_ (s : State) (P : Owner → Group → Nat → Bool) (c : Ctx) (_ : State) : Bool := match s.owner? c.cur.strand.owner, s.group? c.t.grp with
    | some w, some g => let k := (c.lane0 (x 4095).a).toNat; decide (k ≤ 4095 ∧ k < w.orec.ctrq) && P w g k
    | _, _ => false
  let forms (k : DWord) : List Instr := [.join (x k), .cntrd (x k) .graph, .cancel (x k) .graph]
  [meets ctl (.join (x 4095)) 1 (at_ ctl fun w g k => !reaches w k chainFuel g.comp && (tblGet ctr0 w.snap k).count == 0),
   meets pending (.join (x 4095)) 1 (at_ pending fun w g k => !reaches w k chainFuel g.comp && (tblGet ctr0 w.snap k).count != 0),
   meets up (.join (x 4095)) 1 (at_ up fun w g k => reaches w k chainFuel g.comp)] ++
  ((forms 4095).map fun i => meets pending i 1 (at_ pending fun _ _ _ => true)) ++
  ((forms 4095).map fun i => meets (onOwner ctl fun w => { w with orec := { w.orec with ctrq := 4095 } }) i 1 fun c s => match s.owner? c.cur.strand.owner with
    | some w => decide (w.orec.ctrq ≤ (c.lane0 (x 4095).a).toNat)
    | none => false) ++
  ((forms 4096).map fun i => meets ctl i 1 fun c s => (s.owner? c.cur.strand.owner).isSome && decide (4095 < (c.lane0 (x 4096).a).toNat))

theorem witness_CounterInstructionsComplete : counterRows.all id = true := by decide

/-- The last 64 bytes of a window and the record beyond it; a handle of no window; an offset off by 4; the end of the address space; lists 1,023
and 1,024; set codes 10 and 11; no active lane. -/
def launchRows : List Bool :=
  let x (a b : Nat) : XOps := { x0 with d := .reg 2, a := .lit (BitVec.ofNat 64 a), b := .lit (BitVec.ofNat 64 b) }
  let s := window 0x10000 256 ctl
  let top := window (2 ^ 56 - 64) 64 ctl
  let at_ (base limit h off : Nat) (P : Bool) (c : Ctx) (s : State) : Bool := P &&
    (windowOf s c.t.grp c.now (c.lane0 (x h off).a)).map (fun w => (w.base, w.limit)) == some (base, limit) && !s.untimed c.cur.strand.owner &&
    decide (s.accs = [])
  [meets s (.launch (x 0 192)) 1 (at_ 0x10000 256 0 192 (decide (192 + 64 ≤ 256))), meets s (.launch (x 0 256)) 1 (at_ 0x10000 256 0 256 (decide (256 < 256 + 64))),
   meets top (.launch (x 0 0)) 1 (at_ (2 ^ 56 - 64) 64 0 0 (decide (2 ^ 56 - 64 + 0 + 64 ≤ 2 ^ 56))),
   meets s (.launch (x 1 0)) 1 (fun c s => windowOf s c.t.grp c.now (c.lane0 (x 1 0).a) == none),
   meets s (.launch (x 0 4)) 1 (at_ 0x10000 256 0 4 (4 % 64 != 0)),
   meets top (.launch (x 0 64)) 1 (at_ (2 ^ 56 - 64) 64 0 64 (decide (2 ^ 56 < 2 ^ 56 - 64 + 64 + 64)))] ++
  ([.wlput (x 1023 10), .wlget (x 1023 10)].map fun i => meets ctl i 1 fun c s => decide ((c.low (x 1023 10).a).toNat ≤ 1023 ∧
    (c.low (x 1023 10).b).toNat ≤ 10 ∧ c.lanes ≠ [] ∧ s.accs = []) && !s.untimed c.cur.strand.owner) ++
  ([.wlput (x 1024 10), .wlget (x 1024 10)].map fun i => meets ctl i 1 fun c _ => decide (c.lanes ≠ [] ∧ 1023 < (c.low (x 1024 10).a).toNat)) ++
  (([.wlput { x 1024 11 with g := .on .zero false }, .wlget { x 1024 11 with g := .on .zero false }] : List Instr).map fun i => meets vec i 1 fun c _ => c.lanes == []) ++
  [meets ctl (.wlget (x 1023 11)) 1 (fun c _ => decide (c.lanes ≠ [] ∧ (c.low (x 1023 11).a).toNat ≤ 1023 ∧ 10 < (c.low (x 1023 11).b).toNat))]

theorem witness_LaunchAndWorkListInstructionsComplete : launchRows.all id = true := by decide

/-- Every readable register, and every writable one at HYPER; TVEC written by the strand's core last, and by a higher one in the same index. -/
def systemRows : List Bool :=
  let hyper := onStrand ctl fun t => { t with priv := 2 }
  let x : XOps := { x0 with d := .reg 2, a := .reg 4 }
  let taken := onOwner hyper fun w => { w with swrAt := [(0x010, 8 * 512 + 511)] }
  let h (w : DWord) (v : DWord) : XOps := { x0 with d := .reg 2, a := .lit w, b := .lit v, c := .zero }
  let status (w v : DWord) (c : Ctx) (s : State) : Nat :=
    s.hgateStatus ((s.lcore? c.cur.strand.owner c.cur.strand.lcore).map (·.core)) (c.lane0 (.lit w)) (c.pair0 (.lit v)) (c.pair0 .zero)
  ([0x000, 0x002, 0x004, 0x006, 0x007, 0x008, 0x010, 0x011, 0x012, 0x013, 0x014, 0x016, 0x020, 0x022, 0x024, 0x025, 0x026, 0x030, 0x032, 0x040, 0x041,
    0x100, 0x102, 0x104, 0x106, 0x110].map fun n => meets hyper (.srd x (BitVec.ofNat 12 n)) 1 ok) ++
  ([0x010, 0x011, 0x012, 0x013, 0x014, 0x016, 0x020, 0x022, 0x024, 0x025, 0x026, 0x100, 0x102, 0x104, 0x110].map fun n =>
    meets hyper (.swr x (BitVec.ofNat 12 n)) 1 fun c s => !s.outwritten c.t n) ++
  [meets taken (.swr x 0x010) 1 (fun c s => s.outwritten c.t 0x010),
   meets hyper (.hgate (h 0x00010001 0)) 1 (fun c s => status 0x00010001 0 c s == 0), meets hyper (.hgate (h 0x00010001 1)) 1 (fun c s => status 0x00010001 1 c s == 4),
   meets ctl (.intr x) 1 (fun c s => (s.owner? c.cur.strand.owner).isSome)]

theorem witness_SystemInstructionsComplete : systemRows.all id = true := by decide

/-! ### Witnesses: the steps of the machine's engines and clocks

`goes s r P`: in the state `s`, of which `P` holds, the step that `r` names leads to a state. -/

def goes (s : State) (r : Instr) (P : Bool) : Bool := P && match exec r s with
  | .next _ => true
  | _ => false

/-- What `goes` says. -/
theorem goes_iff (s : State) (r : Instr) (P : Bool) : goes s r P = true ↔ P = true ∧ ∃ t, exec r s = .next t := by
  unfold goes; cases P <;> cases exec r s <;> simp

/-- An instruction of a stream waits since owner cycle 0 with the values it read. -/
def stalled (cur : Cur) (i : Instr) (vals : List DWord) (s : State) : State := s.modStream cur fun x => { x with wait := some ⟨i, 70, vals, 0⟩ }
/-- It issues again once `P` holds of what it sees. -/
def resumes (s : State) (row : Instr) (cur : Cur) (i : Instr) (P : Ctx → Bool) : Bool :=
  let s := stalled cur i [] s
  goes s row ((waitOf s cur).map (·.instr) == some i && s.offered cur && meets (s.reissued cur) i 1 fun c _ => P c)

/-- A flume with its last place free, a token that its gang set can take and a token that it cannot, seven of eight places taken, an entry. -/
def resumeRows : List Bool :=
  let set : Cur := ⟨me, some 0⟩
  let code (s : State) : State := onOwner s fun w => { w with code := tblSets 0 w.code [(4, 0x3DFBF6A0)] }
  let finds (c : Ctx) : Bool := match c.set? with
    | some g => findToken c.t g c.now != .nothing
    | none => true
  let flume (k : TokKind) : State := onStrand (code vec) fun t => { t with flume := [tok k 5] }
  ([.frun xg 0x80 true, .ftrip xg 0x80, .fmask xg 0x80, .fval xg 0x80 false, .regang xg 0x80, .exit].map fun i =>
    resumes (flumeOf 15 ctl) (.flumeSendResume me) mine i fun c => decide (c.t.flume.length < 16)) ++
  [resumes (flume .val) (.vpopTakesVal me 0) set (.vpop (.reg 1)) finds, resumes (flume .run) (.vpopTakesVal me 0) set (.vpop (.reg 1)) finds,
   resumes (flume .trip) (.vloopTakesTrip me 0) set (.vloop x0 true) finds, resumes (flume .mask) (.vloopTakesTrip me 0) set (.vloop x0 true) finds,
   resumes (rqOf 7 true vec) (.vsendPushResume me 0) set (.vsend .any (.reg 1)) (fun c => decide (c.t.rq.length < 8)),
   resumes (rqOf 7 true vec) (.vsendPushResume me 0) set (.vsendLit .any (.lit 1)) (fun c => decide (c.t.rq.length < 8)),
   resumes (rqOf 1 true ctl) (.frecvPop me) mine (.frecv (.reg 1)) (fun c => (c.t.rq.head?.map (·.here)) == some true)]

theorem witness_WaitingInstructionsIssueAgain : resumeRows.all id = true := by decide

/-- Every kind of token at an idle gang set of eight slices, for all of them and for two; END the last of a full flume; a strand whose gang has
stopped, and one whose gang waits in VSEND behind a full return queue. -/
def takesRows : List Bool :=
  let flume (k : TokKind) (mask : List Nat) (s : State) : State := onStrand s fun t => { t with flume := [{ tok k 0x40000000 with mask := mask, left := mask }] }
  let is (s : State) (k : TokKind) : Bool := ((idleToken s me 0).map fun x => x.2.2.1.kind) == some k
  let takes : List (Instr × TokKind) := [(.sliceTakesRun me 0, .run), (.sliceTakesMask me 0, .mask), (.sliceTakesRegang me 0, .regang), (.sliceTakesEnd me 0, .fin)]
  let strand (s : State) : Strand := (s.strand? me).getD (strandAt me 0 0 ⟨0, launchRecOf [], false, none, 0, 0, none, none⟩)
  let starved := onSet (stalled mine (.frecv (.reg 1)) [] ctl) fun g => { g with st := .stopped }
  let idle := stalled mine (.frecv (.reg 1)) [] ctl
  let locked := onSet (flumeOf 16 (rqOf 8 true (stalled mine .exit [] ctl))) fun g => { g with
    st := .block, str := { g.str with wait := some ⟨.vsend .any (.reg 1), 71, [], 0⟩ } }
  let fused := onSet (flumeOf 16 (stalled mine (.frun xg 1 true) [] ctl)) fun g => { g with st := .regang 77 }
  let stuck (s : State) : Bool := (strand s).sets.all fun g => match g.st with
    | .regang _ => true
    | .block => decide (8 ≤ (strand s).rq.length) && (g.str.wait.map (·.instr)) == some (.vsend .any (.reg 1))
    | _ => false
  let full (s : State) : Bool := ((strand s).ctl.wait.any fun w => sends w.instr) && decide (16 ≤ (strand s).flume.length) && stuck s
  (takes.flatMap fun r => [List.range 8, [2, 5]].map fun m => goes (flume r.2 m ctl) r.1 (is (flume r.2 m ctl) r.2)) ++
  (takes.flatMap fun r => [.trip, .val].map fun k => goes (flume k [2, 5] ctl) r.1 (is (flume k [2, 5] ctl) k)) ++
  ([starved, idle].map fun s => goes s (.returnQueueStarvation me) ((strand s).ctl.wait.map (·.instr) == some (.frecv (.reg 1)) && (strand s).rq == [] &&
    (strand s).sets.all fun g => g.st == .stopped || (g.st == .idle && ((strand s).tokenOf g).isNone))) ++
  [goes locked (.flumeDeadlock me) (full locked), goes fused (.flumeDeadlock me) (full fused)]

theorem witness_SetsTakeTokensAndDeadlocksTrap : takesRows.all id = true := by decide

/-- Results that fall due in owner cycle 8: of the control stream and of a gang set; an untimed owner's in its turn. -/
def dueRows : List Bool :=
  let p (k : Option Nat) : Pend := ⟨40, k, 8, 0, [(119, 3, 7)]⟩
  let s (k : Option Nat) : State := onStrand ctl fun t => { t with pends := [p k] }
  let untimed : State := { onOwner (s none) fun w => { w with orec := { w.orec with untimed := true } } with dcyc := 8, turn := some ⟨0, 0, 0, 0, false, true⟩ }
  let there (s : State) (k : Option Nat) : Bool := ((s.strands.findSome? fun u => u.pends.find? fun q => q.id == 40) == some (p k)) &&
    decide (8 ≤ s.lcNow 0 0)
  [goes (s none) (.resultWriteback 40) (there (s none) none && !(s none).untimed 0), goes (s (some 0)) (.resultWriteback 40) (there (s (some 0)) (some 0)),
   goes untimed (.resultWriteback 40) (there untimed none && untimed.untimed 0)]

theorem witness_ResultsAreWrittenWhenDue : dueRows.all id = true := by decide

/-- The last strand of a group and one of two; RALLOC and RFREE at a quiet point; swaps at the cycle in which they end; more strands than a run
places, which all ask for more than the pool holds. -/
noncomputable def lifeRows : List Bool :=
  let strand (s : State) : Strand := (s.strand? me).getD (strandAt me 0 0 ⟨0, launchRecOf [], false, none, 0, 0, none, none⟩)
  let done := onSet (onStrand ctl fun t => { t with cst := .exited }) fun g => { g with st := .stopped }
  let two (f : Strand → Strand) (s : State) : State := { s with strands := s.strands ++ s.strands.map fun t => f { t with id := ⟨0, 0, 1⟩ } }
  let asks (n m : Nat) (s : State) : State := stalled mine (.ralloc { x0 with a := .lit (BitVec.ofNat 64 m) }) [BitVec.ofNat 64 m]
    (onStrand s fun t => { t with n := n })
  let res (r : Resident) (s : State) : State := onStrand s fun t => { t with res := r }
  let join := stalled mine (.join x0) [0, 5] (res (.back 8) ctl)
  let hungry (s : State) : Bool := (s.strandsOf 0 0).all fun u => u.res == .here && (!s.wantsMore u || match u.ralloc? with
    | some (m, id, _) => (s.rallocNow u m id).isNone
    | none => true)
  let crowd : State := { asks 112 120 ctl with strands := (List.range 37).flatMap fun k => (asks 112 120 ctl).strands.map fun t => { t with
    id := ⟨0, 0, k⟩ } }
  let launched := onOwner (res .coming ctl) fun w => { w with launches := [⟨0, launchRecOf [], false, none, 0, 1, none, none⟩] }
  [goes done (.strandEnd me) (done.ended (strand done)), goes (two id done) (.strandEnd me) ((two id done).ended (strand done)),
   goes (asks 64 120 ctl) (.rallocGrant me) (((asks 64 120 ctl).rallocNow (strand (asks 64 120 ctl)) 120 70).isSome),
   goes (stalled mine (.rfree (.reg 1)) [8] ctl) (.rfreeQuietAct me) ((stalled mine (.rfree (.reg 1)) [8] ctl).quietAt (strand (stalled mine (.rfree (.reg 1)) [8] ctl)) (some 70)),
   goes (stalled mine (.rfreeLit (.lit 8)) [8] ctl) (.rfreeQuietAct me) ((stalled mine (.rfreeLit (.lit 8)) [8] ctl).quietAt (strand (stalled mine (.rfreeLit (.lit 8)) [8] ctl)) (some 70)),
   goes (res (.leaving 8) ctl) (.strandSwapOutEnd me) (decide (8 ≤ ctl.lcNow 0 0)),
   goes (res .out ctl) (.strandSwapIn me) ((res .out ctl).roomFor (strand (res .out ctl)) && !(strand (res .out ctl)).joinOut),
   goes (res (.back 8) ctl) (.strandSwapInEnd me) (decide (8 ≤ ctl.lcNow 0 0)), goes join (.strandSwapInEnd me) ((strand join).ctl.wait.map (·.vals) == some [0, 5]),
   goes crowd (.strandSwapOut 0 0) (hungry crowd && decide (crowd.swapped 0 0 < 32)),
   goes launched (.groupStrandsStart 1) (((launched.group? 1).map fun q => q.launch == 0 && decide (q.start ≤ launched.lcNow 0 0)) == some true &&
     launched.strands.any fun u => u.grp == 1 && u.res == .coming)]

theorem witness_StrandLifeSteps : lifeRows.all id = true := by decide

/-- Core 511 for one more owner-0 position, and a reserved bit; the boundary itself; FLEN 4 and 5; a logical core to place, to remove, and one
that is resident. -/
theorem witness_RotaAndRegisterWritesFromOutside :
    let s := State.reset
    let v : DWord := 0x0000FFFFFFFFFFC0
    let c : DWord := 0x8000000000040000
    (goes s (.rotacWrite 511 v) (s.rotacOk 511 v) && goes s (.rotacWrite 512 v) (!s.rotacOk 512 v) && goes s (.rotacWrite 1 0x0400FFFFFFFFFFC0)
      (!s.rotacOk 1 0x0400FFFFFFFFFFC0) &&
    (let t : State := { s.setCore 1 { core0 with pend := some (v, 64) } with dcyc := 64 }
     goes t (.rotacTakesEffect 1) (decide ((t.core 1).pend = some (v, 64) ∧ 64 ≤ t.dcyc))) &&
    goes s (.rotafStage 0x4000000000000F01) (!(0x4000000000000F01 : DWord).getLsbD 63) && goes s (.rotafCommit c) (c.getLsbD 63 && !rotafBad c &&
      !c.getLsbD 62 && s.rotafOk s.dev.fabric.stage (c.toNat / 2 ^ 16 % 8)) && goes s (.rotafCommit 0x8000000000050000) (rotafBad 0x8000000000050000) &&
    (let t : State := { s with dcyc := 1024, dev := { s.dev with fabric := { s.dev.fabric with pend := some ([], 0, 1024) } } }
     goes t .rotafTableInForce (decide (t.dev.fabric.pend = some ([], 0, 1024) ∧ 1024 ≤ t.dcyc))) &&
    goes s (.lcmapWrite 0x0000000880000040) (s.lcmapOk 0x0000000880000040 && (0x0000000880000040 : DWord).getLsbD 31) &&
    goes s (.lcmapWrite 0x40) (s.lcmapOk 0x40 && !(0x40 : DWord).getLsbD 31) && goes s (.lcmapWrite 0x0000000880000000) (!s.lcmapOk 0x0000000880000000) &&
    goes s (.lovfWrite 0 0) (s.owner? 0).isSome && goes s (.lovfWrite 0 1) (s.owner? 0).isSome && goes s (.parkbaseWrite 0 0x10000) (s.owner? 0).isSome &&
    goes s (.qtimeoutWrite 0 4097) (s.owner? 0).isSome && goes s (.jswapWrite 0 1) (s.owner? 0).isSome && goes s .intdropWrite true) = true := by decide

/-- A swap of core 0 from owner 0 to nobody, at each phase's turn; of core 1 from nobody to owner 0, with an image beyond device memory. -/
theorem witness_SwapPhasesFollowItsTurns :
    let w : Swap := swapOf 1 63 0 true false 0 0 0 none false
    let s (w : Swap) : State := State.reset.setSwap 0 w
    let on (w : Swap) (j : Nat) : Bool := decide (((s w).core 0).swap = some w) && (w.turns.any fun n => decide (j ≤ n)) && (s w).swapTurn 0 w && (s w).notDealt 0
    let q : Swap := { w with turns := some 6144, quiet := true }
    let l : Swap := { q with turns := some 49835, saved := true }
    let r : Swap := { l with turns := some 93526, read := true }
    let e : Swap := { r with turns := some 98304, bound := true }
    (goes (s w) (.swapBegin 0) (decide (w.turns = none ∧ w.start ≤ (s w).dcyc) && (s w).swapTurn 0 w) &&
    goes (s { w with turns := some 4096 }) (.swapQuietEnd 0) (on { w with turns := some 4096 } 4096) &&
    goes (s { w with turns := some 0 }) (.swapQuietEnd 0) ((s { w with turns := some 0 }).coreQuiet 0 0) &&
    goes (s q) (.swapSavePhase 0) (on q 6144) &&
    goes (s { q with nosave := false }) (.swapSavePhase 0) (on { q with nosave := false } 6144 && ((s q).onCore 0 0).length == 1 &&
      ((s q).onCore 0 0).all fun l => ((s { q with nosave := false }).drainCore 0 l.num).2.isSome) &&
    goes (s l) (.swapRestorePhase 0) (on l 49835 && match (s l).swapLoad 0 l with
      | .ok _ => true
      | .error _ => false) &&
    goes (s { l with inown := 0, image := 2 ^ 48 }) (.swapRestorePhase 0) (on { l with inown := 0, image := 2 ^ 48 } 49835 &&
      match (s l).swapLoad 0 { l with inown := 0, image := 2 ^ 48 } with
      | .ok _ => false
      | .error k => k == 2) &&
    goes (s r) (.swapRebind 0) (on r 93526) && goes (s e) (.swapComplete 0) (on e 98304) &&
    goes (s { e with queue := some 0 }) (.swapComplete 0) (on { e with queue := some 0 } 98304) &&
    (let a : Acc := ⟨9, me, none, 1, 0, 0, .nop, [], none, false, 0, 0, false, true, false, 0⟩
     goes { State.reset with accs := [a] } (.drainSlotArrival 9) (a.slot && State.reset.dev.link && !State.reset.isLate 0) &&
     (let m : Image := { emptyImage (ownerNew ownerZeroRec) 0 with accs := [a] }
      goes { State.reset with images := [m] } (.drainSlotArrival 9) (m.accs.all (·.slot))))) = true := by decide

/-- A DRAINING tile; a TALLOC that waited on it; a copy's only unit, its page there again, its end; CBLD at its start and at its end; waits
that end; a barrier met exactly; a GSYNC due. -/
theorem witness_TileCopyMatrixAndWaitSteps :
    let x : XOps := { x0 with d := .reg 2 }
    let drained := tileOf .draining ctl
    let asks := onGroup (onCore (stalled mine (.talloc x .core) [0x01001008, 0x1000] ctl) fun l => l.setTile 0 tile0) fun g => { g with quota := 2048 }
    let copy (f : Copy → Copy) : State := onCore ctl fun l => { l with copies := [f { copyOf 0 with base := some (0, 0) }] }
    let at_ (s : State) (P : LCore → Copy → Bool) : Bool := match s.copy? 50 with
      | some (l, c) => P l c
      | none => false
    let land (l : LCore) (c : Copy) (s : State) : Bool := match landUnit s l c 8 with
      | .ok _ => true
      | .error _ => false
    let done := copy fun c => { c with ended := true }
    let paused := copy fun c => { c with waits := true }
    let cmd (out : Option MatOut) : MatCmd := ⟨60, me, 1, .cbld ⟨0, 4, 0, 1, 1⟩, none, 8, none, none, out, 8⟩
    let mat (out : Option MatOut) : State := onCore arr fun l => { l with mats := [cmd out] }
    let tags (s : State) : State := onCore s fun l => { l with tags := [(63, ⟨true, 0, 0, 0⟩)] }
    let wait (i : Instr) : State := tags (stalled mine i [0x8000000000000000] ctl)
    let bar (n k : Word) : State := onCore (stalled mine (.bwait x) [255] ctl) fun l => l.setBar 255 ⟨n, k, 3, 0⟩
    (goes drained (.tileDrainComplete 0 0 0) (((coreOf drained).tile 0).st == .draining && ((coreOf drained).tile 0).uses == 0) &&
    goes asks (.tallocPickGrant me) ((tallocDecide (coreOf asks) ownerZeroRec 1 2048 0 0x01001008 0x1000).isSome) &&
    goes (copy id) (.copyUnitLands 50) (at_ (copy id) fun l c => !c.sendsRead (copy id) l 8 && (l.landing c).any (fun d => decide (d ≤ 8)) &&
      !c.ended && !c.waits && c.need == 0 && land l c (copy id)) &&
    goes paused (.copyPageGranted 50) (at_ paused fun l c => c.waits && !c.ended && land l c paused) &&
    goes done (.copyComplete 50) (at_ done fun _ c => c.ended) &&
    goes (mat none) (.matCommandStart 60) (((mat none).matOwner? 60).any fun l => l.mats == [cmd none] && decide (max 8 l.matEnd ≤ 8) && !(mat none).bankOff l &&
      ((mat none).lcore? 0 0).isSome) &&
    goes (mat (some (.codebook []))) (.matCommandEnd 60) (((mat (some (.codebook []))).matOwner? 60).any fun l => l.mats == [cmd (some (.codebook []))]) &&
    goes (wait (.twany x)) (.twanyReturn me) (((coreOf (wait (.twany x))).tag 63).bit) &&
    goes (stalled mine (.twany x) [1] ctl) (.twanyReturn me) (((coreOf ctl).tag 0).count == 0) &&
    goes (wait (.twall x)) (.twallReturn me) (((coreOf (wait (.twall x))).tag 63).count == 0) &&
    goes (stalled mine (.swait x) [0xFFFFFFFF] ctl) (.swaitComplete me) (ctl.strands.all fun t => !swaitPending ctl t 0xFFFFFFFF) &&
    goes (bar 0 0) (.bwaitRelease me) (((coreOf (bar 0 0)).settleBars.bar 255).expected == 0) &&
    goes (bar 9 9) (.bwaitRelease me) (let b := (coreOf (bar 9 9)).settleBars.bar 255; decide (b.expected.toNat ≤ b.arrived.toNat)) &&
    goes (onGroup ctl fun g => { g with gsDue := some 8 }) (.gsyncComplete 1) (decide (8 ≤ ctl.lcNow 0 0))) = true := by decide

/-- An access of one lane at its act cycle, and a killed one whose lane is parked; each way in which a lane comes to be tried again; lists with
room, empty and waiting. -/
theorem witness_MemorySideSteps :
    let x : XOps := { x0 with d := .reg 2 }
    let lane (st : LaneSt) (n : Nat) : LaneAcc := ⟨0, 0x10000, [0, 1], st, [], n, 8, 0, []⟩
    let acc (i : Instr) (st : LaneSt) (n : Nat) : Acc := ⟨9, me, none, 1, 0, 0, i, [lane st n], some ⟨0, true, none, 0x10000, 256, pageOf 1⟩, false, 8, 0, false, false, false, 0⟩
    let s (i : Instr) (st : LaneSt) (n : Nat) : State := { ctl with accs := [acc i st n] }
    let ld := s (.ld x mem4) .todo 0
    let list (v : List Word) (t : State) : State := onOwner t fun w => { w with lists := [(0x10000, v)] }
    let get := s (.wlget x) .todo 0
    let held : State := { get with strands := get.strands.map fun t => { t with wlset := [(0x10000, 0)] } }
    let dead : Acc := { acc (.ld x mem4) (.parked 0x10000 0) 0 with killed := true }
    (goes ld (.memoryAccessAct 9) (decide (8 ≤ ld.lcNow 0 0) && !ld.accWaits (acc (.ld x mem4) .todo 0) && ld.accFree (acc (.ld x mem4) .todo 0) &&
      !(acc (.ld x mem4) .todo 0).purgeable 8) &&
    goes { ctl with accs := [dead] } (.memoryAccessAct 9) (dead.purgeable (dead.now { ctl with accs := [dead] })) &&
    goes (s (.feset x mem4) .todo 0) (.memoryAccessAct 9) ((s (.feset x mem4) .todo 0).laneFree (acc (.feset x mem4) .todo 0) (lane .todo 0)) &&
    ([Fef.consuming, .filling].all fun f => [0, 8].all fun n =>
     let i : Instr := .feset x { mem4 with fef := f }
     let r : Acc := { acc i .todo 0 with lanes := [{ lane .todo 0 with data := [BitVec.ofNat 32 n] }] }
     goes { ctl with accs := [r] } (.memoryAccessAct 9) (match lanePage ctl r 0x10000 with
       | .ok p => decide (0x10000 + 4 * n ≤ p.base + p.size) && (match feWords ctl r p 0x10000 (max 1 n) with
         | .ok ws => ws.length == max 1 n
         | .error _ => false)
       | .error _ => false)) &&
    goes (s (.ld x mem4) (.retry 8 1) 0) (.feRetryAttempt 9 0) true && goes (s (.ld x mem4) (.over 8) 0) (.feRetryAttempt 9 0) true &&
    goes (s (.ld x mem4) (.woken 8 0 true) 0) (.wokenRetry 9 0) true && goes (s (.waita x mem4) (.spurious 8) 0) (.waitaSpuriousReturn 9 0) true &&
    goes (s (.xlat x) .todo 0) (.xlatAct 9) (match ctl.pageOf 0 0x10000 with
      | .ok p => match ctl.placeIn 0 p 0x10000 with
        | .ok _ => true
        | .error _ => false
      | .error _ => false) &&
    goes (s (.launch x) .todo 0) (.launchAct 9) (match launchPlace (s (.launch x) .todo 0) (acc (.launch x) .todo 0) (lane .todo 0) with
      | .ok _ => true
      | .error _ => false) &&
    goes (s (.wlput x) .todo 0) (.wlputAct 9) true &&
    goes get (.wlgetAttempt 9) (get.accFree (acc (.wlget x) .todo 0) && (get.owner? 0).any fun w => w.wlist 0x10000 == [] && get.quiescent w (wlSet 0x10000 0)) &&
    goes held (.wlgetAttempt 9) (held.accFree (acc (.wlget x) .todo 0) && (held.owner? 0).any fun w => w.wlist 0x10000 == [] && !held.quiescent w (wlSet 0x10000 0)) &&
    goes (list [5, 6] get) (.wlgetAttempt 9) ((list [5, 6] get).accFree (acc (.wlget x) .todo 0) && ((list [5, 6] get).owner? 0).any fun w => w.wlist 0x10000 == [5, 6])) = true := by decide

/-- An array's first command: not started, with its round or its column due, at its E; the last round a CAPROP may make. -/
theorem witness_ClauseArraySteps :
    let cmd (op : ClauseOp) (start : Option Nat) (step : Nat) (ends : Option Nat) : ClauseCmd := ⟨60, me, 1, op, .reg 2, [0], 0, 0, start, step, ends, [], 0, false⟩
    let s (m : ClauseCmd) : State := ctl.setClause 0 0 { clause0 with holder := some 1, cmds := [m] }
    let first (m : ClauseCmd) : Bool := (firstClause (s m) 0 0).any fun r => r.2.1 == m && r.2.2.2 == 8 && r.1.lastEnd == 0
    let load : ClauseOp := .load ⟨0, 4, 0, 1, 1⟩ 0 1
    (([.open_ true, .dec 5, .prop 1, .prop 0, .learn ⟨0, 4, 0, 1, 1⟩, load].all fun op => goes (s (cmd op none 0 none)) (.clauseCommandStart 0 0)
      (first (cmd op none 0 none))) &&
    ([1, 2].all fun b => goes (s (cmd (.prop b) (some 0) 0 none)) (.capropRound 0 0) (first (cmd (.prop b) (some 0) 0 none) && decide (0 + 8 * (0 + 1) ≤ 8))) &&
    (let t : State := (onCore (s (cmd load (some 0) 0 none)) fun l => { l with ocyc := 18 })
     goes t (.caloadColumnWrite 0 0) (decide (0 + 18 + 2 * 0 ≤ t.lcNow 0 0) && !malformed (columnOf (coreOf t) ⟨0, 4, 0, 1, 1⟩ 0))) &&
    goes (s (cmd (.val 1023) (some 4) 0 (some 8))) (.clauseCommandEnd 0 0) (first (cmd (.val 1023) (some 4) 0 (some 8))) &&
    goes (s (cmd load (some 0) 1 (some 8))) (.clauseCommandEnd 0 0) (first (cmd load (some 0) 1 (some 8)))) = true := by decide

/-- A level of 1,022, which CADEC makes the last; a free and an assigned variable; a trail of two entries at levels 1 and 2. -/
theorem witness_ClauseCommandEffects :
    let a : ClauseArray := { clause0 with level := 1022 }
    let b : ClauseArray := ({ clause0 with level := 2 } : ClauseArray).assign 1023 1 0x1000
    recordVal (a.rowOf (field 0x3FF 9 0)) = 0 ∧ a.level < 1023 ∧ recordVal (b.rowOf (field 0x3FF 9 0)) ≠ 0 ∧ 1 < b.level ∧ b.level ≤ 2 ∧
    (b.trail[0]?).map (·.1) = some 1023 ∧ b.trail.length ≤ 1 := by decide

/-- An overflow list that begins at 64; a JOIN at zero, at JSWAP and swapped out; a cancelled strand; a launch parked for 65,536 owner cycles. -/
theorem witness_DistributorJoinAndCancelSteps :
    let far (s : State) : State := onCore s fun l => { l with ocyc := 65544 }
    let list := onOwner ctl fun w => { w with lovf := 64 }
    let reading := onOwner ctl fun w => { w with lovf := 64, dist := { w.dist with read := some (64, 8) } }
    let join := stalled mine (.join x0) [0] ctl
    let pending := onOwner join fun w => { w with jswap := 8, snap := [(0, ⟨1, 0, 3, none, false⟩)] }
    let out := onStrand join fun t => { t with res := .out, joinOut := true }
    let cancelled := onStrand ctl fun t => { t with quietBy := some 8 }
    let parked := onOwner (far ctl) fun w => { w with launches := [⟨0, launchRecOf [], false, none, 0, 1, none, some 8⟩] }
    let strand (s : State) (P : Strand → Bool) : Bool := (s.strand? me).any P
    (goes list (.distributorStep 0) ((list.owner? 0).any fun w => list.distAct w 8 == some (.read 64) && decide (w.dist.next ≤ 8)) &&
    goes reading (.overflowRecordRead 0) ((reading.owner? 0).any fun w => w.dist.read == some (64, 8) && decide (reading.ownerNow 0 = some 8)) &&
    goes join (.joinObserveZero me) ((join.owner? 0).any fun w => (w.before 0).count == 0) &&
    goes pending (.joinSwapOut me) ((pending.owner? 0).any (fun w => decide (w.jswap ≠ 0 ∧ 0 + w.jswap.toNat ≤ 8) && (w.before 0).count != 0) &&
      decide (pending.swapped 0 0 < 32) && strand pending fun t => pending.quietAt t (some 70) && t.quietBy.isNone) &&
    goes out (.joinSwapIn me) (strand out (fun t => out.roomFor t && t.joinOut) && (out.owner? 0).any fun w => (w.before 0).count == 0) &&
    goes cancelled (.cancelStrandStop me) (strand cancelled fun t => t.quietBy.isSome && !t.killed && cancelled.quietAt t none) &&
    goes cancelled (.cancelQtimeoutKill me) (strand cancelled fun t => decide (8 ≤ cancelled.lcNow 0 0 ∧ t.cst ≠ .exited)) &&
    goes parked (.strandedDetect 0 0) ((parked.owner? 0).any fun w => (w.launches.find? fun l => l.lrec.comp == 0 && l.parked.isSome).any fun l =>
      l.parked == some 8 && decide (8 + 65536 ≤ 65544))) = true := by decide

/-- A trap in place with no result left to wait for; a trap record due, and counted; a control stream that has stood for 2^24 owner cycles; the
phases of a pre-emption at their ends; an INTR record due, and counted; a freeze that is over; slot 4 of a turn; the deal of a core cycle. -/
theorem witness_TrapPreemptAndFreezeSteps :
    let strand (s : State) (P : Strand → Bool) : Bool := (s.strand? me).any P
    let trapped := onStrand ctl fun t => { t with ctl := { t.ctl with trap := some ⟨⟨0x0C, 0, 0, 0xF⟩, .entry, 0, 0⟩ } }
    let record (put : Bool) : State := onOwner (onCore ctl fun l => { l with trecs := [⟨9, me, 1, [1, 2, 3, 4, 5, 6, 7, 8], 8, put⟩] }) fun w => { w with
      parkbase := 0x10000 }
    let stored (s : State) : Bool := (s.owner? 0).any fun w => s.queueFull w == some false && (s.queuePa w 128).isSome && (s.queuePa w 0).isSome &&
      !w.freezes.contains (.record 9) && decide (w.tput % 2044 = 0)
    let long := onCore ctl fun l => { l with ocyc := 2 ^ 24 }
    let pre (p : PreemptPhase) : State := { onOwner ctl fun w => { w with preempt := some ⟨[(0, 0)], true, p, 0⟩ } with turn := none }
    let intr (put : Bool) : IntrRec := ⟨9, me, 8, 0, 7, 0, 5, put⟩
    let notes (put : Bool) : State := { ctl with intrs := [intr put] }
    let slot (n : Nat) : State := { ctl with turn := some ⟨0, 0, 0, n, false, false⟩ }
    (goes trapped (.trapInPlaceEntry me) (strand trapped fun t => t.ctl.trap == some ⟨⟨0x0C, 0, 0, 0xF⟩, .entry, 0, 0⟩ && t.ctl.res.all (·.written)) &&
    goes (record false) (.trapRecordStore 9) (stored (record false)) && goes (record true) (.trapRecordStore 9) (stored (record true)) &&
    goes long (.watchdogTrap me) (strand long fun t => t.ctl.wait == none && t.ctl.trap == none && t.cst == .run && (long.longWlget t (2 ^ 24)).isNone &&
      !long.fenceOnParked t && (match long.nextInstr me t.ctl.pc with
        | some (.join _) => false
        | _ => true) && decide (t.ctl.stood + 2 ^ 24 ≤ long.lcNow 0 0)) &&
    goes (pre (.quiet 8)) (.preemptQuietEnd 0) ((pre (.quiet 8)).atIndexEnd 0 && decide ((pre (.quiet 8)).ownerNow 0 = some 8)) &&
    goes (pre (.drain 0)) (.preemptDrainEnd 0) ((pre (.drain 0)).atIndexEnd 0) && goes (pre (.save [(0, 0)])) (.preemptSaveEnd 0) true &&
    goes (notes true) (.intrRecordStore 9) ((match { ctl with intrs := [] }.logPublish 0 with
      | .ok _ => true
      | .error _ => false) && decide (8 ≤ (notes true).lcNow 0 0)) &&
    goes (notes false) (.intrRecordStore 9) (match { ctl with intrs := [] }.logPlace ⟨0, 9, 7, 0, 0, [5]⟩ with
      | .ok (_, true) => (notes false).log == [] && !(notes false).intrHeld (intr false)
      | _ => false) &&
    (let s := onOwner ctl fun w => { w with freezes := [.overdue 99] }
     goes s (.ownerFreezeEnd 0) ((s.owner? 0).any fun w => w.freezes.any fun f => s.freezeOver w f)) &&
    goes (slot 4) (.windowCommitPoint 0 0) ((slot 4).lcore? 0 0).isSome && goes (slot 5) (.coreCycle 0) (decide ((slot 5).coreNow = 0)) &&
    (let s := { slot 4 with lcores := [] }
     goes s (.coreCycle 0) ((s.lcore? 0 0).isNone && decide (s.coreNow = 0))) &&
    goes State.reset (.coreCycle 0) (State.reset.turn == none && decide (State.reset.coreNow = 0))) = true := by decide

/-- A command of OP `op` with the first bytes of its body. -/
def command (op : Byte) (body : List Byte) : Command := (op :: List.replicate 7 0) ++ body ++ List.replicate (120 - body.length) 0

/-- Each command taken from owner 0's queue 0; with the body that it asks for, and for owner 62, who is not there. -/
theorem witness_CommandsActAndEnd :
    let taken (c : Command) (s : State) : State := { s with dev := { s.dev with queues := s.dev.queues.map fun x => if x.num = 0 then { x with taken := some c } else x } }
    let runs (s : State) (f : Command → Instr) (op : Byte) (body : List Byte) : Bool :=
      let c := command op body
      goes (taken c s) (f c) ((taken c s).taken? 0 op.toNat c == some 0 && ((taken c s).owner? 0).isSome)
    let s := State.reset
    let bare := { s with cores := [], lcores := [] }
    let queued (c : Command) : State := { s with dev := { s.dev with queues := [⟨0, 3, some 3, [c], 0, none, none⟩] } }
    (runs s (.hostLaunch 0) 0x01 [0, 0, 0, 0, 0, 0, 0, 0, 1] && runs s (.hostOpen 0) 0x02 [1, 0, 0, 0, 5] && runs s (.hostClose 0) 0x03 [0, 0, 0, 0, 5] &&
    runs s (.hostCancel 0) 0x04 [0, 0, 0, 0, 0, 16] && runs s (.hostCancel 0) 0x04 [0, 0, 0, 0, 5] && runs s .ocreate 0x10 [] && runs s .odestroy 0x12 [62] &&
    runs s .load 0x13 [0, 0, 0, 0, 0, 0, 0, 0, 0, 0, 0, 0, 0, 0, 0, 0, 4] && runs s .restore 0x15 [62] && runs s .pause 0x17 [] && runs s .resume 0x18 [] &&
    runs s .rota 0x19 [1, 0, 0, 0, 0, 0, 0, 0, 0xC0, 0xFF] && runs s .resolve 0x1A [0, 1] && runs s .unmap 0x1B [62] && runs s .clearboot 0x1D [11] &&
    runs s .stats 0x1C [] && runs s .oreset 0x11 [62] && runs bare .oreset 0x11 [] && runs s .preempt 0x14 [62] &&
    runs s .preempt 0x14 [0, 1, 1] && runs s .swap 0x16 [1, 0, 1] && runs s .swap 0x16 [] &&
    goes s (.enqueue 0 4 (command 0x17 [])) (s.dev.on && enqueueRejects (s.owners.find? fun w => w.orec.asid == 0) 4 (command 0x17 [])) &&
    goes s (.enqueue 0 3 (command 0x17 [])) (!enqueueRejects (s.owners.find? fun w => w.orec.asid == 0) 3 (command 0x17 [])) &&
    goes (queued (command 0x17 [])) (.commandTake 0) (((queued (command 0x17 [])).owner? 0).any fun w =>
      ((queued (command 0x17 [])).nextQueue w).map (·.num) == some 3 && (queued (command 0x17 [])).mayTake w)) = true := by decide

/-- A transfer without a reply, a peer entry that names its initiator, a full mask, the currents at and beyond their limits. -/
theorem witness_DeviceEventSteps :
    let s := State.reset
    let t : Transfer := ⟨9, 50, 0, 0, false, 7, 3, 0, 5, 0x1000, 4, [], some 0, none⟩
    let send : State := { s with transfers := [t], dcyc := 85000 }
    let pkt (kind : Nat) : Packet := packet 7 kind 4 5 0 0 2 0x1000 (if kind = 1 then [] else [1, 2, 3, 4])
    let bad (kind : Nat) : Packet := { pkt kind with crc := (pkt kind).crc + 1 }
    let peer := onOwner { s with mem := [(0x20000, 7), (0x20010, 1)] } fun w => { w with orec := { w.orec with peers := 0x20000, npeer := 1 } }
    let amps (a : Nat) (off : Bool) : State := { s with dcyc := 850000, dev := { s.dev with amps := a, withheld := some 0, powerOff := off } }
    let tile := tileOf .allocated ctl
    (goes s .correctedError true &&
    goes tile (.storageErrorKill (.tile 0 0 0 1)) (((tile.chargedTo (.tile 0 0 0 1)).1.bind tile.group?).any fun g => !g.killed) &&
    goes ctl (.storageErrorKill (.tile 0 0 0 1)) ((ctl.chargedTo (.tile 0 0 0 1)).1 == none) &&
    goes s (.errorCountPoll [⟨7, 31, 15, [1, 1, 1, 1]⟩] [5]) true && goes s (.refreshSkip 3 0xFFFFFFFFFFFFFFFF) true && goes s (.kwayrLinkRetrain false) true &&
    goes s (.remoteRequestReceive (bad 1)) (s.dev.on && !packetGood (bad 1)) &&
    ([(3, .remoteReplyReceive (bad 3)), (4, .remoteReplyReceive (bad 4)), (5, .nackReceive (bad 5))] : List (Nat × Instr)).all (fun r =>
      goes s r.2 (!packetGood (bad r.1) && s.replyTo (bad r.1) == none) && goes send r.2 (!packetGood (bad r.1) && send.replyTo (bad r.1) == some t)) && goes s (.remoteRequestReceive (packet 7 2 4 5 0 62 2 0x1000 [1, 2, 3, 4])) ((s.owner? 62).isNone && packetGood (packet 7 2 4 5 0 62 2 0x1000 [1, 2, 3, 4])) &&
    (let t : State := { peer with remotes := [⟨9, 0, 1, pkt 1⟩] }
     (t.remotes.find? fun q => q.id == 9) == some ⟨9, 0, 1, pkt 1⟩ && decide ((pkt 1).addr.toNat % 4 = 0 ∧ (pkt 1).addr.toNat + (pkt 1).len ≤ 2 ^ 56)) &&
    goes peer (.remoteRequestReceive (pkt 1)) (packetGood (pkt 1) && (peer.owner? 0).any fun w => peer.peerOf w 7 0 == some 0 && match peer.remotePlaces w false [0x1000] with
      | .ok _ => true
      | .error _ => false) &&
    goes send (.remoteReplyReceive (pkt 3)) (packetGood (pkt 3) && send.replyTo (pkt 3) == some t) && goes send (.remoteReplyReceive (pkt 4)) (packetGood (pkt 4) && send.replyTo (pkt 4) == some t) &&
    goes send (.nackReceive (pkt 5)) (packetGood (pkt 5) && send.replyTo (pkt 5) == some t) &&
    goes send (.remoteTimeout 9) ((send.owner? 0).any fun w => decide (0 + w.rtmo.toNat ≤ send.dcyc)) && goes send (.transferResend 9) (t.sentAt.isSome && t.reply == none) &&
    goes { s with dev := { s.dev with on := false } } (.powerOn bootAll) true && goes s (.powerOn bootAll) s.dev.on && goes { s with dev := { s.dev with loader := true } } (.recoveryImageReceive true) true &&
    goes s (.coreRailOvercurrent 6001) s.dev.on && goes (amps 6001 false) (.tailwaterWithholdEnd 6000) true && goes (amps 6001 false) .powerFault true &&
    goes (amps 6001 true) (.powerRecover 5399) true) = true := by decide

/-- A count at the threshold. -/
theorem witness_DeviceEventSteps_rfm : ∃ n, Config.rfmThreshold (0 / 512) / 2 ^ State.reset.dev.fabric.flen ≤ n ∧
    ∃ t, exec (.rfmCommand 0 0 n) State.reset = .next t := ⟨_, Nat.le_refl _, _, if_neg (by simp [State.tailOwner, State.untimed]; decide)⟩

/-- Each row of the engine's clocks, streams, strands, swaps and rotas, in a state in which it is due: the states of the statements on single
families, and the arrival of an entry. -/
theorem witness_CoreStepsComplete : (type_of% witness_WaitingInstructionsIssueAgain) ∧ (type_of% witness_SetsTakeTokensAndDeadlocksTrap) ∧
    (type_of% witness_ResultsAreWrittenWhenDue) ∧ (type_of% witness_StrandLifeSteps) ∧ (type_of% witness_RotaAndRegisterWritesFromOutside) ∧
    (type_of% witness_SwapPhasesFollowItsTurns) ∧ (type_of% witness_TrapPreemptAndFreezeSteps) ∧
    goes (rqOf 1 false ctl) (.returnQueueEntryArrive me) ((rqOf 1 false ctl).strands.any fun t =>
      (t.rq.findIdx? fun e => !e.here && decide (e.enters ≤ (rqOf 1 false ctl).lcNow 0 0)).isSome) = true :=
  ⟨witness_WaitingInstructionsIssueAgain, witness_SetsTakeTokensAndDeadlocksTrap, witness_ResultsAreWrittenWhenDue, witness_StrandLifeSteps,
    witness_RotaAndRegisterWritesFromOutside, witness_SwapPhasesFollowItsTurns, witness_TrapPreemptAndFreezeSteps, by decide⟩

/-- Each row of tiles, copies, arrays, memory, launches, events and commands, in a state in which it is due: the states of the statements on
single families; a pre-emption whose strands are quiet; an RFM command that takes a released window. -/
theorem witness_EngineEventAndCommandStepsComplete : (type_of% witness_TileCopyMatrixAndWaitSteps) ∧ (type_of% witness_MemorySideSteps) ∧
    (type_of% witness_ClauseArraySteps) ∧ (type_of% witness_DistributorJoinAndCancelSteps) ∧ (type_of% witness_TrapPreemptAndFreezeSteps) ∧
    (type_of% witness_DeviceEventSteps) ∧ (type_of% witness_RotaAndRegisterWritesFromOutside) ∧ (type_of% witness_CommandsActAndEnd) ∧
    (let s (p : Preempt) : State := { onOwner ctl fun w => { w with preempt := some p } with turn := none }
     let p : Preempt := ⟨[(0, 0)], false, .quiet 9, 0⟩
     goes (s p) (.preemptQuietEnd 0) ((s p).atIndexEnd 0 && (s p).preemptQuiet 0 p)) = true ∧
    ∃ n, Config.rfmThreshold (0 / 512) / 2 ^ State.reset.dev.fabric.flen ≤ n ∧
      ∃ t, exec (.rfmCommand 0 0 n) { State.reset with released := 1 } = .next t :=
  ⟨witness_TileCopyMatrixAndWaitSteps, witness_MemorySideSteps, witness_ClauseArraySteps, witness_DistributorJoinAndCancelSteps,
    witness_TrapPreemptAndFreezeSteps, witness_DeviceEventSteps, witness_RotaAndRegisterWritesFromOutside, witness_CommandsActAndEnd, by decide,
    _, Nat.le_refl _, _, if_neg (by simp; decide)⟩

/-! ### Witnesses: the statements about issuing, trapping, memory, decoding and stepping in general -/

/-- A context, when its stream can issue. -/
def at_ (s : State) (P : Cur → Ctx → Bool) : Bool := s.cur.any fun cur => (ctxAt s cur).any fun c => P cur c

/-- A live strand in its control stream and in a gang set: with a result, without one, with a jump. -/
theorem witness_IssuedInstructionsGoOn : ([ctl, vec].all fun s => at_ s fun cur c => (s.strand? cur.strand).any fun t => !t.killed &&
    (t.stream? cur.set).isSome && (c.fill (.reg 1) [7] != [])) = true := by decide

/-- The opcodes at both ends of both ranges. -/
theorem witness_ComputingInstructionsChangeNoState : ([.mov o3, .ixwr ⟨.none, .reg 1, .reg 2⟩, .cmp xg .s32 .lt, .lred xg .s32 .add, .rnd xg] : List Instr).all
    (fun i => let op := (fieldsOf i).op
      goes vec i (decide ((1 ≤ op ∧ op ≤ 0x21) ∨ (0x40 ≤ op ∧ op ≤ 0x4E)))) = true := by decide

theorem witness_IssuesTouchNoMemoryAndNoOtherOwner :
    (let two : State := { ctl with owners := ctl.owners ++ [ownerNew { ownerZeroRec with owner := 1 }] }
     goes two (.cancel xg .launch) (two.dets == []) && goes two (.st xg mem4) (two.cur == some mine && two.owners.any fun w => w.id != 0) && goes two (.trap 7) true && goes two (.add o3) true) = true ∧
    ([.cancel xg .launch, .st xg mem4, .trap 7, .add o3] : List Instr).all (fun i => decide (i.enc ≠ .none)) = true := by decide

/-- A store, a load and a sum of each size at the window's first bytes; CAS where the word is as compared and where it is not. -/
theorem witness_LaneActsReadAndWriteMemory : (
  let lane : LaneAcc := ⟨0, 0x10000, [0x80000001, 2, 3, 4], .todo, [], 0, 8, 0, []⟩
  let acc (i : Instr) : Acc := ⟨9, me, none, 1, 0, 0, i, [lane], some ⟨0, true, none, 0x10000, 256, pageOf 1⟩, false, 8, 0, false, false, false, 0⟩
  let s (i : Instr) : State := { ctl with accs := [acc i], mem := [(0x10003, 0x80)] }
  let ready (i : Instr) : Bool := decide ((acc i).due ≤ (acc i).now (s i)) && !(s i).accWaits (acc i) && (s i).laneFree (acc i) lane &&
    (match checkLane (s i) (acc i) 0x10000 with
     | .ok (.dev pa _) => !anyPoison (s i) pa (accSize i)
     | _ => false) && (((s i).owner? 0).any fun w => w.parkbase == 0) && memWf (s i).mem
  (([Size.b1, .b2, .b4, .b8, .b16].flatMap fun z => [Instr.st x0 { mem4 with size := z }, .ld x0 { mem4 with size := z }]) ++
    [Instr.atom x0 .add mem4, .atom x0 .xchg { mem4 with size := .b8 }]).all (fun i => goes (s i) (.memoryAccessAct 9) (ready i)) &&
  (let i : Instr := .atom x0 .cas mem4
   let t : State := { s i with mem := [(0x10000, 1), (0x10003, 0x80)] }
   goes (s i) (.memoryAccessAct 9) (ready i && (s i).num 0x10000 4 != wordsNat (lane.data.take 1)) &&
   goes t (.memoryAccessAct 9) (t.num 0x10000 4 == wordsNat (lane.data.take 1) && memWf t.mem))) = true := by decide


/-- Full words for a waiting and a consuming load of one and of four words, and an empty one; empty words for a filling store, and a full one; a
block; a word that differs and one that does not, at the first and the last attempt; a WAKE without and with a park area, of a lane that waits. -/
theorem witness_LaneActsReadAndWriteMemory_fullEmpty : (
  let lane (c : Word) : LaneAcc := ⟨0, 0x10000, [c, 2, 3, 4], .todo, [], 0, 8, 0, []⟩
  let acc (i : Instr) (c : Word) : Acc := ⟨9, me, none, 1, 0, 0, i, [lane c], some ⟨0, true, none, 0x10000, 256, pageOf 1⟩, false, 8, 0, true, false, false, 0⟩
  let s (i : Instr) (c : Word) (es : List Nat) : State := { ctl with accs := [acc i c], mem := [(0x10003, 0x80)], empties := es }
  let ready (i : Instr) (c : Word) (es : List Nat) (P : State → Nat → List Nat → Bool) : Bool := let t := s i c es
    goes t (.memoryAccessAct 9) (decide (8 ≤ (acc i c).now t) && !t.accWaits (acc i c) && t.laneFree (acc i c) (lane c) &&
      (match checkLane t (acc i c) 0x10000 with
       | .ok (.dev pa _) => !anyPoison t pa (accSize i) && P t pa ((wordsIn pa (accSize i)).map fun k => pa / 4 + k / 4)
       | _ => false) && ((t.owner? 0).any fun w => w.parkbase == 0) && memWf t.mem)
  let full (want : Bool) (t : State) (_ : Nat) (ws : List Nat) : Bool := ws.all fun k => t.isFull k == want
  let wrong (want : Bool) (t : State) (_ : Nat) (ws : List Nat) : Bool := ws.any fun k => t.isFull k == !want
  let m (z : Size) (f : Fef) : MemMod := { mem4 with size := z, fef := f, budget := 15 }
  let word := [0x4000, 0x4001, 0x4002, 0x4003]
  ([Size.b1, .b4, .b16].all fun z =>
    ([Fef.waiting, .consuming].all fun f => ready (.ld x0 (m z f)) 1 [] (full true) && ready (.ld x0 (m z f)) 1 [0x4000] (wrong true)) &&
    ready (.st x0 (m z .filling)) 1 word (full false) && ready (.st x0 (m z .filling)) 1 [] (wrong false)) &&
  ready (.feget x0 (m .b4 .plain)) 0 word (fun _ _ _ => true) && ready (.wake x0 (m .b4 .plain)) 1 [] (fun _ _ _ => true) &&
  ready (.waita x0 (m .b4 .plain)) 1 [] (fun t pa _ => BitVec.ofNat 32 (t.num pa 4) != (1 : Word)) &&
  (let i : Instr := .waita x0 (m .b4 .plain)
   let t : State := { s i 0x80000000 [] with accs := [{ acc i 0x80000000 with lanes := [{ lane 0x80000000 with data := [0x80000000] }] }] }
   goes t (.memoryAccessAct 9) (BitVec.ofNat 32 (t.num 0x10000 4) == (0x80000000 : Word))) &&
  (let i : Instr := .wake x0 (m .b4 .plain)
   let parks := onOwner (s i 1 []) fun w => { w with parkbase := 0x20000 }
   match parks.bucketAt 0 0x10000 with
   | .at_ b => let t := parks.putBucket b [⟨3, 0x10000, 0, 0, 256, 5⟩]
     let r : Acc := { acc i 1 with id := 10, lanes := [0, 2].map fun k => { lane 1 with lane := k, st := .parked 0x10000 3 } }
     let some_ : State := { t with accs := t.accs ++ [r] }
     ([(t, (0 : Word)), (some_, 2)].all fun y => (match attemptLane y.1 (acc i 2) (lane 2) with
      | .ok _ v _ => v == [y.2]
      | _ => false) && (y.1.bucket b).all (fun q => q.lanes != 0) && (bitsOf 32 5).all fun k =>
        y.1.isParkedAt 0 ⟨3, 0x10000, 0, 0, 256, 5⟩ k == (y.2 == 2)) && (t.bucket b).length == 1
   | _ => false)) = true := by decide

/-- Attempts that succeed: a load, a store within its word without and with a park area, an ATOM. -/
theorem witness_OnlyStoresAndAtomsChangeBytes :
    let lane : LaneAcc := ⟨0, 0x10000, [0x80000001, 2, 3, 4], .todo, [], 0, 8, 0, []⟩
    let acc (i : Instr) : Acc := ⟨9, me, none, 1, 0, 0, i, [lane], some ⟨0, true, none, 0x10000, 256, pageOf 1⟩, false, 8, 0, false, false, false, 0⟩
    let parks := onOwner ctl fun w => { w with parkbase := 0x20000 }
    (([ctl, parks].all fun s => ([.ld x0 mem4, .st x0 mem4, .atom x0 .add mem4] : List Instr).all fun i =>
      (match attemptLane s (acc i) lane with
       | .ok .. => memWf s.mem && (s.owner? 0).isSome
       | _ => false) && (match checkLane s (acc i) lane.va with
       | .ok (.dev _ _) => true
       | _ => false) && decide (lane.va % 4 + accSize i ≤ 4)) && (match parks.bucketAt 0 0x10000, ctl.bucketAt 0 0x10000 with
      | .at_ _, .none => true
      | _, _ => false)) = true := by decide

/-- A result not written; TVEC good, zero, off by two and beyond; DEPTH 1; with and without a park area. -/
theorem witness_TrapEntrySavesAndRedirects :
    let trap : Trapped := ⟨⟨0x0C, 0, 5, 0xF⟩, .entry, 0, 0⟩
    let s (tvec : Word) (depth : Nat) (base : DWord) : State := onStrand (onOwner ctl fun w => { w with tvec := tvec, parkbase := base }) fun t => { t with
      depth := depth, ctl := { t.ctl with trap := some trap } }
    let late := onStrand (s 4 0 0) fun t => { t with ctl := { t.ctl with res := [⟨5, [1], false, 0, false⟩] } }
    ((match exec (.trapInPlaceEntry me) late with
      | .fault .notEnabled => true
      | _ => false) &&
    ([s 0x3FFFC 0 0, s 0 0 0, s 2 0 0, s 0x40000 0 0, s 4 1 0, s 4 1 0x10000].all fun s => goes s (.trapInPlaceEntry me) ((s.strand? me).any fun t =>
      t.ctl.trap == some trap && t.ctl.res.all (·.written)))) = true := by decide

/-- ERET, HGATE, SRD and SWR below their level and at it. -/
theorem witness_PrivilegeLevelsAreEnforced :
    let s (p : Nat) : State := onStrand ctl fun t => { t with priv := p }
    (([(.eret x0, 1), (.eretDispose xg, 1), (.hgate x0, 2), (.srd x0 0x100, 2), (.swr x0 0x025, 2), (.swr x0 0x010, 1), (.srd x0 0x010, 1)] : List (Instr × Nat)).all fun r =>
      goes (s (r.2 - 1)) r.1 (at_ (s (r.2 - 1)) fun _ c => streamOk (fieldsOf r.1) c.isCtl && decide (c.t.priv < r.2)) &&
      goes (s r.2) r.1 (at_ (s r.2) fun _ c => streamOk (fieldsOf r.1) c.isCtl && decide (r.2 ≤ c.t.priv) && decide (r.1.enc ≠ .none))) = true := by decide

/-- A vector instruction in the control stream; the first register beyond the count; an open window; a guard that fails, for an untimed owner's
instruction of cost 2 in both halves too. -/
theorem witness_IssueChecksAndGuards :
    let open_ := onStrand ctl fun t => { t with ctl := { t.ctl with res := [⟨5, [119], true, 3, false⟩] } }
    let failed : XOps := { xg with g := .on .zero false }
    let passes (i : Instr) (c : Ctx) : Bool := streamOk (fieldsOf i) c.isCtl && privOk i c.t.priv
    (goes ctl .vend (at_ ctl fun _ c => !streamOk (fieldsOf .vend) c.isCtl) &&
    goes (onStrand ctl fun t => { t with n := 119 }) (.add o3) (at_ (onStrand ctl fun t => { t with n := 119 }) fun _ c => passes (.add o3) c &&
      ((fieldsOf (.add o3)).writes ++ (fieldsOf (.add o3)).reads).find? (fun r => decide (c.t.n ≤ r)) == some 119) &&
    goes open_ (.add o3) (at_ open_ fun _ c => passes (.add o3) c && (rangeError c (.add o3)).isNone) &&
    goes ctl (.sel failed) (at_ ctl fun _ c => (issueError c (.sel failed)).isNone && !c.guard (fieldsOf (.sel failed)).g 0) &&
    [false, true].all fun h =>
      let slow := onOwner (onStrand ctl fun t => { t with ctl := { t.ctl with half := h } }) fun w => { w with orec := { w.orec with untimed := true } }
      goes slow (.ex2 failed .fast) (slow.untimed 0 && at_ slow fun _ c => (issueError c (.ex2 failed .fast)).isNone && c.str.half == h &&
        !c.guard (fieldsOf (.ex2 failed .fast)).g 0)) = true := by decide

/-- An ADD at the address of the strand, and a word of opcode 0. -/
theorem witness_StepRunsTheDecodedInstruction :
    let ready (s : State) : Bool := s.arrived.isNone && s.dev.on && (s.firstDue (s.deviceRows ++ s.indexRows)).isNone && s.turn.any fun tn => decide (tn.slot ≤ 2) &&
      (s.lcore? tn.owner tn.lc).any fun l => (s.firstDue (s.lcoreRows l)).isNone && (s.pick l tn.slot).any fun cur => (ctxAt s cur).any fun c => c.str.wait.isNone
    let good := State.reset.withFetchWord 32 0x0308120C
    let bad := State.reset.withFetchWord 32 0xFC
    (ready good && ready bad && (match decode (codeWords good 0 0 5) with
      | .ok (i, _) => i == .sub ⟨.reg 9, .reg 8, .reg 6⟩
      | .error _ => false) && (match decode (codeWords bad 0 0 5) with
      | .error (.illegal _ _) => true
      | _ => false)) = true := by decide

theorem witness_DecodeInvertsEncode : WellFormed (.sel { x1234 with g := .on (.reg 7) true, c := .lit 0xFFFFFFFF }) = true := by decide

/-- A step from reset, and one from memory that lists a byte. -/
theorem witness_StepsKeepMemoryCanonical : (let s : State := { State.reset with mem := [(0, 1), (5, 2)] }
    ([State.reset, s].all fun s => memWf s.mem && memWf s.hostMem && match step s with
      | .next _ => true
      | _ => false)) = true := by decide

/-- A package that is up; one that is down with an event to come; one that is down for good. -/
theorem witness_TheMachineGoesOn : (let off : State := { State.reset with dev := { State.reset.dev with on := false } }
    let event : State := { off with inputs := [(0, .powerOn bootAll)] }
    (match step State.reset with
     | .next _ => true
     | _ => false) && (match step event with
     | .next _ => !event.dev.on
     | _ => false) && (match step off with
     | .fault .notEnabled => true
     | _ => false)) = true := by decide

/-! ### Results of single steps: the worked examples of spec/12 to spec/15, by their words -/

/-- What an instruction's result will write in a lane, as (register, value). -/
def outcome (s : State) (i : Instr) (lane : Nat) : List (Nat × Word) := match exec i s with
  | .next t => ((t.strand? me).bind fun u => u.pends.getLast?).elim [] fun p => (p.writes.filter fun w => w.2.1 == lane).map fun w => (w.1, w.2.2)
  | _ => []

/-- The instruction of a word, its inputs in lane 0 and its result there. -/
def gives (nbits w : Nat) (ins outs : List (Nat × Word)) : Bool := (decodeTableWord nbits w).any fun i => outcome (regs ctl ins) i 0 == outs

/-- R360 to R447: ABS, ADDW, ANDN, XOR, SUB's wrap, MIN.s32, MIN.n32. -/
theorem test_integer_results : (gives 32 0x3D81062C [(1, 0xFFFFFFF9)] [(3, 7)] && gives 32 0x03040874 [(4, 0xFFFFFFFF), (6, 1)] [(4, 0), (5, 1)] &&
    gives 32 0x0788103C [(8, 0x2A), (15, 0xC)] [(8, 0x22)] && gives 32 0x01010638 [(1, 0x0F0F00FF), (2, 0x00FF0F0F)] [(3, 0x0FF00FF0)] &&
    gives 32 0x0308120C [(8, 1), (6, 2)] [(9, 0xFFFFFFFF)] && gives 32 0x0101061C [(1, 0xFFFFFFFF), (2, 1)] [(3, 0xFFFFFFFF)] &&
    gives 32 0x01010620 [(1, 0xFFFFFFFF), (2, 1)] [(3, 1)]) = true := by decide

/-- BREV, CLZ, POPC, PRMB, ROT, SRA, SHL, SHR. -/
theorem test_bit_results : (gives 32 0x3D810458 [(1, 1)] [(2, 0x80000000)] && gives 32 0x3D810454 [(1, 0x10000)] [(2, 15)] &&
    gives 32 0x3D810450 [(1, 0xF3)] [(2, 6)] && gives 32 0x0101065C [(1, 0x11223344), (2, 0x123)] [(3, 0x44332211)] &&
    gives 64 0x000000083C01064D [(1, 0x11223344)] [(3, 0x22334411)] && gives 64 0x000000043C010649 [(1, 0x80000010)] [(3, 0xF8000001)] &&
    gives 64 0x0000000102780A41 [(4, 4)] [(5, 0x10)] && gives 64 0x000000183C091245 [(9, 0x02ABCDEF)] [(9, 2)]) = true := by decide

/-- FADD, FSUB, FMAX, FMIN with a NaN, FMUL of infinity and zero, FFMA.rz, FRND.rd, FCLS.f16, PFMA.bf16's tie to even. -/
theorem test_float_results : (gives 64 0x3FC000003C010661 [(1, 0x3F800000)] [(3, 0x40200000)] && gives 32 0x01010664 [(1, 0xC1200000), (2, 0xC1200000)] [(3, 0)] &&
    gives 32 0x01010670 [(2, 0x80000000)] [(3, 0)] && gives 32 0x0101066C [(1, 0x7FC00001), (2, 0x3F800000)] [(3, 0x3F800000)] &&
    gives 32 0x01010668 [(1, 0x7F800000)] [(3, 0x7FC00000)] &&
    gives 96 0x0000000100113D8301010B1A [(1, 0x3F800001), (2, 0x3F7FFFFE), (3, 0xBF800000)] [(5, 0xA8800000)] &&
    gives 96 0x0000000300103DFB3D820726 [(2, 0xC0200000)] [(3, 0xC0400000)] && gives 96 0x0000000000183DFB3D82071E [(2, 1)] [(3, 0x20)] &&
    gives 96 0x0000000000203D8301010B2A [(1, 0x40003F80), (2, 0x3F803F81), (3, 0x3F803B80)] [(5, 0x40403F82)]) = true := by decide

/-- DIV.s32, MAD.n32, BFX.s32, CMP under a guard, SEL. -/
theorem test_select_results : (gives 96 0x0000000000003DFB0101090E [(1, 0xFFFFFFF9), (2, 2)] [(4, 0xFFFFFFFD), (5, 0xFFFFFFFF)] &&
    gives 96 0x0000000000083D8301010D0A [(1, 0x10000), (2, 0x10001), (3, 5)] [(6, 0x10005)] &&
    gives 160 0x00000000000004040000000000003DFB3C010713 [(1, 0xA5F0)] [(3, 0xFFFFFFFF)] &&
    gives 96 0x00000000010043FB01011302 [(1, 0xFFFFFFFF), (2, 1)] [(9, 0xFFFFFFFF)] &&
    gives 96 0x0000000000003D8901010706 [(1, 7), (2, 8), (9, 0xFFFFFFFF)] [(3, 7)]) = true := by decide

/-- The special functions, in the grade of the word: EX2.fast, ERF, LG2, RCP, RSQ.fast, SIGM, SIN, SQT, TANH, and COS in both. -/
theorem test_special_results : (gives 96 0x0000000000103DFB3D82072E [(2, 0x40400000)] [(3, 0x41000000)] && gives 96 0x0000000104903DFB3D82072E [(2, 0x7F800000)] [(3, 0x3F800000)] &&
    gives 96 0x0000000100903DFB3D82072E [(2, 0x41000000)] [(3, 0x40400000)] && gives 96 0x0000000101103DFB3D82072E [(2, 0x40800000)] [(3, 0x3E800000)] &&
    gives 96 0x0000000001903DFB3D82072E [(2, 0x40800000)] [(3, 0x3F000000)] && gives 96 0x0000000104103DFB3D82072E [] [(3, 0x3F000000)] &&
    gives 96 0x0000000102903DFB3D82072E [(2, 0x3F000000)] [(3, 0x3F800000)] && gives 96 0x0000000102103DFB3D82072E [(2, 0x40100000)] [(3, 0x3FC00000)] &&
    gives 96 0x0000000103903DFB3D82072E [(2, 0x80000000)] [(3, 0x80000000)] && gives 96 0x0000000003103DFB3D82072E [(2, 0x3EAAAAAB)] [(3, 0x3F000000)] &&
    gives 96 0x0000000103103DFB3D82072E [(2, 0x3EAAAAAB)] [(3, 0x3EFFFFFF)]) = true := by decide

/-- NDOT.s, NPACK.s.sat, NSUB, RND. -/
theorem test_narrow_results : (gives 96 0x0000002801803D8301010932 [(1, 0x0102FF04), (2, 0x02020202), (3, 100)] [(4, 0x70)] &&
    gives 96 0x0000046803003DFB01010732 [(1, 0x0102FF80), (2, 0x64)] [(3, 0x000712F8)] &&
    gives 96 0x0000001000803DFB01010732 [(1, 0x10000), (2, 1)] [(3, 0x0001FFFF)] &&
    gives 96 0x0000000000003DFB0304073A [(6, 1)] [(3, 0x938D00FC)]) = true := by decide

/-- LRED.fadd's tree in the four control lanes; exclusive SCAN and VOTE.ballot of a gang of one slice with block mask 0xB. -/
theorem test_lane_results :
    let four : State := onStrand ctl fun t => { t with cregs := tblSets 0 [] [(8, 0x3F800000), (9, 0x4B800000), (10, 0x3F800000), (11, 0x3F800000)] }
    let gang (l : List Word) : State := onSet (onStrand vec fun t => { t with slices := 1, bmask := 0xB, vregs := tblSets 0 [] ((List.range 4).map fun k => (64 + k, l.getD k 0)) })
      fun g => { g with slices := [0] }
    (((decodeTableWord 96 0x0000000601903DFB3D820736).any fun i => (List.range 4).map (outcome four i) == List.replicate 4 [(3, 0x4B800001)]) &&
    ((decodeTableWord 96 0x0000000801003DFB3D820736).any fun i => (List.range 4).map (outcome (gang [5, 1, 7, 2]) i) == [[(3, 0)], [(3, 5)], [], [(3, 6)]]) &&
    ((decodeTableWord 96 0x0000000000803DFB3D820736).any fun i => (List.range 4).map (outcome (gang [5, 0, 7, 2]) i) == [[(3, 9)], [(3, 9)], [], [(3, 9)]])) =
      true := by decide

/-- CALL at 0x40 writes 0x48 and goes to 0x100; BRA at 0x10 goes to 0x08 (R370, R372). -/
theorem test_control_results :
    let at_ (a : Word) : State := onStrand ctl fun t => { t with ctl := { t.ctl with pc := a } }
    let goesTo (s : State) (nbits w : Nat) : Option Word := (decodeTableWord nbits w).bind fun i => match exec i s with
      | .next t => (t.strand? me).map (·.ctl.pc)
      | _ => none
    goesTo (at_ 0x40) 64 0x000000303C7B2891 = some 0x100 ∧ (decodeTableWord 64 0x000000303C7B2891).any (fun i => outcome (at_ 0x40) i 0 == [(20, 0x48)]) = true ∧
      goesTo (at_ 0x10) 32 0x3FFFFC88 = some 0x08 ∧ goesTo (regs ctl [(20, 0x48)]) 32 0x3D94F694 = some 0x48 := by decide

/-- TRAP #0x1234 at 0x40 (R296 to R299): the control stream stops with its cause and address, and in-place entry saves them. -/
theorem test_trap_entry :
    let s := onOwner (onStrand ctl fun t => { t with ctl := { t.ctl with pc := 0x40 } }) fun w => { w with tvec := 0x100 }
    ((decodeTableWord 32 0x1A24F6B0).any fun i => match exec i s with
      | .next t => match exec (.trapInPlaceEntry me) t with
        | .next u => (u.strand? me).any fun v => v.tcause == 0x12 && v.tpc == 0x40 && v.tmask == 0xF && v.taddr == 0x1234 && v.priv == 1 && v.ctl.pc == 0x100
        | _ => false
      | _ => false) = true := by decide

/-- A store of 4 bytes and a sign-extending load of 1 (R213, R411): a word stored low byte first; the byte 0x80 as 0xFFFFFF80. -/
theorem test_memory_acts :
    let acc (i : Instr) : Acc := ⟨9, me, none, 1, 0, 0, i, [⟨0, 0x10000, [0x11223344], .todo, [], 0, 8, 0, []⟩], some ⟨0, true, none, 0x10000, 256, pageOf 1⟩, false, 8, 0,
      false, false, false, 0⟩
    let s (i : Instr) : State := { ctl with accs := [acc i], mem := [(0x10000, 0x80)] }
    ((match exec (.memoryAccessAct 9) (s (.st x0 mem4)) with
      | .next t => t.mem == [(0x10000, 0x44), (0x10001, 0x33), (0x10002, 0x22), (0x10003, 0x11)]
      | _ => false) && (match exec (.memoryAccessAct 9) (s (.ld { x0 with d := .reg 2 } { mem4 with size := .b1, sx := true })) with
      | .next t => (t.strand? me).any fun u => u.reg true 2 0 == 0xFFFFFF80
      | _ => false)) = true := by decide

end Sys2Proof.Tests
end

section
/-!
SUPPORT. Rules for looking up a strand, its gang sets and its streams after an update, and what an issue leaves of its own strand.
-/

namespace Sys2Proof.Machine

/-! ### Lookups after an update -/

/-- A record that is looked up by what an update keeps is the one found before, updated where the update's test picks it. -/
theorem find?_modWhere {α : Type} {l : List α} {p q : α → Bool} {f : α → α} (h : ∀ x, q (f x) = q x) :
    (modWhere l p f).find? q = (l.find? q).map fun x => if p x then f x else x := by
  have hq : (q ∘ fun x => if p x then f x else x) = q := by
    funext x
    simp only [Function.comp]
    split
    · exact h x
    · rfl
  rw [modWhere, List.find?_map, hq]

/-- What an update keeps of each record, it keeps of their list. -/
theorem map_modWhere {α β : Type} {g : α → β} {f : α → α} (h : ∀ x, g (f x) = g x) (l : List α) (p : α → Bool) :
    (modWhere l p f).map g = l.map g := by
  rw [modWhere, List.map_map]
  refine List.map_congr_left fun x _ => ?_
  simp only [Function.comp]
  split
  · exact h x
  · rfl

theorem strand?_id {s : State} {i : StrandId} {t : Strand} (h : s.strand? i = some t) : t.id = i := by
  simpa using List.find?_some h

theorem strand?_mem {s : State} {i : StrandId} {t : Strand} (h : s.strand? i = some t) : t ∈ s.strands :=
  List.mem_of_find?_eq_some h

theorem strand?_modStrand {s : State} {i j : StrandId} {f : Strand → Strand} (hf : ∀ t, (f t).id = t.id) :
    (s.modStrand i f).strand? j = (s.strand? j).map fun t => if t.id == i then f t else t :=
  find?_modWhere fun t => by rw [hf]

theorem strand?_modStrand_same {s : State} {i : StrandId} {f : Strand → Strand} {t : Strand} (hf : ∀ t, (f t).id = t.id)
    (h : s.strand? i = some t) : (s.modStrand i f).strand? i = some (f t) := by
  simp [strand?_modStrand hf, h, strand?_id h]

theorem modStrand_mem_of_ne {s : State} {i : StrandId} {f : Strand → Strand} {t : Strand} (ht : t ∈ s.strands) (hi : t.id ≠ i) :
    t ∈ (s.modStrand i f).strands :=
  List.mem_map.2 ⟨t, ht, by simp [hi]⟩

@[simp] theorem strand?_usePipe (s : State) (c : Cur) (k : Nat) (i : StrandId) : (s.usePipe c k).strand? i = s.strand? i := by
  simp [State.strand?]

@[simp] theorem strand?_fresh (s : State) (i : StrandId) : s.fresh.strand? i = s.strand? i := rfl

/-- A change of a gang set is found by its key. -/
theorem set?_modSet {t : Strand} {k : Nat} {f : GSet → GSet} (hf : ∀ g, (f g).key = g.key) : (t.modSet k f).set? k = (t.set? k).map f := by
  have h := find?_modWhere (l := t.sets) (p := fun g => g.key == k) (q := fun g => g.key == k) (f := f) fun g => by rw [hf]
  simp only [Strand.set?, modSet_sets, h]
  cases hg : t.sets.find? fun g => g.key == k with
  | none => rfl
  | some g =>
    have hk : g.key = k := by simpa using List.find?_some hg
    simp [hk]

theorem stream?_modStream (t : Strand) (c : Option Nat) (f : Stream → Stream) : (t.modStream c f).stream? c = (t.stream? c).map f := by
  cases c with
  | none => rfl
  | some k =>
    simp only [Strand.stream?, Strand.modStream, set?_modSet (f := fun g => { g with str := f g.str }) (fun _ => rfl), Option.map_map]
    rfl

/-- A change of a strand's clocks leaves its streams. -/
theorem stream?_tick {t : Strand} {c d : Option Nat} : (t.tick c).stream? d = t.stream? d := by
  cases c with
  | none => cases d <;> rfl
  | some k =>
    cases d with
    | none => rfl
    | some j =>
      simp only [Strand.tick, Strand.stream?, Strand.set?, modSet_sets]
      rw [find?_modWhere, Option.map_map]
      · congr 1
        funext g
        simp only [Function.comp]
        split <;> rfl
      · exact fun _ => rfl

/-! ### What an issue leaves of its own strand -/

/-- A strand with an issued instruction's result in flight. -/
def State.withResult (s : State) (c : Ctx) (i : Instr) (id : Nat) (lat : Option Nat) (ws : List (Nat × Nat × Word)) (t : Strand) :
    Strand :=
  match lat with
  | some n => if (resultRegs c i).isEmpty && ws.isEmpty then t
    else { t with pends := t.pends ++ [Pend.mk id c.cur.set (s.lcNow c.cur.strand.owner c.cur.strand.lcore + n)
        (if s.untimed c.cur.strand.owner then stepsOf i else 0) ws] }
  | none => t

/-- A strand whose stream has counted an issued instruction, but for one that counts when it acts (R293). -/
def State.counted (s : State) (c : Ctx) (i : Instr) (id : Nat) (t : Strand) : Strand :=
  if atActInDet i && ((s.group? t.grp).map (·.flags.det)).getD false && s.accs.any fun a => a.id == id then t else t.tick c.cur.set

/-- The issuing strand after its instruction has issued. -/
def State.retireStrand (s : State) (c : Ctx) (i : Instr) (id : Nat) (lat : Option Nat) (ws : List (Nat × Nat × Word)) (dead : Bool)
    (pc : Option Word) (ready : Nat) (t : Strand) : Strand :=
  if t.killed then t
  else s.counted c i id ((s.withResult c i id lat ws t).modStream c.cur.set (streamAfter c i id dead pc ready))

section
variable {s : State} {c : Ctx} {i : Instr} {id : Nat} {lat : Option Nat} {ws : List (Nat × Nat × Word)} {dead : Bool}
  {pc : Option Word} {r : Nat} {t : Strand}

theorem retire_eq_modStrand : s.retire c i id lat ws dead pc r = s.modStrand c.cur.strand (s.retireStrand c i id lat ws dead pc r) := rfl

theorem withResult_eq : ∃ ps, s.withResult c i id lat ws t = { t with pends := ps } := by
  unfold State.withResult
  split
  · split
    · exact ⟨t.pends, rfl⟩
    · exact ⟨_, rfl⟩
  · exact ⟨t.pends, rfl⟩

theorem modStream_eq {d : Option Nat} {f : Stream → Stream} : ∃ x gs, t.modStream d f = { t with ctl := x, sets := gs } := by
  cases d with
  | none => exact ⟨f t.ctl, t.sets, rfl⟩
  | some k => exact ⟨t.ctl, _, rfl⟩

theorem counted_eq : ∃ gs n, s.counted c i id t = { t with sets := gs, lclk := n } := by
  unfold State.counted
  split
  · exact ⟨t.sets, t.lclk, rfl⟩
  · cases hset : c.cur.set with
    | none => exact ⟨t.sets, _, rfl⟩
    | some k => exact ⟨_, t.lclk, rfl⟩

/-- Of its own strand an issue changes the streams, the results in flight and the clock only (R40, R292). -/
theorem retireStrand_eq : ∃ x gs ps n,
    s.retireStrand c i id lat ws dead pc r t = { t with ctl := x, sets := gs, pends := ps, lclk := n } := by
  unfold State.retireStrand
  split
  · exact ⟨t.ctl, t.sets, t.pends, t.lclk, rfl⟩
  · obtain ⟨ps, h1⟩ := withResult_eq (s := s) (c := c) (i := i) (id := id) (lat := lat) (ws := ws) (t := t)
    obtain ⟨x, gs, h2⟩ := modStream_eq (t := { t with pends := ps }) (d := c.cur.set) (f := streamAfter c i id dead pc r)
    obtain ⟨hs, n, h3⟩ := counted_eq (s := s) (c := c) (i := i) (id := id) (t := { t with pends := ps, ctl := x, sets := gs })
    exact ⟨x, hs, ps, n, by rw [h1, h2, h3]⟩

/-- What a strand has beside these, an issue keeps. -/
theorem retireStrand_keeps {α : Type} (g : Strand → α) (hg : ∀ u x gs ps n, g { u with ctl := x, sets := gs, pends := ps, lclk := n } = g u) :
    g (s.retireStrand c i id lat ws dead pc r t) = g t := by
  obtain ⟨x, gs, ps, n, h⟩ := retireStrand_eq (s := s) (c := c) (i := i) (id := id) (lat := lat) (ws := ws) (dead := dead) (pc := pc)
    (r := r) (t := t)
  rw [h, hg]

@[simp] theorem retireStrand_id : (s.retireStrand c i id lat ws dead pc r t).id = t.id :=
  retireStrand_keeps Strand.id fun _ _ _ _ _ => rfl

theorem stream?_withResult (d : Option Nat) : (s.withResult c i id lat ws t).stream? d = t.stream? d := by
  obtain ⟨_, h⟩ := withResult_eq (s := s) (c := c) (i := i) (id := id) (lat := lat) (ws := ws) (t := t)
  rw [h]; cases d <;> rfl

theorem stream?_counted (d : Option Nat) : (s.counted c i id t).stream? d = t.stream? d := by
  unfold State.counted
  split
  · rfl
  · exact stream?_tick

/-- The stream of an issued instruction goes on (R40, R43). -/
theorem stream?_retireStrand (hk : t.killed = false) :
    (s.retireStrand c i id lat ws dead pc r t).stream? c.cur.set = (t.stream? c.cur.set).map (streamAfter c i id dead pc r) := by
  simp [State.retireStrand, hk, stream?_counted, stream?_modStream, stream?_withResult]

theorem retireStrand_pends (hk : t.killed = false) :
    (s.retireStrand c i id lat ws dead pc r t).pends = (s.withResult c i id lat ws t).pends := by
  obtain ⟨x, gs, h2⟩ := modStream_eq (t := s.withResult c i id lat ws t) (d := c.cur.set) (f := streamAfter c i id dead pc r)
  obtain ⟨hs, n, h3⟩ := counted_eq (s := s) (c := c) (i := i) (id := id) (t := { s.withResult c i id lat ws t with ctl := x, sets := gs })
  simp [State.retireStrand, hk, h2, h3]

/-- The control stream's clock counts an issued instruction that does not wait for its act (R292, R293). -/
theorem retireStrand_lclk_ctl (hk : t.killed = false) (hi : atActInDet i = false) (hc : c.cur.set = none) :
    (s.retireStrand c i id lat ws dead pc r t).lclk = t.lclk + 1 := by
  obtain ⟨_, h⟩ := withResult_eq (s := s) (c := c) (i := i) (id := id) (lat := lat) (ws := ws) (t := t)
  simp [State.retireStrand, hk, State.counted, hi, hc, Strand.tick, h, Strand.modStream]

/-- An instruction of a gang leaves the control stream's clock. -/
theorem retireStrand_lclk_vec (hc : c.cur.set ≠ none) : (s.retireStrand c i id lat ws dead pc r t).lclk = t.lclk := by
  obtain ⟨k, hk⟩ := Option.ne_none_iff_exists'.1 hc
  obtain ⟨_, h⟩ := withResult_eq (s := s) (c := c) (i := i) (id := id) (lat := lat) (ws := ws) (t := t)
  simp only [State.retireStrand, State.counted, hk, Strand.tick, h, Strand.modStream]
  split
  · rfl
  · split <;> rfl

end

end Sys2Proof.Machine
end

section
/-!
THEOREM. What an issue leaves (R40, R43, R44, R57, R292).
-/

namespace Sys2Proof.Machine

/-- The pipe and the ports of a logical core are all that the use of one changes there (R44). -/
theorem usePipe_lcores_map {α : Type} {g : LCore → α} (hg : ∀ l p q r, g { l with ctl := p, port0 := q, port1 := r } = g l) (s : State)
    (c : Cur) (cost : Nat) : (s.usePipe c cost).lcores.map g = s.lcores.map g := by
  unfold State.usePipe
  split
  · rfl
  · rename_i tn _
    refine map_modWhere (fun l => ?_) _ _
    by_cases h0 : tn.slot = 0
    · simpa [h0] using hg l _ l.port0 l.port1
    · by_cases h1 : tn.slot = 1
      · simpa [h1] using hg l l.ctl _ l.port1
      · simpa [h0, h1] using hg l l.ctl l.port0 _

/-- Beside strands, pipes and ports, the open turn and the count of identities, an issue changes nothing. -/
theorem issued_rest (s : State) (c : Ctx) (i : Instr) (cost : Nat) (lat : Option Nat) (ws : List (Nat × Nat × Word)) (dead : Bool)
    (pc : Option Word) :
    { s.issued c i cost lat ws dead pc with strands := s.strands, lcores := s.lcores, turn := s.turn, cur := s.cur, nextId := s.nextId } =
      s := by
  simp only [State.issued, State.fresh, State.usePipe]
  split <;> rfl

theorem issued_strands (s : State) (c : Ctx) (i : Instr) (cost : Nat) (lat : Option Nat) (ws : List (Nat × Nat × Word)) (dead : Bool)
    (pc : Option Word) : ∃ r, r = c.now + (if c.isCtl && pc.isSome then 2 else if s.untimed c.cur.strand.owner then 1 else cost) ∧
      (s.issued c i cost lat ws dead pc).strands = (s.modStrand c.cur.strand (s.retireStrand c i s.nextId lat ws dead pc r)).strands :=
  ⟨_, rfl, usePipe_strands _ _ _⟩

@[simp] theorem issued_nextId (s : State) (c : Ctx) (i : Instr) (cost : Nat) (lat : Option Nat) (ws : List (Nat × Nat × Word)) (dead : Bool)
    (pc : Option Word) : (s.issued c i cost lat ws dead pc).nextId = s.nextId + 1 := by
  simp [State.issued, State.fresh]

/-- Settles O45: the issuing strand's update (`retireStrand_eq`, `stream?_retireStrand`), and the frame of an issue. -/
theorem issuedInstructionsGoOn : Obligations.IssuedInstructionsGoOn := by
  unfold Obligations.IssuedInstructionsGoOn
  intro s c i cost lat ws pc t x ht hk hx
  dsimp only
  obtain ⟨r, hr, hs⟩ := issued_strands s c i cost lat ws false pc
  have keep {α : Type} (g : Strand → α) (hg : ∀ u y gs ps n, g { u with ctl := y, sets := gs, pends := ps, lclk := n } = g u) :
      g (s.retireStrand c i s.nextId lat ws false pc r t) = g t := retireStrand_keeps g hg
  refine ⟨⟨s.retireStrand c i s.nextId lat ws false pc r t, streamAfter c i s.nextId false pc r x, ?_, (stream?_retireStrand hk).trans (by rw [hx, Option.map_some]), rfl, hr,
    rfl, keep Strand.cregs ?_, keep Strand.vregs ?_, keep Strand.n ?_, keep Strand.priv ?_, keep Strand.depth ?_, keep Strand.tpc ?_,
    keep Strand.bmask ?_, keep Strand.flume ?_, keep Strand.rq ?_, keep Strand.batch ?_, retireStrand_lclk_ctl hk, retireStrand_lclk_vec,
    fun hl => ?_, fun m hl hw => ?_⟩, fun v hv hne => hs ▸ modStrand_mem_of_ne hv hne, issued_nextId .., ?_, issued_rest ..⟩
  case refine_1 => exact (congrArg (List.find? _) hs).trans (strand?_modStrand_same (fun _ => retireStrand_id) ht)
  case refine_12 => rw [retireStrand_pends hk, hl]; rfl
  case refine_13 => exact ⟨_, by rw [retireStrand_pends hk, hl]; simp [State.withResult, hw]; rfl, rfl, rfl, rfl⟩
  case refine_14 => exact usePipe_lcores_map (fun _ _ _ _ => rfl) _ _ _
  all_goals exact fun _ _ _ _ _ => rfl

end Sys2Proof.Machine
end

section
/-!
THEOREM. The instructions of the flume, of vector blocks and loops, of the return queue and of the register count, each from its own effect
(R18 to R36, R51, R52, R430, R461, R462, R465).
-/

namespace Sys2Proof.Machine

/-- What an instruction's own effect says is what `exec` answers. -/
theorem exec_of_effect {s : State} {i : Instr} {cost : Nat} {c : Ctx} {k : Ctx → State → Eff} {e : Eff}
    (hx : exec i s = issueWith i cost k s) (hi : issuing s i cost = some c) (he : k c s = e) : exec i s = effOutcome i cost c s e := by
  rw [hx, issueWith_issuing k hi, he]

/-! ### Flume instructions (R18 to R20, R36) -/

/-- A mask is misused when it is empty or names a slice beyond the gang, as its highest bit tells (R19). -/
theorem flumeMask_bad_iff {mask : BitVec 8} {n : Nat} :
    (mask = 0 ∨ n ≤ Nat.log2 mask.toNat) ↔ (mask = 0 ∨ ∃ k, mask.getLsbD k = true ∧ n ≤ k) := by
  by_cases hm : mask = 0
  · simp [hm]
  · have hne : mask.toNat ≠ 0 := fun h => hm (BitVec.eq_of_toNat_eq (by simpa using h))
    simp only [hm, false_or]
    constructor
    · exact fun h => ⟨_, Nat.testBit_log2 hne, h⟩
    · rintro ⟨k, hk, hn⟩
      exact hn.trans ((Nat.le_log2 hne).2 (Nat.ge_two_pow_of_testBit hk))

section
variable {kind : TokKind} {a : Src} {mask : BitVec 8} {rel : Bool} {c : Ctx} {s : State}

theorem sendEff_misuse (h : mask = 0 ∨ ∃ k, mask.getLsbD k = true ∧ c.t.slices ≤ k) : sendEff kind a mask rel c s = .trapAll 0x05 0 0 := by
  rw [sendEff, if_pos (flumeMask_bad_iff.2 h)]

theorem flumeMask_good (h0 : mask ≠ 0) (hk : ∀ k, mask.getLsbD k = true → k < c.t.slices) :
    ¬ (mask = 0 ∨ c.t.slices ≤ Nat.log2 mask.toNat) := by
  rw [flumeMask_bad_iff]
  rintro (h | ⟨k, hb, hn⟩)
  · exact h0 h
  · exact absurd (hk k hb) (by omega)

theorem sendEff_full (h0 : mask ≠ 0) (hk : ∀ k, mask.getLsbD k = true → k < c.t.slices) (hf : 16 ≤ c.t.flume.length) :
    sendEff kind a mask rel c s = .stall := by
  rw [sendEff, if_neg (flumeMask_good h0 hk), if_pos hf]

theorem sendEff_room (h0 : mask ≠ 0) (hk : ∀ k, mask.getLsbD k = true → k < c.t.slices) (hf : c.t.flume.length < 16) :
    sendEff kind a mask rel c s = .plain (s.send c kind (c.lane0 a) (bitsOf 8 mask.toNat) rel) := by
  rw [sendEff, if_neg (flumeMask_good h0 hk), if_neg (by omega)]

end

/-- Settles O12, from the three cases of a flume instruction's effect. -/
theorem flumeInstructionsComplete : Obligations.FlumeInstructionsComplete := by
  unfold Obligations.FlumeInstructionsComplete
  refine ⟨fun x mask rel r hr => ?_, fun s c hi hf => ?_⟩
  · have hx : ∀ s, exec r.1 s = issueWith r.1 1 (sendEff r.2.1 r.2.2.1 mask r.2.2.2) s := by
      simp only [List.mem_cons, List.not_mem_nil, or_false] at hr
      rcases hr with rfl | rfl | rfl | rfl | rfl <;> exact fun _ => rfl
    exact ⟨fun s c hi ⟨h0, hk, hf⟩ => exec_of_effect (hx s) hi (sendEff_room h0 hk hf),
      fun s c hi h => exec_of_effect (hx s) hi (sendEff_misuse h),
      fun s c hi ⟨h0, hk, hf⟩ => exec_of_effect (hx s) hi (sendEff_full h0 hk hf)⟩
  · rw [exec_exit, execExit, issueWith_issuing _ hi, if_neg (Nat.not_le.2 hf)]
    rfl

/-! ### The end of a block, and of a pass (R26 to R28, R461, R462) -/

section
variable {s : State} {c : Ctx} {g : GSet}

theorem exec_vend_last (hi : issuing s .vend 1 = some c) (hg : c.set? = some g) (hl : g.loops = []) : exec .vend s =
    .next ((s.modSetOf c.cur fun g => { g with st := .idle, lastVend := c.str.pc, str := { g.str with res := [] } }).issuedPlain c .vend) := by
  rw [exec_vend, execVend, issueWith_issuing _ hi]
  simp only [hg, hl]
  rfl

theorem exec_vend_inLoop (hi : issuing s .vend 1 = some c) (hg : c.set? = some g) (hl : g.loops ≠ []) :
    exec .vend s = effOutcome .vend 1 c s (.trapAll 0x04 0 0) := by
  rw [exec_vend, execVend, issueWith_issuing _ hi]
  simp [hg, hl]

theorem exec_vlend_noLoop (hi : issuing s .vlend 1 = some c) (hg : c.set? = some g) (hl : g.loops = []) :
    exec .vlend s = effOutcome .vlend 1 c s (.trapAll 0x04 0 0) := by
  rw [exec_vlend, execVlend, issueWith_issuing _ hi]
  simp only [hg, Option.map_some, hl]

theorem exec_vlend_inLoop {l : Loop} {ls : List Loop} (hi : issuing s .vlend 1 = some c) (hg : c.set? = some g) (hl : g.loops = l :: ls) :
    exec .vlend s = effOutcome .vlend 1 c s (if l.count - 1 = 0 then .plain (s.modSetOf c.cur fun g => { g with loops := ls })
      else .free (s.modSetOf c.cur fun g => { g with loops := { l with count := l.count - 1 } :: ls }) l.body) := by
  rw [exec_vlend, execVlend, issueWith_issuing _ hi]
  simp only [hg, Option.map_some, hl]

end

/-- Settles O13. -/
theorem blockEndsComplete : Obligations.BlockEndsComplete := by
  unfold Obligations.BlockEndsComplete
  refine fun g => ⟨fun s c hi ⟨hg, hl⟩ => exec_vend_last hi hg hl, fun s c hi ⟨hg, hl⟩ => exec_vend_inLoop hi hg hl,
    fun s c hi ⟨hg, hl⟩ => exec_vlend_noLoop hi hg hl, fun l ls hl => ⟨fun s c hi ⟨hg, hc⟩ => ?_, fun s c hi ⟨hg, hc⟩ => ?_⟩⟩
  · rw [exec_vlend_inLoop hi hg hl, if_pos (by simp [hc])]
    rfl
  · have hn : l.count - 1 ≠ 0 := fun h => hc (by bv_omega)
    rw [exec_vlend_inLoop hi hg hl, if_neg hn]
    rfl

/-! ### Loops and in-block tokens (R24, R27, R461, R465) -/

/-- The next token of a slice among those that have arrived (R21). -/
def Strand.nextToken (t : Strand) (now i : Nat) : Option Token := t.flume.find? fun e => e.left.contains i && decide (e.sent + 2 ≤ now)

theorem findToken_eq (t : Strand) (g : GSet) (now : Nat) : findToken t g now =
    match t.nextToken now g.key with
    | none => if g.slices.any fun i => (t.nextToken now i).isSome then .misuse else .nothing
    | some k => if g.slices.all fun i => (t.nextToken now i).map (·.id) == some k.id then .token k else .misuse := rfl

theorem key_mem {g : GSet} (h : g.slices ≠ []) : g.key ∈ g.slices := by
  rw [GSet.key, List.headD_eq_head?_getD, List.head?_eq_some_head h]
  exact List.head_mem h

/-- Misuse is that two slices of the gang have different tokens next, or one has one and another none (R24). -/
theorem findToken_misuse_iff {t : Strand} {g : GSet} {now : Nat} (hne : g.slices ≠ []) : findToken t g now = .misuse ↔
    ∃ i ∈ g.slices, ∃ j ∈ g.slices, (t.nextToken now i).map (·.id) ≠ (t.nextToken now j).map (·.id) := by
  have hkey := key_mem hne
  have same : (∀ i ∈ g.slices, (t.nextToken now i).map (·.id) = (t.nextToken now g.key).map (·.id)) ↔
      ¬ ∃ i ∈ g.slices, ∃ j ∈ g.slices, (t.nextToken now i).map (·.id) ≠ (t.nextToken now j).map (·.id) := by
    push Not
    exact ⟨fun h i hi j hj => (h i hi).trans (h j hj).symm, fun h i hi => h i hi _ hkey⟩
  rw [findToken_eq, ← not_iff_not, ← same]
  cases hn : t.nextToken now g.key with
  | none => by_cases ha : ∀ i ∈ g.slices, t.nextToken now i = none <;> simp [Option.isSome_iff_ne_none]
  | some k => by_cases ha : ∀ i ∈ g.slices, (t.nextToken now i).map (·.id) = some k.id <;> simp

/-- The effect of a VLOOP that finds its VLEND: it opens or skips its loop, by A of the gang's lowest lane or by its token. -/
def loopEff (x : XOps) (ft : Bool) (g : GSet) (last : Nat) (c : Ctx) (s : State) : Eff :=
  if ft then
    match findToken c.t g c.now with
    | .nothing => .stall
    | .misuse => .trapAll 0x05 0 0
    | .token k => if k.kind = .trip then openLoop c (.vloop x ft) last k.payload (s.takeToken c k g.slices) else .trapAll 0x05 0 0
  else openLoop c (.vloop x ft) last (c.src x.a (c.all.headD 0)) s

/-- The effect of a VPOP in a gang: a VAL token's payload goes to every lane of it (R465). -/
def popEff (d : Dst) (g : GSet) (c : Ctx) (s : State) : Eff :=
  match findToken c.t g c.now with
  | .nothing => .stall
  | .misuse => .trapAll 0x05 0 0
  | .token k =>
    if k.kind = .val then
      .result (s.takeToken c k g.slices) 4 ((replayLanes c.str.replay c.all).flatMap fun l => dstOuts d l [k.payload])
    else .trapAll 0x05 0 0

section
variable {s : State} {c : Ctx} {x : XOps} {ft : Bool} {g : GSet} {last : Nat} {d : Dst} {k : Token}

/-- The address after a VLOOP, where its body starts. -/
abbrev Ctx.bodyOf (c : Ctx) (i : Instr) : Nat := c.str.pc.toNat + 4 * i.words

theorem exec_vloop_deep (hi : issuing s (.vloop x ft) 1 = some c) (hg : c.set? = some g) (hl : 3 ≤ g.loops.length) :
    exec (.vloop x ft) s = effOutcome (.vloop x ft) 1 c s (.trapAll 0x04 0 0) := by
  rw [exec_vloop, execVloop, issueWith_issuing _ hi]
  simp only [hg, ge_iff_le, hl, if_true]

theorem exec_vloop_unmatched (hi : issuing s (.vloop x ft) 1 = some c) (hg : c.set? = some g) (hl : g.loops.length < 3)
    (hf : findVlend s c.cur.strand.owner 256 0 (c.bodyOf (.vloop x ft)) = none) :
    exec (.vloop x ft) s = effOutcome (.vloop x ft) 1 c s (.trapAll 0x04 0 0) := by
  rw [exec_vloop, execVloop, issueWith_issuing _ hi]
  simp only [hg, ge_iff_le, Nat.not_le.2 hl, if_false, hf]

theorem exec_vloop_matched (hi : issuing s (.vloop x ft) 1 = some c) (hg : c.set? = some g) (hl : g.loops.length < 3)
    (hf : findVlend s c.cur.strand.owner 256 0 (c.bodyOf (.vloop x ft)) = some last) :
    exec (.vloop x ft) s = effOutcome (.vloop x ft) 1 c s (loopEff x ft g last c s) := by
  rw [exec_vloop, execVloop, issueWith_issuing _ hi]
  simp only [hg, ge_iff_le, Nat.not_le.2 hl, if_false, hf]
  rfl

theorem openLoop_zero {i : Instr} {u : State} (cost : Nat) :
    effOutcome i cost c s (openLoop c i last 0 u) = .next (u.issued c i cost none [] false (some (BitVec.ofInt 32 (last + 4 : Nat)))) := by
  rw [openLoop, if_pos rfl, BitVec.ofInt_natCast]
  rfl

theorem openLoop_pos {i : Instr} {n : Word} {u : State} (hn : n ≠ 0) : openLoop c i last n u = .plain (u.modSetOf c.cur fun g => { g with
    loops := ⟨n, c.str.pc + BitVec.ofNat 32 (4 * i.words), BitVec.ofNat 32 last⟩ :: g.loops }) := if_neg hn

theorem exec_vpop_issuing (hi : issuing s (.vpop d) 1 = some c) (hg : c.set? = some g) :
    exec (.vpop d) s = effOutcome (.vpop d) 1 c s (popEff d g c s) := by
  rw [exec_vpop, execVpop, issueWith_issuing _ hi]
  simp only [hg]
  rfl

end

/-- Settles O14, from the equations of VLOOP and VPOP and what misuse of the flume is. -/
theorem loopsAndInBlockTokensComplete : Obligations.LoopsAndInBlockTokensComplete := by
  unfold Obligations.LoopsAndInBlockTokensComplete
  intro x ft g d last k
  refine ⟨?_, ?_, ?_, ?_, ?_, ?_, fun s c hi ⟨hg, hl⟩ => exec_vloop_deep hi hg hl, fun s c hi ⟨hg, hl, hf⟩ => exec_vloop_unmatched hi hg hl hf,
    fun t now hne => findToken_misuse_iff hne, ?_, ?_, ?_⟩
  · rintro s c hi ⟨⟨hg, hl, hf⟩, rfl, hn⟩
    rw [exec_vloop_matched hi hg hl hf, loopEff, if_neg (by decide), openLoop_pos hn]
    rfl
  · rintro s c hi ⟨⟨hg, hl, hf⟩, rfl, hn⟩
    rw [exec_vloop_matched hi hg hl hf, loopEff, if_neg (by decide), hn, openLoop_zero]
    rfl
  · rintro s c hi ⟨⟨hg, hl, hf⟩, rfl, hk, hkind, hn⟩
    simp only [exec_vloop_matched hi hg hl hf, loopEff, if_true, hk, hkind, openLoop_pos hn]
    rfl
  · rintro s c hi ⟨⟨hg, hl, hf⟩, rfl, hk, hkind, hn⟩
    simp only [exec_vloop_matched hi hg hl hf, loopEff, if_true, hk, hkind, hn, openLoop_zero]
    rfl
  · rintro s c hi ⟨⟨hg, hl, hf⟩, rfl, hk⟩
    simp only [exec_vloop_matched hi hg hl hf, loopEff, if_true, hk, effOutcome]
  · rintro s c hi ⟨⟨hg, hl, hf⟩, rfl, hk | ⟨hk, hkind⟩⟩
    · simp only [exec_vloop_matched hi hg hl hf, loopEff, if_true, hk]
      rfl
    · simp only [exec_vloop_matched hi hg hl hf, loopEff, if_true, hk, hkind, if_false]
      rfl
  · rintro s c hi ⟨hg, hk, hkind⟩
    simp only [exec_vpop_issuing hi hg, popEff, hk, hkind, if_true]
    rfl
  · rintro s c hi ⟨hg, hk⟩
    simp only [exec_vpop_issuing hi hg, popEff, hk, effOutcome]
  · rintro s c hi ⟨hg, hk | ⟨hk, hkind⟩⟩
    · simp only [exec_vpop_issuing hi hg, popEff, hk]
      rfl
    · simp only [exec_vpop_issuing hi hg, popEff, hk, hkind, if_false]
      rfl

/-! ### The return queue (R31 to R33) -/

/-- Settles O15. -/
theorem returnQueueInstructionsComplete : Obligations.ReturnQueueInstructionsComplete := by
  unfold Obligations.ReturnQueueInstructionsComplete
  refine ⟨fun m a i hm => ?_, fun i t n s ⟨ht, hn⟩ => ?_, fun d e rest => ⟨fun s c hi ⟨hq, he⟩ => ?_, fun s c hi hq => ?_⟩⟩
  · have hx : ∀ s, exec i s = issueWith i 1 (vsendEff m a) s := by
      rcases hm with rfl | rfl <;> exact fun _ => rfl
    exact ⟨fun s c hi hl => exec_of_effect (hx s) hi (if_neg (Nat.not_le.2 hl)), fun s c hi hl => exec_of_effect (hx s) hi (if_pos hl)⟩
  · simp only [exec_returnQueueEntryArrive, execReturnQueueEntryArrive, ht, hn]
  · rw [exec_frecv, execFrecv, issueWith_issuing _ hi]
    simp only [hq, he, if_true]
    rfl
  · rw [exec_frecv, execFrecv, issueWith_issuing _ hi]
    rcases hq with hq | ⟨hq, he⟩
    · simp only [hq, effOutcome]
    · simp only [hq, he, Bool.false_eq_true, if_false, effOutcome]

/-! ### The register count (R51, R52, R430) -/

/-- The effect of a RALLOC. -/
def rallocEff (x : XOps) (c : Ctx) (s : State) : Eff :=
  if c.n0 x.a < 8 ∨ 120 < c.n0 x.a then .trapAll 0x02 0 (BitVec.ofNat 64 (c.n0 x.a))
  else match s.rallocNow c.t (c.n0 x.a) s.nextId with
    | some (s', v) => .result s' 4 (c.fill x.d [v])
    | none => .wait s [BitVec.ofNat 64 (c.n0 x.a)]

section
variable {s s' : State} {t : Strand} {m id : Nat} {x : XOps} {c : Ctx} {v : Word}

/-- Why a RALLOC for more than its strand has is not served at a quiet point: an older waiter, or too few free granules (R51). -/
def State.rallocShort (s : State) (t : Strand) (m id : Nat) : Prop :=
  s.olderWaiter t id = true ∨ s.vectorFree t.id.owner t.id.lcore < t.slices * (granules m - granules t.n)

theorem rallocNow_held (hq : s.quietAt t (some id) = true) (hm : m ≤ t.n) : s.rallocNow t m id = some (s, BitVec.ofNat 32 t.n) := by
  simp [State.rallocNow, hq, hm]

theorem rallocNow_served (hq : s.quietAt t (some id) = true) (hm : t.n < m) (hs : ¬ s.rallocShort t m id) :
    s.rallocNow t m id = some (s.modStrand t.id fun t => { t with n := m }, BitVec.ofNat 32 t.n) := by
  simp only [State.rallocNow, hq, Nat.not_le.2 hm, Bool.not_true, Bool.false_eq_true, if_false]
  exact if_neg hs

theorem rallocNow_waits (h : ¬ s.quietAt t (some id) = true ∨ t.n < m ∧ s.rallocShort t m id) : s.rallocNow t m id = none := by
  by_cases hq : s.quietAt t (some id) = true
  · obtain ⟨hm, hs⟩ := h.resolve_left (not_not.2 hq)
    simp only [State.rallocNow, hq, Nat.not_le.2 hm, Bool.not_true, Bool.false_eq_true, if_false]
    exact if_pos hs
  · simp [State.rallocNow, hq]

theorem rallocEff_illegal (h : ¬ (8 ≤ c.n0 x.a ∧ c.n0 x.a ≤ 120)) : rallocEff x c s = .trapAll 0x02 0 (BitVec.ofNat 64 (c.n0 x.a)) :=
  if_pos (by omega)

theorem rallocEff_served (hm : 8 ≤ c.n0 x.a ∧ c.n0 x.a ≤ 120) (h : s.rallocNow c.t (c.n0 x.a) s.nextId = some (s', v)) :
    rallocEff x c s = .result s' 4 (c.fill x.d [v]) := by
  rw [rallocEff, if_neg (by omega), h]

theorem rallocEff_waits (hm : 8 ≤ c.n0 x.a ∧ c.n0 x.a ≤ 120) (h : s.rallocNow c.t (c.n0 x.a) s.nextId = none) :
    rallocEff x c s = .wait s [BitVec.ofNat 64 (c.n0 x.a)] := by
  rw [rallocEff, if_neg (by omega), h]

end

/-- Settles O16, from what a RALLOC is served with now. -/
theorem registerCountInstructionsComplete : Obligations.RegisterCountInstructionsComplete := by
  unfold Obligations.RegisterCountInstructionsComplete
  refine ⟨fun a i ha => ?_, fun x => ?_⟩
  · have hx : ∀ s, exec i s = issueWith i 1 (rfreeEff a) s := by
      rcases ha with rfl | rfl <;> exact fun _ => rfl
    refine ⟨fun s c hi ⟨hm, hq⟩ => ?_, fun s c hi ⟨hm, hq⟩ => ?_, fun s c hi hm => exec_of_effect (hx s) hi (if_pos hm)⟩
    · rw [hx, issueWith_issuing _ hi, rfreeEff, if_neg (Nat.not_lt.2 hm), if_pos hq]
      rfl
    · rw [hx, issueWith_issuing _ hi, rfreeEff, if_neg (Nat.not_lt.2 hm), if_neg (by simp [hq])]
      rfl
  · have hx : ∀ s, exec (.ralloc x) s = issueWith (.ralloc x) 1 (rallocEff x) s := fun _ => rfl
    exact ⟨fun s c hi ⟨hm, hq, hn⟩ => exec_of_effect (hx s) hi (rallocEff_served hm (rallocNow_held hq hn)),
      fun s c hi ⟨hm, hq, hn, hs⟩ => exec_of_effect (hx s) hi (rallocEff_served hm (rallocNow_served hq hn hs)),
      fun s c hi ⟨hm, h⟩ => exec_of_effect (hx s) hi (rallocEff_waits hm (rallocNow_waits h)),
      fun s c hi hm => exec_of_effect (hx s) hi (rallocEff_illegal hm)⟩

end Sys2Proof.Machine
end

section
/-!
SUPPORT. The frame of an issue: what memory, registers and records keep through the operations of an issue and of a trap.
-/

namespace Sys2Proof.Machine

/-- What software sees of a strand: its registers (R13, R49, R86) and its level and trap registers (R297, R299). -/
def Strand.arch (t : Strand) : (StrandId × Tbl Word × Tbl Word × Nat × Nat × Word × Word × Word × Word) ×
    (Nat × Nat × Nat × Word × Word × Word × DWord × Word) :=
  ((t.id, t.cregs, t.vregs, t.n, t.slices, t.bmask, t.batch, t.cbase, t.vbase),
   (t.priv, t.tpriv, t.depth, t.tcause, t.tpc, t.tmask, t.taddr, t.tstrand))

/-- Memory, the package, owners, cores, arrays, the records on their way and what software sees of each strand are as they were. -/
structure State.Keeps (s t : State) : Prop where
  mem : t.mem = s.mem
  hostMem : t.hostMem = s.hostMem
  empties : t.empties = s.empties
  poison : t.poison = s.poison
  dev : t.dev = s.dev
  cores : t.cores = s.cores
  owners : t.owners = s.owners
  clauses : t.clauses = s.clauses
  images : t.images = s.images
  dcyc : t.dcyc = s.dcyc
  transfers : t.transfers = s.transfers
  outbox : t.outbox = s.outbox
  intrs : t.intrs = s.intrs
  log : t.log = s.log
  arch : t.strands.map Strand.arch = s.strands.map Strand.arch

namespace State.Keeps

theorem refl (s : State) : s.Keeps s := ⟨rfl, rfl, rfl, rfl, rfl, rfl, rfl, rfl, rfl, rfl, rfl, rfl, rfl, rfl, rfl⟩

theorem trans {s t u : State} (h : s.Keeps t) (k : t.Keeps u) : s.Keeps u where
  mem := k.mem.trans h.mem
  hostMem := k.hostMem.trans h.hostMem
  empties := k.empties.trans h.empties
  poison := k.poison.trans h.poison
  dev := k.dev.trans h.dev
  cores := k.cores.trans h.cores
  owners := k.owners.trans h.owners
  clauses := k.clauses.trans h.clauses
  images := k.images.trans h.images
  dcyc := k.dcyc.trans h.dcyc
  transfers := k.transfers.trans h.transfers
  outbox := k.outbox.trans h.outbox
  intrs := k.intrs.trans h.intrs
  log := k.log.trans h.log
  arch := k.arch.trans h.arch

theorem ite {s t u : State} {p : Prop} [Decidable p] (h : s.Keeps t) (k : s.Keeps u) : s.Keeps (if p then t else u) := by
  split
  · exact h
  · exact k

/-- A view of every strand that `Strand.arch` determines is kept. -/
theorem map_eq {s t : State} (h : s.Keeps t) {α : Type} {g : Strand → α} (f : _ → α) (hg : ∀ u, g u = f u.arch) :
    t.strands.map g = s.strands.map g := by
  have hmap (l : List Strand) : l.map g = (l.map Strand.arch).map f := by
    rw [List.map_map]
    exact List.map_congr_left fun u _ => hg u
  rw [hmap, hmap, h.arch]

theorem foldl {α : Type} {f : State → α → State} (hf : ∀ (s : State) a, s.Keeps (f s a)) (l : List α) (s : State) : s.Keeps (l.foldl f s) := by
  induction l generalizing s with
  | nil => exact refl s
  | cons a l ih => exact (hf s a).trans (ih (f s a))

/-- A change of logical cores, groups, accesses and of the issue itself leaves the rest. -/
theorem of_rest {s t : State}
    (h : { t with lcores := s.lcores, groups := s.groups, accs := s.accs, turn := s.turn, cur := s.cur, nextId := s.nextId } = s) : s.Keeps t := by
  rw [← h]
  exact ⟨rfl, rfl, rfl, rfl, rfl, rfl, rfl, rfl, rfl, rfl, rfl, rfl, rfl, rfl, rfl⟩

theorem modStrand {s : State} {i : StrandId} {f : Strand → Strand} (hf : ∀ t, (f t).arch = t.arch) : s.Keeps (s.modStrand i f) :=
  ⟨rfl, rfl, rfl, rfl, rfl, rfl, rfl, rfl, rfl, rfl, rfl, rfl, rfl, rfl, map_modWhere hf _ _⟩

theorem modStream {s : State} {c : Cur} {f : Stream → Stream} : s.Keeps (s.modStream c f) :=
  modStrand fun t => by cases h : c.set <;> rfl

theorem modLcore {s : State} {o n : Nat} {f : LCore → LCore} : s.Keeps (s.modLcore o n f) := of_rest rfl

theorem fresh {s : State} : s.Keeps s.fresh := of_rest rfl

theorem usePipe {s : State} {c : Cur} {k : Nat} : s.Keeps (s.usePipe c k) := by
  unfold State.usePipe
  split <;> exact of_rest rfl

theorem retire {s : State} {c : Ctx} {i : Instr} {id : Nat} {lat : Option Nat} {ws : List (Nat × Nat × Word)} {dead : Bool}
    {pc : Option Word} {r : Nat} : s.Keeps (s.retire c i id lat ws dead pc r) :=
  retire_eq_modStrand ▸ modStrand fun _ => retireStrand_keeps Strand.arch fun _ _ _ _ _ => rfl

theorem issued {s : State} {c : Ctx} {i : Instr} {cost : Nat} {lat : Option Nat} {ws : List (Nat × Nat × Word)} {dead : Bool}
    {pc : Option Word} : s.Keeps (s.issued c i cost lat ws dead pc) :=
  (retire.trans usePipe).trans fresh

theorem firstHalf {s : State} {c : Cur} : s.Keeps (s.firstHalf c) := modStream.trans usePipe

/-! ### Traps (R39, R298 to R301) -/

theorem gsyncCheck {s : State} {g : Nat} : s.Keeps (s.gsyncCheck g) := by
  unfold State.gsyncCheck
  split
  · dsimp only
    split
    · exact of_rest rfl
    · exact refl s
  · exact refl s

theorem undoDispose {s : State} {i : StrandId} : s.Keeps (s.undoDispose i) := by
  refine foldl (fun s d => ?_) _ s
  unfold State.undoOne
  split
  · exact modStrand fun _ => rfl
  · exact refl s

theorem killStrand {s : State} {i : StrandId} : s.Keeps (s.killStrand i) := by
  unfold State.killStrand
  dsimp only
  have h := ((undoDispose (s := s) (i := i)).trans (modStrand (i := i) (f := fun t => { t with
    killed := true, cst := .exited, ctl := t.ctl.stopped, sets := t.sets.map fun g => { g with st := .stopped, str := g.str.stopped, loops := [] }
    flume := [], rq := [], pends := [] }) fun _ => rfl))
  split
  · exact (h.trans (of_rest rfl)).trans gsyncCheck
  · exact h.trans (of_rest rfl)

theorem faultGroup {s : State} {g : Nat} : s.Keeps (s.faultGroup g) := of_rest rfl

theorem addRecord {s : State} {i : StrandId} {g : Nat} {ws : List Word} : s.Keeps (s.addRecord i g ws) := of_rest rfl

theorem queueTrap {s : State} {c : Cur} {tr : Trap} {b : Bool} : s.Keeps (s.queueTrap c tr b) := by
  unfold State.queueTrap
  split
  · exact ite (faultGroup.trans killStrand) <| ite modStream <| ite (modStream.trans addRecord) <| (faultGroup.trans killStrand).trans addRecord
  · exact refl s

theorem takeTrap {s : State} {c : Cur} {tr : Trap} {b : Bool} : s.Keeps (s.takeTrap c tr b) := by
  unfold State.takeTrap
  split
  · exact queueTrap
  · have h : s.Keeps (s.modStrand c.strand fun t => { t with cst := .run }) := modStrand fun _ => rfl
    exact ite (h.trans modStream) (h.trans queueTrap)

theorem trapped {s : State} {c : Ctx} {tr : Trap} : s.Keeps (s.trapped c tr) := takeTrap.trans usePipe

end State.Keeps

end Sys2Proof.Machine
end

section
/-!
THEOREM. The checks at issue and failed guards (R15, R16, R41, R50, R83, R124), and the frame of the instructions that compute
(spec/12 to spec/15).
-/

namespace Sys2Proof.Machine

/-! ### The checks at issue -/

/-- Every instruction but GSYNC is an issue around its own effect; the other rows are the engines' steps, which have no encoding. -/
theorem exec_eq_issueWith {i : Instr} (h : i.enc ≠ .none) (hg : ∀ x, i ≠ .gsync x) : ∃ cost k, ∀ s, exec i s = issueWith i cost k s := by
  cases i with
  | gsync x => exact absurd rfl (hg x)
  | rotacWrite | rotafStage | rotafCommit | correctedError | storageErrorKill | errorCountPoll | enqueue | lcmapWrite | lovfWrite
  | parkbaseWrite | qtimeoutWrite | jswapWrite | intdropWrite | rfmCommand | refreshSkip | kwayrLinkRetrain | remoteRequestReceive
  | remoteReplyReceive | nackReceive | powerOn | recoveryImageReceive | coreRailOvercurrent | powerRecover | transferResend
  | tailwaterWithholdEnd | coreCycle | ownerFreezeEnd | resultWriteback | windowCommitPoint | flumeSendResume | sliceTakesRun
  | sliceTakesMask | sliceTakesRegang | sliceTakesEnd | vpopTakesVal | vloopTakesTrip | returnQueueEntryArrive | vsendPushResume
  | frecvPop | returnQueueStarvation | flumeDeadlock | strandEnd | rallocGrant | rfreeQuietAct | strandSwapOut | strandSwapOutEnd
  | strandSwapIn | strandSwapInEnd | rotacTakesEffect | rotafTableInForce | swapBegin | swapQuietEnd | drainSlotArrival | swapSavePhase
  | swapRestorePhase | swapRebind | swapComplete | tileDrainComplete | tallocPickGrant | copyUnitLands | copyPageGranted | copyComplete
  | matCommandStart | matCommandEnd | twanyReturn | twallReturn | swaitComplete | bwaitRelease | gsyncComplete | memoryAccessAct
  | feRetryAttempt | wokenRetry | waitaSpuriousReturn | xlatAct | clauseCommandStart | capropRound | caloadColumnWrite | clauseCommandEnd
  | launchAct | distributorStep | overflowRecordRead | groupStrandsStart | joinObserveZero | joinSwapOut | joinSwapIn | cancelStrandStop
  | cancelQtimeoutKill | wlputAct | wlgetAttempt | strandedDetect | trapInPlaceEntry | trapRecordStore | watchdogTrap | preemptQuietEnd
  | preemptDrainEnd | preemptSaveEnd | commandTake | hostLaunch | hostOpen | hostClose | hostCancel | ocreate | oreset | odestroy | load
  | preempt | restore | swap | pause | resume | rota | resolve | unmap | stats | clearboot | intrRecordStore | remoteTimeout
  | powerFault => exact absurd rfl h
  | _ =>
    refine ⟨?_, ?_, fun s => ?_⟩
    rotate_left 2
    · simp only [exec, execBase, execNarrow, execSfn, issueLanes, issueIxrd, issueIxwr, issueAcc, issueMat, issueWl, issueClause, tagWait,
      execNop, execMov, execMovLit, execAdd, execAddLit, execSub, execSubLit, execMul, execMulLit, execMulhS32, execMulhS32Lit,
      execMulhN32, execMulhN32Lit, execMinS32, execMinS32Lit, execMinN32, execMinN32Lit, execMaxS32, execMaxS32Lit, execMaxN32,
      execMaxN32Lit, execAbs, execAbsLit, execAnd, execAndLit, execOr, execOrLit, execXor, execXorLit, execAndn, execAndnLit, execShl,
      execShlLit, execShr, execShrLit, execSra, execSraLit, execRot, execRotLit, execPopc, execPopcLit, execClz, execClzLit, execBrev,
      execBrevLit, execPrmb, execPrmbLit, execFadd, execFaddLit, execFsub, execFsubLit, execFmul, execFmulLit, execFmin, execFminLit,
      execFmax, execFmaxLit, execAddw, execAddwLit, execMulwN32, execMulwN32Lit, execMulwS32, execMulwS32Lit, execIxrd, execIxrdLit,
      execIxwr, execIxwrLit, execBra, execBrc, execCall, execJmp, execJmpLit, execExit, execVend, execVlend, execVpop, execFrecv,
      execYield, execTrap, execRfree, execRfreeLit, execVsend, execVsendLit, execCmp, execSel, execMad, execDiv, execBfx, execBfi,
      execFfma, execFcls, execCvt, execFrnd, execPfma, execEx2, execLg2, execRcp, execRsq, execSqt, execSin, execCos, execTanh, execSigm,
      execErf, execNadd, execNsub, execNmul, execNdot, execNmin, execNmax, execNpack, execShfl, execVote, execScan, execLred, execRnd,
      execLd, execSt, execAtom, execFeset, execFeget, execWaita, execWake, execXlat, execXdrop, execFence, execLdt, execStt, execCpy,
      execSeal, execSwait, execTwany, execTwall, execTfirst, execTclr, execBinit, execBarv, execBwait, execTalloc, execTfree, execTinfo,
      execMwld, execMstr, execMcon, execMclose, execMtile, execMstat, execCbld, execLaunch, execJoin, execCancel, execCntrd, execWlput,
      execWlget, execLcsync, execCaopen, execCaclose, execCaload, execCalearn, execCadec, execCaprop, execCaback, execCaval, execCatrail,
      execCadel, execSrd, execSwr, execEret, execEretDispose, execRalloc, execHgate, execIntr, execFrun, execFtrip, execFmask, execFval,
      execRegang, execVloop]
      rfl

section
variable {s : State} {cur : Cur} {c : Ctx} {i : Instr}

/-- A GSYNC that has no effect of its own is an issue too: no strand waits in it, and no group proceeds. -/
theorem exec_gsync_noEffect {x : XOps} {t : State} (hcur : s.cur = some cur) (hctx : ctxAt s cur = some c)
    (hn : issueError c (.gsync x) ≠ none ∨ (c.guarded x.g).lanes = [])
    (h : issueWith (.gsync x) 1 (fun _ s => .wait s []) s = .next t) : exec (.gsync x) s = .next t := by
  have hb : ((issueError c (.gsync x)).isNone && !(c.guarded x.g).lanes.isEmpty) = false := by
    rcases hn with hn | hn <;> simp [hn]
  simp only [exec_gsync, execGsync, h, hcur, Option.bind_some, hctx, hb, Bool.false_eq_true, if_false]

/-- An instruction without an effect of its own is an issue, whatever its effect would be. -/
theorem exec_noEffect {t : Nat → State} (hcur : s.cur = some cur) (hctx : ctxAt s cur = some c) (hi : i.enc ≠ .none)
    (hn : issueError c i ≠ none ∨ (c.guarded (fieldsOf i).g).lanes = []) (h : ∀ cost k, issueWith i cost k s = .next (t cost)) :
    ∃ cost, exec i s = .next (t cost) := by
  by_cases hg : ∃ x, i = .gsync x
  · obtain ⟨x, rfl⟩ := hg
    exact ⟨1, exec_gsync_noEffect hcur hctx hn (h 1 _)⟩
  · obtain ⟨cost, k, hx⟩ := exec_eq_issueWith hi fun x hx => hg ⟨x, hx⟩
    exact ⟨cost, (hx s).trans (h cost k)⟩

/-- An instruction that fails a check traps (R83). -/
theorem exec_issueError {tr : Trap} (hcur : s.cur = some cur) (hctx : ctxAt s cur = some c) (hi : i.enc ≠ .none)
    (he : issueError c i = some tr) : exec i s = .next (s.trapped c tr) := by
  obtain ⟨_, h⟩ := exec_noEffect (t := fun _ => s.trapped c tr) hcur hctx hi (.inl (by simp [he])) fun cost k => by
    simp only [issueWith, hcur, hctx, he]
  exact h

theorem issueError_stream (h : streamOk (fieldsOf i) c.isCtl = false) :
    issueError c i = some ⟨0x01, 0x04, 0, BitVec.ofNat 32 (maskOf c.lanes)⟩ := by
  simp [issueError, h]

theorem issueError_range {r : Nat} (hs : streamOk (fieldsOf i) c.isCtl = true) (hp : privOk i c.t.priv = true)
    (hr : rangeError c i = some r) : issueError c i = some ⟨0x02, 0, BitVec.ofNat 64 r, BitVec.ofNat 32 (maskOf c.lanes)⟩ := by
  simp [issueError, hs, hp, hr]

theorem issueError_lookahead (hs : streamOk (fieldsOf i) c.isCtl = true) (hp : privOk i c.t.priv = true) (hr : rangeError c i = none)
    (hl : lookaheadError c i = true) : issueError c i = some ⟨0x03, 0, 0, BitVec.ofNat 32 (maskOf c.lanes)⟩ := by
  simp [issueError, hs, hp, hr, hl]

/-- The registers of the operand fields are checked before those of a record (R83). -/
theorem rangeError_of_named {r : Nat} (h : ((fieldsOf i).writes ++ (fieldsOf i).reads).find? (fun r => decide (c.t.n ≤ r)) = some r) :
    rangeError c i = some r := by
  simp only [rangeError, List.find?_append (xs := (fieldsOf i).writes ++ (fieldsOf i).reads), h, Option.some_or]

theorem lookaheadError_of_named {r : Res} {d : Nat} (hr : r ∈ c.str.res) (he : r.ext = true) (hl : 0 < r.left) (hd : d ∈ r.dsts)
    (hn : d ∈ (fieldsOf i).writes ++ (fieldsOf i).reads) : lookaheadError c i = true := by
  have ht : d ∈ touched c i := List.mem_append_left _ hn
  have hne : r.dsts.isEmpty = false := List.isEmpty_eq_false_iff.2 (List.ne_nil_of_mem hd)
  exact List.any_eq_true.2 ⟨r, hr, by simpa [he, hl, hne] using .inr ⟨d, hd, ht⟩⟩

/-- A failed guard of the control stream leaves its instruction no lane (R16). -/
theorem guarded_ctl_lanes {g : Guard} (hc : c.isCtl = true) (hg : c.guard g 0 = false) : (c.guarded g).lanes = [] := by
  have hset : c.cur.set = none := by simpa [Ctx.isCtl] using hc
  simp [Ctx.guarded, hset, hg]

theorem guarded_cur (c : Ctx) (g : Guard) : (c.guarded g).cur = c.cur := by
  unfold Ctx.guarded
  split
  · rfl
  · split <;> rfl

theorem guarded_str (c : Ctx) (g : Guard) : (c.guarded g).str = c.str := by
  unfold Ctx.guarded
  split
  · rfl
  · split <;> rfl

/-- A control instruction whose guard fails issues without effect (R16), in two halves when it is one of cost 2 of an untimed owner (R124). -/
theorem exec_guardFails (hcur : s.cur = some cur) (hctx : ctxAt s cur = some c) (hi : i.enc ≠ .none) (he : issueError c i = none)
    (hc : c.isCtl = true) (hg : c.guard (fieldsOf i).g 0 = false) :
    ∃ cost, exec i s = .next (if cost = 2 ∧ s.untimed cur.strand.owner = true ∧ c.str.half = false then s.firstHalf cur
      else s.issued (c.guarded (fieldsOf i).g) i cost none [] true none) := by
  have hctl : (c.guarded (fieldsOf i).g).isCtl = true := by rw [Ctx.isCtl, guarded_cur]; exact hc
  have hl := guarded_ctl_lanes (g := (fieldsOf i).g) hc hg
  refine exec_noEffect hcur hctx hi (.inr hl) fun cost k => ?_
  simp only [issueWith, hcur, hctx, he, guarded_str, hctl, hl, List.isEmpty_nil, Bool.and_self, if_true]
  split <;> rfl

/-- A gang's guard narrows the lanes one by one (R16). -/
theorem guarded_vec_lanes {g : Guard} (hc : c.isCtl = false) : (c.guarded g).lanes = c.lanes.filter (c.guard g) := by
  obtain ⟨k, hk⟩ : ∃ k, c.cur.set = some k := Option.isSome_iff_exists.1 (by simpa [Ctx.isCtl] using hc)
  simp [Ctx.guarded, hk]

end

/-- Settles O52: the checks in the order of R83, and the frame of what they answer. -/
theorem issueChecksAndGuards : Obligations.IssueChecksAndGuards := by
  unfold Obligations.IssueChecksAndGuards
  intro s cur c i hcur hctx hi
  have traps {tr : Trap} (he : issueError c i = some tr) : exec i s = .next (s.trapped c tr) := exec_issueError hcur hctx hi he
  refine ⟨fun hs => traps (issueError_stream hs), fun r hp hr => traps (issueError_range hp.1 hp.2 (rangeError_of_named hr)), ?_,
    exec_guardFails hcur hctx hi, guarded_vec_lanes, fun tr u hu => ?_⟩
  · rintro ⟨hs, hp⟩ hr ⟨r, hmem, he, hl, d, hd, hn⟩
    exact traps (issueError_lookahead hs hp hr (lookaheadError_of_named hmem he hl hd hn))
  · have hk : s.Keeps u := by
      rcases hu with rfl | rfl | ⟨cost, rfl⟩
      · exact .trapped
      · exact .firstHalf
      · exact .issued
    exact ⟨fun a => by rw [State.byte, State.byte, hk.mem], hk.hostMem, hk.owners,
      hk.map_eq (fun x => (x.1.1, x.1.2.1, x.1.2.2.1, x.2.1, x.2.2.2.1)) fun _ => rfl⟩

/-! ### The instructions that compute -/

/-- An instruction that at issue traps, or has a result and changes nothing but what its logical core's divider holds. -/
def OnlyComputes (i : Instr) : Prop :=
  ∃ cost k, (∀ s, exec i s = issueWith i cost k s) ∧ ∀ c s, (∃ cause sub addr mask, k c s = .trap cause sub addr mask) ∨
    ∃ s' lat ws, k c s = .done s' lat ws none ∧ s.Keeps s'

section
variable {i : Instr}

theorem lanes_onlyComputes {cost lat : Nat} {d : Dst} {f : Ctx → Nat → List Word} (h : ∀ s, exec i s = issueLanes i cost lat d f s) :
    OnlyComputes i :=
  ⟨cost, _, h, fun _ s => .inr ⟨s, _, _, rfl, .refl s⟩⟩

/-- IXRD and IXWR trap at the first active lane whose index is too high, and else have the result `ws` (R406). -/
def indexedEff (a : Src) (ws : Ctx → List (Nat × Nat × Word)) (c : Ctx) (s : State) : Eff :=
  match badIndex c a with
  | some l => .trapAll 0x02 0 ((c.src a l).setWidth 64)
  | none => .result s 4 (ws c)

theorem indexed_onlyComputes (a : Src) (ws : Ctx → List (Nat × Nat × Word)) (h : ∀ s, exec i s = issueWith i 1 (indexedEff a ws) s) :
    OnlyComputes i := by
  refine ⟨1, _, h, fun c s => ?_⟩
  unfold indexedEff
  cases badIndex c a with
  | some l => exact .inl ⟨_, _, _, _, rfl⟩
  | none => exact .inr ⟨s, _, _, rfl, .refl s⟩

end

/-- Is an opcode one of those that compute? -/
def computingOp (op : Nat) : Bool := (decide (1 ≤ op) && decide (op ≤ 0x21)) || (decide (0x40 ≤ op) && decide (op ≤ 0x4E))

/-- The opcode field of a base word. -/
theorem field_op (a n : Nat) (h : a < 2 ^ 9) : field (BitVec.ofNat 32 (a + n * 2 ^ 9)) 8 2 = a / 4 := by
  simp only [field, BitVec.toNat_ofNat]
  omega

theorem onlyComputes_of_op {i : Instr} (h : computingOp (fieldsOf i).op = true) : OnlyComputes i := by
  cases i with
  | mov | movLit | add | addLit | sub | subLit | mul | mulLit | mulhS32 | mulhS32Lit | mulhN32 | mulhN32Lit | minS32 | minS32Lit | minN32
  | minN32Lit | maxS32 | maxS32Lit | maxN32 | maxN32Lit | abs | absLit | and | andLit | or | orLit | xor | xorLit | andn | andnLit | shl
  | shlLit | shr | shrLit | sra | sraLit | rot | rotLit | popc | popcLit | clz | clzLit | brev | brevLit | prmb | prmbLit | fadd
  | faddLit | fsub | fsubLit | fmul | fmulLit | fmin | fminLit | fmax | fmaxLit | addw | addwLit | mulwN32 | mulwN32Lit | mulwS32
  | mulwS32Lit | cmp | sel | mad | bfx | bfi | ffma | fcls | cvt | frnd | pfma | ex2 | lg2 | rcp | rsq | sqt | sin | cos | tanh | sigm
  | erf | nadd | nsub | nmul | ndot | nmin | nmax | npack | shfl | vote | lred | rnd =>
    refine lanes_onlyComputes (cost := ?_) (lat := ?_) (d := ?_) (f := ?_) fun s => ?_
    rotate_left 4
    · simp only [exec, execBase, execNarrow, execSfn,
      execMov, execMovLit, execAdd, execAddLit, execSub, execSubLit, execMul, execMulLit, execMulhS32, execMulhS32Lit, execMulhN32,
      execMulhN32Lit, execMinS32, execMinS32Lit, execMinN32, execMinN32Lit, execMaxS32, execMaxS32Lit, execMaxN32, execMaxN32Lit,
      execAbs, execAbsLit, execAnd, execAndLit, execOr, execOrLit, execXor, execXorLit, execAndn, execAndnLit, execShl, execShlLit,
      execShr, execShrLit, execSra, execSraLit, execRot, execRotLit, execPopc, execPopcLit, execClz, execClzLit, execBrev, execBrevLit,
      execPrmb, execPrmbLit, execFadd, execFaddLit, execFsub, execFsubLit, execFmul, execFmulLit, execFmin, execFminLit, execFmax,
      execFmaxLit, execAddw, execAddwLit, execMulwN32, execMulwN32Lit, execMulwS32, execMulwS32Lit, execCmp, execSel, execMad, execBfx,
      execBfi, execFfma, execFcls, execCvt, execFrnd, execPfma, execEx2, execLg2, execRcp, execRsq, execSqt, execSin, execCos, execTanh,
      execSigm, execErf, execNadd, execNsub, execNmul, execNdot, execNmin, execNmax, execNpack, execShfl, execVote, execLred, execRnd]
      rfl
  | ixrd o | ixrdLit o =>
    exact indexed_onlyComputes o.a (fun c => c.lanes.flatMap fun l => dstOuts o.d l [c.reg (c.src o.a l).toNat l]) fun _ => rfl
  | ixwr o | ixwrLit o => exact indexed_onlyComputes o.a (fun c => c.lanes.map fun l => ((c.src o.a l).toNat, l, c.src o.b l)) fun _ => rfl
  | div x ty => exact ⟨1, _, fun _ => exec_div.trans rfl, fun c s => .inr ⟨_, _, _, rfl, .modLcore⟩⟩
  | scan x ty m e => exact ⟨1, _, fun _ => exec_scan.trans rfl, fun c s => .inr ⟨s, _, _, rfl, .refl s⟩⟩
  | bra off =>
    have hop : (fieldsOf (.bra off)).op = 0x88 / 4 := field_op 0x88 _ (by decide)
    rw [hop] at h
    exact absurd h (by decide)
  | trap code =>
    have hop : (fieldsOf (.trap code)).op = 0xB0 / 4 := by
      refine (congrArg (fun n => field (BitVec.ofNat 32 n) 8 2) ?_).trans
        (field_op 0xB0 (0x7B + code.toNat / 2 ^ 7 * 2 ^ 7 + code.toNat % 2 ^ 7 * 2 ^ 14) (by decide))
      omega
    rw [hop] at h
    exact absurd h (by decide)
  | _ => exact absurd (show false = true from h) Bool.false_ne_true

/-- The frame of an instruction that only computes, whatever comes of its issue. -/
theorem OnlyComputes.keeps {i : Instr} {s t : State} (hi : OnlyComputes i) (h : exec i s = .next t) : s.Keeps t := by
  obtain ⟨cost, k, hx, hk⟩ := hi
  rw [hx] at h
  obtain ⟨cur, c, -, -, ⟨tr, -, rfl⟩ | rfl | rfl | ⟨c', -, he⟩⟩ := issueWith_cases h
  · exact .trapped
  · exact .issued
  · exact .firstHalf
  · obtain ⟨cause, sub, addr, mask, hk⟩ | ⟨s', lat, ws, hk, hs⟩ := hk c' s
    · rw [hk] at he
      exact Host.Outcome.next.inj he ▸ .trapped
    · rw [hk] at he
      exact Host.Outcome.next.inj he ▸ hs.trans .issued

/-- Settles O46. -/
theorem computingInstructionsChangeNoState : Obligations.ComputingInstructionsChangeNoState := by
  unfold Obligations.ComputingInstructionsChangeNoState
  intro i s t hop h
  have hk : s.Keeps t := (onlyComputes_of_op (by simpa [computingOp] using hop)).keeps h
  exact ⟨fun a => by rw [State.byte, State.byte, hk.mem], hk.mem, hk.hostMem, hk.empties, hk.poison, hk.dev, hk.cores, hk.owners, hk.clauses,
    hk.images, hk.dcyc, hk.transfers, hk.outbox, hk.intrs, hk.log, hk.map_eq (·.1) fun _ => rfl, hk.map_eq (fun x => (x.1.1, x.2)) fun _ => rfl⟩

end Sys2Proof.Machine
end

section
/-!
THEOREM. Instructions that waited at issue (R20, R22, R32, R33): the operations of an issue and of a trap leave no wait in a stream that
has none, so an instruction that issues again in such a stream goes on.
-/

namespace Sys2Proof.Machine

/-! ### A stream without a wait -/

/-- The waiting instruction of one of a strand's streams. -/
def Strand.waitAt (t : Strand) (d : Option Nat) : Option Wait := (t.stream? d).bind (·.wait)

theorem waitOf_eq (s : State) (c : Cur) : waitOf s c = (s.strand? c.strand).bind (·.waitAt c.set) := by
  unfold waitOf Strand.waitAt
  cases s.strand? c.strand <;> rfl

/-- No instruction waits in a stream. -/
def State.NoWait (s : State) (c : Cur) : Prop := waitOf s c = none

theorem waitAt_modStream {t : Strand} {d : Option Nat} {f : Stream → Stream} (hf : ∀ x, x.wait = none → (f x).wait = none)
    (h : t.waitAt d = none) : (t.modStream d f).waitAt d = none := by
  rw [Strand.waitAt, stream?_modStream]
  rw [Strand.waitAt] at h
  cases hx : t.stream? d with
  | none => rfl
  | some x => exact hf x (by simpa [hx] using h)

theorem waitAt_of_streams {t u : Strand} {d : Option Nat} (hc : u.ctl = t.ctl) (hs : u.sets = t.sets) : u.waitAt d = t.waitAt d := by
  cases d <;> simp [Strand.waitAt, Strand.stream?, Strand.set?, hc, hs]

/-- A stopped strand waits for nothing (R39). -/
theorem waitAt_of_stopped {t u : Strand} {d : Option Nat} (hc : u.ctl = t.ctl.stopped)
    (hs : u.sets = t.sets.map fun g => { g with st := .stopped, str := g.str.stopped, loops := [] }) : u.waitAt d = none := by
  cases d with
  | none => simp [Strand.waitAt, Strand.stream?, hc, Stream.stopped]
  | some k =>
    simp only [Strand.waitAt, Strand.stream?, Strand.set?, hs, List.find?_map, Option.map_map]
    cases t.sets.find? _ with
    | none => rfl
    | some g => rfl

theorem waitAt_retireStrand {s : State} {c : Ctx} {i : Instr} {id : Nat} {lat : Option Nat} {ws : List (Nat × Nat × Word)} {dead : Bool}
    {pc : Option Word} {r : Nat} {t : Strand} (h : t.waitAt c.cur.set = none) :
    (s.retireStrand c i id lat ws dead pc r t).waitAt c.cur.set = none := by
  by_cases hk : t.killed = true
  · simpa [State.retireStrand, hk] using h
  · rw [Strand.waitAt, stream?_retireStrand (by simpa using hk)]
    cases t.stream? c.cur.set <;> rfl

@[simp] theorem wait_takeHz (x : Stream) (l : List Nat) (h : Horizon) : (x.takeHz l h).wait = x.wait := by
  unfold Stream.takeHz
  split <;> rfl

namespace State.NoWait

theorem of_strands {s t : State} {c : Cur} (h : t.strands = s.strands) (hw : s.NoWait c) : t.NoWait c := by
  rw [State.NoWait, waitOf_eq, State.strand?, h]
  rwa [State.NoWait, waitOf_eq, State.strand?] at hw

theorem modStrand {s : State} {c : Cur} {i : StrandId} {f : Strand → Strand} (hid : ∀ t, (f t).id = t.id)
    (hf : ∀ t, t.waitAt c.set = none → (f t).waitAt c.set = none) (hw : s.NoWait c) : (s.modStrand i f).NoWait c := by
  rw [State.NoWait, waitOf_eq] at hw ⊢
  rw [strand?_modStrand hid]
  cases ht : s.strand? c.strand with
  | none => rfl
  | some t =>
    rw [ht, Option.bind_some] at hw
    rw [Option.map_some, Option.bind_some]
    split
    · exact hf t hw
    · exact hw

theorem ite {s t : State} {c : Cur} {p : Prop} [Decidable p] (h : s.NoWait c) (k : t.NoWait c) : (if p then s else t).NoWait c := by
  split
  · exact h
  · exact k

/-- A change of a strand beside its streams. -/
theorem modStrand_beside {s : State} {c : Cur} {i : StrandId} {f : Strand → Strand} (hid : ∀ t, (f t).id = t.id)
    (hc : ∀ t, (f t).ctl = t.ctl) (hs : ∀ t, (f t).sets = t.sets) (hw : s.NoWait c) : (s.modStrand i f).NoWait c :=
  hw.modStrand hid fun t ht => (waitAt_of_streams (hc t) (hs t)).trans ht

theorem modStream {s : State} {c : Cur} {f : Stream → Stream} (hf : ∀ x, x.wait = none → (f x).wait = none) (hw : s.NoWait c) :
    (s.modStream c f).NoWait c :=
  hw.modStrand (fun t => by cases h : c.set <;> rfl) fun _ => waitAt_modStream hf

/-- A gang set's loops and marks are beside its stream. -/
theorem modSetOf {s : State} {c : Cur} {f : GSet → GSet} (hk : ∀ g, (f g).key = g.key) (hs : ∀ g, (f g).str = g.str) (hw : s.NoWait c) :
    (s.modSetOf c f).NoWait c := by
  refine hw.modStrand (fun t => by cases h : c.set <;> rfl) fun t ht => ?_
  cases h : c.set with
  | none => rwa [h] at ht
  | some k =>
    rw [h] at ht
    have : (f · |>.str) = GSet.str := funext hs
    simpa [Strand.waitAt, Strand.stream?, set?_modSet hk, Option.map_map, Function.comp_def, this] using ht

theorem reissued (s : State) (c : Cur) : (s.reissued c).NoWait c := by
  have h : (s.modStream c fun x => { x with wait := none }).NoWait c := by
    rw [State.NoWait, waitOf_eq, State.modStream, strand?_modStrand fun t => by cases h : c.set <;> rfl]
    cases ht : s.strand? c.strand with
    | none => rfl
    | some t =>
      simp only [Option.map_some, Option.bind_some, strand?_id ht, beq_self_eq_true, if_true, Strand.waitAt, stream?_modStream]
      cases t.stream? c.set <;> rfl
  exact h

theorem issued {s : State} {c : Ctx} {i : Instr} {cost : Nat} {lat : Option Nat} {ws : List (Nat × Nat × Word)} {dead : Bool}
    {pc : Option Word} (hw : s.NoWait c.cur) : (s.issued c i cost lat ws dead pc).NoWait c.cur := by
  obtain ⟨r, -, hs⟩ := issued_strands s c i cost lat ws dead pc
  exact of_strands hs (hw.modStrand (fun _ => retireStrand_id) fun _ => waitAt_retireStrand)

/-! ### Traps (R39, R298 to R301) -/

theorem undoDispose {s : State} {c : Cur} {i : StrandId} (hw : s.NoWait c) : (s.undoDispose i).NoWait c := by
  unfold State.undoDispose
  generalize List.filter _ _ = l
  have one (s : State) (now : Nat) (d : StrandId × Nat × Nat) (hw : s.NoWait c) : (State.undoOne now s d).NoWait c := by
    unfold State.undoOne
    split
    · exact hw.modStrand_beside (fun _ => rfl) (fun _ => rfl) fun _ => rfl
    · exact hw
  generalize s.lcNow _ _ = now
  induction l generalizing s with
  | nil => exact hw
  | cons d l ih => exact ih (one s now d hw)

theorem gsyncCheck {s : State} {c : Cur} {g : Nat} (hw : s.NoWait c) : (s.gsyncCheck g).NoWait c := by
  unfold State.gsyncCheck
  split
  · dsimp only
    split
    · exact of_strands rfl hw
    · exact hw
  · exact hw

theorem killStrand {s : State} {c : Cur} {i : StrandId} (hw : s.NoWait c) : (s.killStrand i).NoWait c := by
  unfold State.killStrand
  dsimp only
  have h := hw.undoDispose (i := i) |>.modStrand (i := i) (f := fun t => { t with
    killed := true, cst := .exited, ctl := t.ctl.stopped, sets := t.sets.map fun g => { g with st := .stopped, str := g.str.stopped, loops := [] }
    flume := [], rq := [], pends := [] }) (fun _ => rfl) fun _ _ => waitAt_of_stopped rfl rfl
  split
  · exact gsyncCheck (of_strands rfl h)
  · exact of_strands rfl h

theorem queueTrap {s : State} {c : Cur} {tr : Trap} {b : Bool} (hw : s.NoWait c) : (s.queueTrap c tr b).NoWait c := by
  unfold State.queueTrap
  split
  · next t w l _ _ _ =>
    have killed : ((s.faultGroup t.grp).killStrand c.strand).NoWait c := killStrand (of_strands rfl hw)
    have awaits (tr : Trapped) : (s.modStream c fun x => { x with trap := some tr, place := false }).NoWait c := hw.modStream fun _ h => h
    exact ite killed (ite (hw.modStream fun _ h => h) (ite (of_strands rfl (awaits _)) (of_strands rfl killed)))
  · exact hw

theorem takeTrap {s : State} {c : Cur} {tr : Trap} {b : Bool} (hw : s.NoWait c) : (s.takeTrap c tr b).NoWait c := by
  unfold State.takeTrap
  split
  · exact hw.queueTrap
  · have h : (s.modStrand c.strand fun t => { t with cst := .run }).NoWait c := hw.modStrand_beside (fun _ => rfl) (fun _ => rfl) fun _ => rfl
    dsimp only
    split
    · exact h.modStream fun _ _ => rfl
    · exact h.queueTrap

theorem trapped {s : State} {c : Ctx} {tr : Trap} (hw : s.NoWait c.cur) : (s.trapped c tr).NoWait c.cur :=
  of_strands (usePipe_strands _ _ _) hw.takeTrap

/-! ### Tokens and the return queue -/

theorem send {s : State} {c : Ctx} {kind : TokKind} {v : Word} {l : List Nat} {rel : Bool} (hw : s.NoWait c.cur) :
    (s.send c kind v l rel).NoWait c.cur :=
  hw.modStrand_beside (f := fun t => { t with flume := t.flume ++ _ }) (fun _ => rfl) (fun _ => rfl) fun _ => rfl

theorem takeToken {s : State} {c : Ctx} {k : Token} {l : List Nat} (hw : s.NoWait c.cur) : (s.takeToken c k l).NoWait c.cur := by
  have h : (s.modStrand c.cur.strand fun t => { t with flume := dropSlices t.flume k.id l }).NoWait c.cur :=
    hw.modStrand_beside (fun _ => rfl) (fun _ => rfl) fun _ => rfl
  unfold State.takeToken
  dsimp only
  split
  · exact h
  · exact h.modStream fun x hx => (wait_takeHz ..).trans hx

end State.NoWait

/-! ### Effects that do not wait -/

/-- An effect that does not wait, and that leaves no wait in the issuing stream. -/
def Eff.GoesOn (c : Cur) : Eff → Prop
  | .trap .. => True
  | .done s .. => s.NoWait c
  | _ => False

theorem effOutcome_goesOn {i : Instr} {cost : Nat} {c : Ctx} {s : State} {e : Eff} (hw : s.NoWait c.cur) (he : e.GoesOn c.cur) :
    ∃ t, effOutcome i cost c s e = .next t ∧ t.NoWait c.cur := by
  cases e with
  | trap => exact ⟨_, rfl, hw.trapped⟩
  | done => exact ⟨_, rfl, State.NoWait.issued he⟩
  | wait => exact he.elim
  | stall => exact he.elim
  | free => exact he.elim

section
variable {c : Ctx} {s : State} {d : Cur} (hw : s.NoWait c.cur)
include hw

theorem sendEff_goesOn {kind : TokKind} {a : Src} {mask : BitVec 8} {rel : Bool} (h : c.t.flume.length < 16) :
    (sendEff kind a mask rel c s).GoesOn c.cur := by
  unfold sendEff
  split
  · trivial
  · rw [if_neg (by omega)]
    exact hw.send

theorem openLoop_goesOn {i : Instr} {last : Nat} {n : Word} : (openLoop c i last n s).GoesOn c.cur := by
  unfold openLoop
  split
  · exact hw
  · exact hw.modSetOf (fun _ => rfl) fun _ => rfl

theorem loopEff_goesOn {x : XOps} {ft : Bool} {g : GSet} {last : Nat} (h : findToken c.t g c.now ≠ .nothing) :
    (loopEff x ft g last c s).GoesOn c.cur := by
  unfold loopEff
  split
  · split
    · contradiction
    · trivial
    · split
      · exact openLoop_goesOn hw.takeToken
      · trivial
  · exact openLoop_goesOn hw

theorem popEff_goesOn {x : Dst} {g : GSet} (h : findToken c.t g c.now ≠ .nothing) : (popEff x g c s).GoesOn c.cur := by
  unfold popEff
  split
  · contradiction
  · trivial
  · split
    · exact hw.takeToken
    · trivial

theorem vsendEff_goesOn {m : SendMode} {a : Src} (h : c.t.rq.length < 8) : (vsendEff m a c s).GoesOn c.cur := by
  rw [vsendEff, if_neg (by omega)]
  exact hw.modStrand_beside (fun _ => rfl) (fun _ => rfl) fun _ => rfl

end

/-! ### Issuing again -/

theorem ctxAt_cur {s : State} {cur : Cur} {c : Ctx} (h : ctxAt s cur = some c) : c.cur = cur := by
  unfold ctxAt at h
  split at h
  · split at h
    · injection h with h
      exact h ▸ rfl
    · contradiction
  · contradiction

theorem issuing_cur {s : State} {i : Instr} {cost : Nat} {c : Ctx} (h : issuing s i cost = some c) : s.cur = some c.cur := by
  unfold issuing at h
  obtain ⟨cur, hcur, h⟩ := Option.bind_eq_some_iff.1 h
  obtain ⟨c0, hc0, h⟩ := Option.bind_eq_some_iff.1 h
  dsimp only at h
  split_ifs at h
  injection h with h
  rw [hcur, ← h, guarded_cur, ctxAt_cur hc0]

/-- A row issues an instruction again when its effect goes on wherever it is ready. -/
theorem resumes_of {row i : Instr} {cur : Cur} {Ready : Ctx → Prop}
    (hrow : ∀ s w, waitOf s cur = some w → w.instr = i → exec row s = resumeWith cur (exec i) s)
    (heff : ∀ s c, s.NoWait c.cur → issuing s i 1 = some c → Ready c → ∃ e, exec i s = effOutcome i 1 c s e ∧ e.GoesOn c.cur) :
    Resumes row cur i Ready := by
  intro s w c hw hi hoff his hr
  have hc : cur = c.cur := Option.some.inj (issuing_cur his)
  have hnw : (s.reissued cur).NoWait c.cur := hc ▸ State.NoWait.reissued s cur
  obtain ⟨e, hx, he⟩ := heff _ c hnw his hr
  obtain ⟨t, ht, hn⟩ := effOutcome_goesOn (i := i) (cost := 1) hnw he
  have hx : exec i (s.reissued cur) = .next t := hx.trans ht
  refine ⟨t, ?_, hx⟩
  rw [hrow s w hw hi, resumeWith, if_pos hoff]
  change (match exec i (s.reissued cur) with | .next t => _ | r => r) = _
  rw [hx]
  have hn : waitOf t cur = none := hc ▸ hn
  simp [hn]

theorem resumes_exit {st : StrandId} : Resumes (.flumeSendResume st) ⟨st, none⟩ .exit fun c => c.t.flume.length < 16 := by
  refine resumes_of (fun s w hw hwi => ?_) fun s c hw his hr => ?_
  · rw [exec_flumeSendResume, execFlumeSendResume, hw, Option.map_some, hwi]; rfl
  · refine ⟨.plain _, by rw [exec_exit, execExit, issueWith_issuing _ his, if_neg (Nat.not_le.2 hr)], ?_⟩
    exact hw.send.modStrand_beside (fun _ => rfl) (fun _ => rfl) fun _ => rfl

theorem resumes_flume {st : StrandId} {x : XOps} {mask : BitVec 8} {rel : Bool} {i : Instr}
    (hi : i ∈ ([.frun x mask rel, .ftrip x mask, .fmask x mask, .fval x mask rel, .regang x mask, .exit] : List Instr)) :
    Resumes (.flumeSendResume st) ⟨st, none⟩ i fun c => c.t.flume.length < 16 := by
  simp only [List.mem_cons, List.not_mem_nil, or_false] at hi
  rcases hi with rfl | rfl | rfl | rfl | rfl | rfl
  case inr.inr.inr.inr.inr => exact resumes_exit
  all_goals
    refine resumes_of (fun s w hw hwi => ?_) fun s c hw his hr => ⟨_, exec_of_effect rfl his rfl, sendEff_goesOn hw hr⟩
    rw [exec_flumeSendResume, execFlumeSendResume, hw, Option.map_some, hwi]; rfl

theorem resumes_vpop {st : StrandId} {k : Nat} {d : Dst} :
    Resumes (.vpopTakesVal st k) ⟨st, some k⟩ (.vpop d) fun c => ∀ g, c.set? = some g → findToken c.t g c.now ≠ .nothing := by
  refine resumes_of (fun s w hw hwi => ?_) fun s c hw his hr => ?_
  · rw [exec_vpopTakesVal, execVpopTakesVal, hw, Option.map_some, hwi]; rfl
  · cases hg : c.set? with
    | none => exact ⟨.plain s, by rw [exec_vpop, execVpop, issueWith_issuing _ his]; simp only [hg], hw⟩
    | some g => exact ⟨_, exec_vpop_issuing his hg, popEff_goesOn hw (hr g hg)⟩

theorem resumes_vloop {st : StrandId} {k : Nat} {x : XOps} :
    Resumes (.vloopTakesTrip st k) ⟨st, some k⟩ (.vloop x true) fun c => ∀ g, c.set? = some g → findToken c.t g c.now ≠ .nothing := by
  refine resumes_of (fun s w hw hwi => ?_) fun s c hw his hr => ?_
  · rw [exec_vloopTakesTrip, execVloopTakesTrip, hw, Option.map_some, hwi]; rfl
  · cases hg : c.set? with
    | none => exact ⟨.plain s, by rw [exec_vloop, execVloop, issueWith_issuing _ his]; simp only [hg], hw⟩
    | some g =>
      by_cases hl : 3 ≤ g.loops.length
      · exact ⟨_, exec_vloop_deep his hg hl, trivial⟩
      · cases hf : findVlend s c.cur.strand.owner 256 0 (c.bodyOf (.vloop x true)) with
        | none => exact ⟨_, exec_vloop_unmatched his hg (by omega) hf, trivial⟩
        | some last => exact ⟨_, exec_vloop_matched his hg (by omega) hf, loopEff_goesOn hw (hr g hg)⟩

theorem resumes_vsend {st : StrandId} {k : Nat} {m : SendMode} {a : Src} {i : Instr} (hi : i = .vsend m a ∨ i = .vsendLit m a) :
    Resumes (.vsendPushResume st k) ⟨st, some k⟩ i fun c => c.t.rq.length < 8 := by
  refine resumes_of (fun s w hw hwi => ?_) fun s c hw his hr => ?_
  · rcases hi with rfl | rfl <;> (rw [exec_vsendPushResume, execVsendPushResume, hw, Option.map_some, hwi]; rfl)
  · rcases hi with rfl | rfl <;> exact ⟨_, exec_of_effect rfl his rfl, vsendEff_goesOn hw hr⟩

theorem resumes_frecv {st : StrandId} {d : Dst} :
    Resumes (.frecvPop st) ⟨st, none⟩ (.frecv d) fun c => ∃ e l, c.t.rq = e :: l ∧ e.here = true := by
  refine resumes_of (fun s w hw hwi => ?_) fun s c hw his ⟨e, l, hq, he⟩ => ?_
  · rw [exec_frecvPop, execFrecvPop, hw, Option.map_some, hwi]; rfl
  · refine ⟨.result (s.modStrand c.cur.strand fun t => { t with rq := l, ctl := t.ctl.takeHz [8] e.hz }) 4 (c.fill d [e.val]), ?_, ?_⟩
    · rw [exec_frecv, execFrecv, issueWith_issuing _ his]
      simp only [hq, he, if_true]
    · refine hw.modStrand (fun _ => rfl) fun t ht => ?_
      cases hs : c.cur.set with
      | none => rw [hs] at ht; exact (wait_takeHz ..).trans ht
      | some k => rw [hs] at ht; exact ht

/-- Settles O31: each row's instruction, and that its effect goes on when it is ready. -/
theorem waitingInstructionsIssueAgain : Obligations.WaitingInstructionsIssueAgain := by
  unfold Obligations.WaitingInstructionsIssueAgain
  exact fun st k x mask rel d m a => ⟨fun i hi => resumes_flume hi, resumes_vpop, resumes_vloop, fun i hi => resumes_vsend hi, resumes_frecv⟩

end Sys2Proof.Machine
end

section
/-!
THEOREM. Idle gang sets that take their next token, the traps of waits with nothing left to come (R21 to R25, R34, R35, R477), and
the write of a result (R40, R115, R124).
-/

namespace Sys2Proof.Machine

/-! ### Idle gang sets (R21 to R25, R477) -/

section
variable {s : State} {i : StrandId} {k : Nat} {t : Strand} {g : GSet} {e : Token} {now : Nat}

/-- An idle gang set takes a token of its step's kind. -/
theorem takeIdle_taken {kind : TokKind} {f : Strand → GSet → Token → List Nat → Nat → Strand} (h : idleToken s i k = some (t, g, e, now))
    (hk : e.kind = kind) (ht : kind ≠ .trip) (hv : kind ≠ .val) :
    takeIdle i k kind f s = .next (s.modStrand i fun u => f u g e (g.slices.filter e.left.contains) now) := by
  simp only [takeIdle, h, hk, ht, hv, or_false, if_false, if_true]

/-- A token that belongs in a block is misuse at an idle set, whatever step is due (R22). -/
theorem takeIdle_misuse {kind : TokKind} {f : Strand → GSet → Token → List Nat → Nat → Strand} (h : idleToken s i k = some (t, g, e, now))
    (hk : e.kind = .trip ∨ e.kind = .val) : takeIdle i k kind f s = .next (idleMisuse s t g) := by
  simp only [takeIdle, h, hk, if_true]

end

/-- A set that waits at a REGANG, or at a VSEND with the return queue full, takes no token (R35). -/
theorem stuck_of {g : GSet} {n : Nat} (h : (∃ q, g.st = .regang q) ∨ (8 ≤ n ∧ g.st = .block ∧ ∃ m a,
    g.str.wait.map Wait.instr = some (.vsend m a) ∨ g.str.wait.map Wait.instr = some (.vsendLit m a))) :
    g.stuck (decide (8 ≤ n)) = true := by
  rcases h with ⟨q, hq⟩ | ⟨hn, hb, m, a, hw | hw⟩
  · simp [GSet.stuck, hq]
  · simp [GSet.stuck, hb, hw, hn]
  · simp [GSet.stuck, hb, hw, hn]

/-- FRECV with an empty queue, and no set that could still send, traps (R34). -/
theorem exec_returnQueueStarvation_starved {s : State} {i : StrandId} {t : Strand} {d : Dst} (ht : s.strand? i = some t)
    (hw : t.ctl.wait.map Wait.instr = some (.frecv d)) (hq : t.rq = [])
    (hs : ∀ g ∈ t.sets, g.st = .stopped ∨ g.str.trap ≠ none ∨ (g.st = .idle ∧ t.tokenOf g = none)) :
    exec (.returnQueueStarvation i) s = .next (s.takeTrap ⟨i, none⟩ ⟨0x13, 0, 0, 0xF⟩ false) := by
  have hall : (t.sets.all fun g => g.st == .stopped || g.str.trap.isSome || (g.st == .idle && (t.tokenOf g).isNone)) = true := by
    refine List.all_eq_true.2 fun g hg => ?_
    rcases hs g hg with h | h | ⟨h, hn⟩
    · simp [h]
    · simp [Option.isSome_iff_ne_none.2 h]
    · simp [h, hn]
  simp only [exec_returnQueueStarvation, execReturnQueueStarvation, ht, hw, hq, hall, List.isEmpty_nil, Bool.and_self, if_true]
  rfl

/-- A flume instruction with the flume full, and no set that could still take a token, traps (R35). -/
theorem exec_flumeDeadlock_stuck {s : State} {i : StrandId} {t : Strand} {w : Wait} (ht : s.strand? i = some t) (hw : t.ctl.wait = some w)
    (hi : sends w.instr = true) (hf : 16 ≤ t.flume.length) (hs : ∀ g ∈ t.sets, g.stuck (decide (8 ≤ t.rq.length)) = true) :
    exec (.flumeDeadlock i) s = .next (s.takeTrap ⟨i, none⟩ ⟨0x05, 1, 0, 0xF⟩ false) := by
  simp only [exec_flumeDeadlock, execFlumeDeadlock, ht, hw, Option.map_some, Option.getD_some, hi, hf, decide_true,
    List.all_eq_true.2 hs, Bool.and_self, if_true]
  rfl

/-- Settles O32. -/
theorem setsTakeTokensAndDeadlocksTrap : Obligations.SetsTakeTokensAndDeadlocksTrap := by
  unfold Obligations.SetsTakeTokensAndDeadlocksTrap
  intro i k t g e now d w
  refine ⟨fun s ⟨h, hk⟩ => ?_, fun s ⟨h, hk⟩ => ?_, fun s ⟨h, hk⟩ => ?_, fun s ⟨h, hk⟩ => ?_, fun s ⟨ht, hw, hq, hs⟩ => exec_returnQueueStarvation_starved ht hw hq hs,
    fun s ⟨ht, hw, hi, hf, hs⟩ => exec_flumeDeadlock_stuck ht hw hi hf fun g hg => stuck_of (hs g hg), fun r hr s h => ?_⟩
  · rw [exec_sliceTakesRun, execSliceTakesRun]; exact takeIdle_taken h hk (by decide) (by decide)
  · rw [exec_sliceTakesMask, execSliceTakesMask]; exact takeIdle_taken h hk (by decide) (by decide)
  · rw [exec_sliceTakesRegang, execSliceTakesRegang]; exact takeIdle_taken h hk (by decide) (by decide)
  · rw [exec_sliceTakesEnd, execSliceTakesEnd]; exact takeIdle_taken h hk (by decide) (by decide)
  have hid : idleToken s i k = some (t, g, e, now) := h.elim (·.1) (·.1)
  have hk : e.kind = .trip ∨ e.kind = .val := h.imp (·.2) (·.2)
  simp only [List.mem_cons, List.not_mem_nil, or_false] at hr
  rcases hr with rfl | rfl | rfl | rfl <;>
    simp only [exec_sliceTakesRun, execSliceTakesRun, exec_sliceTakesMask, execSliceTakesMask, exec_sliceTakesRegang, execSliceTakesRegang,
      exec_sliceTakesEnd, execSliceTakesEnd, takeIdle_misuse hid hk]

/-! ### Results (R40, R115, R124) -/

/-- The registers of a strand after a result is written: those of the control stream, or of the gangs. -/
theorem foldl_setReg_ctl (l : List (Nat × Nat × Word)) (t : Strand) : l.foldl (fun t w => t.setReg true w.1 w.2.1 w.2.2) t =
    { t with cregs := tblSets 0 t.cregs (l.map fun w => (w.1 * 4 + w.2.1, w.2.2)) } := by
  induction l generalizing t with
  | nil => rfl
  | cons w l ih => exact ih _

theorem foldl_setReg_vec (l : List (Nat × Nat × Word)) (t : Strand) : l.foldl (fun t w => t.setReg false w.1 w.2.1 w.2.2) t =
    { t with vregs := tblSets 0 t.vregs (l.map fun w => (w.1 * 32 + w.2.1, w.2.2)) } := by
  induction l generalizing t with
  | nil => rfl
  | cons w l ih => exact ih _

section
variable {t : Strand} {p : Pend}

theorem writePend_ctl (h : p.set = none) : ∃ x gs, t.writePend p = { t with
    cregs := tblSets 0 t.cregs (p.writes.map fun w => (w.1 * 4 + w.2.1, w.2.2)), pends := t.pends.filter (fun q => q.id != p.id)
    ctl := x, sets := gs } := by
  simp only [Strand.writePend, h, Option.isNone_none, foldl_setReg_ctl]
  exact ⟨_, _, rfl⟩

theorem writePend_vec {k : Nat} (h : p.set = some k) : ∃ x gs, t.writePend p = { t with
    vregs := tblSets 0 t.vregs (p.writes.map fun w => (w.1 * 32 + w.2.1, w.2.2)), pends := t.pends.filter (fun q => q.id != p.id)
    ctl := x, sets := gs } := by
  simp only [Strand.writePend, h, Option.isNone_some, foldl_setReg_vec, Option.bind_some]
  cases Option.map (·.key) (List.find? (fun g => g.slices.contains k) t.sets) <;> exact ⟨_, _, rfl⟩

/-- Whatever stream a result is of, it leaves the strand's other records. -/
theorem writePend_rest : ∃ r v x gs, t.writePend p = { t with
    cregs := r, vregs := v, pends := t.pends.filter (fun q => q.id != p.id), ctl := x, sets := gs } := by
  cases h : p.set with
  | none =>
    obtain ⟨x, gs, hw⟩ := writePend_ctl (t := t) h
    exact ⟨_, _, x, gs, hw⟩
  | some k =>
    obtain ⟨x, gs, hw⟩ := writePend_vec (t := t) h
    exact ⟨_, _, x, gs, hw⟩

end

theorem resultDue_of {s : State} {t : Strand} {p : Pend} (hd : p.due ≤ s.lcNow t.id.owner t.id.lcore) (hu : s.untimed t.id.owner = false ∨
    (p.steps = 0 ∧ ∃ n, s.turn = some n ∧ n.tail = true ∧ n.owner = t.id.owner ∧ n.lc = t.id.lcore)) : s.resultDue t p = true := by
  rcases hu with hu | ⟨hs, n, hn, ht, ho, hl⟩
  · simp [State.resultDue, hd, hu]
  · simp [State.resultDue, hd, hs, hn, ht, ho, hl]

/-- Settles O33. -/
theorem resultsAreWrittenWhenDue : Obligations.ResultsAreWrittenWhenDue := by
  unfold Obligations.ResultsAreWrittenWhenDue
  intro id t p
  refine ⟨fun s ⟨hp, hd, hu⟩ => ?_, fun h => ?_, fun k h => ?_, ?_⟩
  · simp only [exec_resultWriteback, execResultWriteback, hp, resultDue_of hd hu, if_true]
  · obtain ⟨x, gs, hw⟩ := writePend_ctl (t := t) h
    simp only [hw, and_self]
  · obtain ⟨x, gs, hw⟩ := writePend_vec (t := t) h
    simp only [hw, and_self]
  · obtain ⟨r, v, x, gs, hw⟩ := writePend_rest (t := t) (p := p)
    simp only [hw, and_self]

end Sys2Proof.Machine
end

section
/-!
THEOREM. The life of a strand: its end, the register counts it waits for, its way out of its slot and back, and the start of its group
(R36, R50 to R54, R280, R281, R389).
-/

namespace Sys2Proof.Machine

section
variable {s s' : State} {i : StrandId} {t : Strand}

/-! ### The end of a strand -/

/-- A strand leaves its slot, and the pipe and ports forget it. -/
def State.withoutStrand (s : State) (i : StrandId) : State :=
  ({ s with strands := s.strands.filter fun u => u.id != i } : State).modLcore i.owner i.lcore (·.forget i)

theorem exec_strandEnd_ended (ht : s.strand? i = some t) (he : s.ended t = true) : exec (.strandEnd i) s =
    .next (match (s.withoutStrand i).group? t.grp with
      | some g => if (s.withoutStrand i).strands.any fun u => u.grp == g.id
        then ((s.withoutStrand i).gsyncCheck g.id).roomFreed i.owner (((s.withoutStrand i).ownerNow i.owner).getD 0)
        else (s.withoutStrand i).endGroup g
      | none => s.withoutStrand i) := by
  simp only [exec_strandEnd, execStrandEnd, ht, he, not_true, if_false]
  rfl

/-! ### RALLOC and RFREE that waited (R51, R52) -/

theorem exec_rallocGrant_served {x : XOps} {id since : Nat} {m : DWord} {r : Word} (ht : s.strand? i = some t)
    (hw : waitOf s ⟨i, none⟩ = some ⟨.ralloc x, id, [m], since⟩) (hh : t.res = .here) (hr : s.rallocNow t m.toNat id = some (s', r)) :
    exec (.rallocGrant i) s = .next (s'.complete ⟨i, none⟩ (some 4) fun c => c.fill x.d [r]) := by
  simp only [exec_rallocGrant, execRallocGrant, ht, hw, hh, ne_eq, not_true, if_false, hr]

theorem exec_rfreeQuietAct_quiet {w : Wait} {m : DWord} (ht : s.strand? i = some t) (hw : waitOf s ⟨i, none⟩ = some w) (hv : w.vals = [m])
    (hi : ∃ a, w.instr = .rfree a ∨ w.instr = .rfreeLit a) (hq : s.quietAt t (some w.id) = true) : exec (.rfreeQuietAct i) s =
    .next (((s.modStrand i (·.shrink m.toNat)).roomFreed i.owner ((s.ownerNow i.owner).getD 0)).complete ⟨i, none⟩ none fun _ => []) := by
  obtain ⟨a, hi | hi⟩ := hi
  all_goals
    simp only [exec_rfreeQuietAct, execRfreeQuietAct, ht, hw, hi, hv, hq, if_true]
    rfl

/-! ### Out of a slot and back (R53, R54) -/

theorem exec_strandSwapOutEnd_due {till : Nat} (ht : s.strand? i = some t) (hr : t.res = .leaving till)
    (hd : till ≤ s.lcNow i.owner i.lcore) : exec (.strandSwapOutEnd i) s =
    .next ((((s.modStrand i fun u => { u with res := .out }).renameStrand i { i with slot := s.outNumber i.owner i.lcore }).spillStrand
      { i with slot := s.outNumber i.owner i.lcore }).roomFreed i.owner ((s.ownerNow i.owner).getD 0)) := by
  simp only [exec_strandSwapOutEnd, execStrandSwapOutEnd, ht, hr, Nat.not_lt.2 hd, if_false]

theorem exec_strandSwapIn_first (ht : s.strand? i = some t) (ho : t.res = .out) (hj : t.joinOut = false) (hm : s.roomFor t = true)
    (hf : ∀ u ∈ s.strandsOf i.owner i.lcore, u.res = .out → u.joinOut = false → t.leftAt ≤ u.leftAt) :
    exec (.strandSwapIn i) s = .next (s.beginReturn t) := by
  have hall : ((s.strandsOf i.owner i.lcore).all fun u => !(u.res == .out && !u.joinOut) || decide (t.leftAt ≤ u.leftAt)) = true := by
    refine List.all_eq_true.2 fun u hu => ?_
    by_cases hr : u.res = .out
    · cases hjoin : u.joinOut with
      | false => simp [hf u hu hr hjoin]
      | true => simp
    · simp [hr]
  simp only [exec_strandSwapIn, execStrandSwapIn, ht, ho, hj, hm, hall, Bool.false_eq_true, not_false_eq_true, and_self, if_true]

/-- A strand that is back: the youngest of its logical core, the count of its wait moved on by the time it was out (R47, R54). -/
def State.backHere (s : State) (i : StrandId) (l : LCore) : State :=
  (s.modStrand i fun u => { u with
    res := .here, age := l.nextAge, joinOut := false
    ctl := { u.ctl with wait := u.ctl.wait.map fun x => { x with since := x.since + (s.lcNow i.owner i.lcore - u.leftNow) } } })
      |>.modLcore i.owner i.lcore fun l => { l with nextAge := l.nextAge + 1 }

theorem waitOf_backHere {l : LCore} (ht : s.strand? i = some t) : waitOf (s.backHere i l) ⟨i, none⟩ =
    t.ctl.wait.map fun x => { x with since := x.since + (s.lcNow i.owner i.lcore - t.leftNow) } := by
  have h : (s.backHere i l).strand? i = some _ := strand?_modStrand_same (s := s) (i := i) (fun _ => rfl) ht
  rw [waitOf_eq, h]
  rfl

theorem exec_strandSwapInEnd_due {till : Nat} {l : LCore} (ht : s.strand? i = some t) (hl : s.lcore? i.owner i.lcore = some l)
    (hr : t.res = .back till) (hd : till ≤ s.lcNow i.owner i.lcore) : exec (.strandSwapInEnd i) s =
    .next (match waitOf (s.backHere i l) ⟨i, none⟩ with
      | some ⟨.join x, _, [_, v], _⟩ => (s.backHere i l).complete ⟨i, none⟩ (some 4) fun c => c.fill x.d [v.lo]
      | _ => s.backHere i l) := by
  simp only [exec_strandSwapInEnd, execStrandSwapInEnd, ht, hl, hr, Nat.not_lt.2 hd, if_false]
  rfl

end

/-! ### Which strand leaves (R53) -/

section
variable {s : State} {o lc : Nat}

/-- The resident strands of a logical core. -/
def State.residents (s : State) (o lc : Nat) : List Strand := (s.strandsOf o lc).filter fun t => t.res == .here

theorem mem_residents {u : Strand} : u ∈ s.residents o lc ↔ u ∈ s.strandsOf o lc ∧ u.res = .here := by
  simp [State.residents]

theorem ralloc?_of_wantsMore {u : Strand} (h : s.wantsMore u = true) : ∃ m id since, u.ralloc? = some (m, id, since) := by
  unfold State.wantsMore at h
  split at h
  · next m id since hr => exact ⟨m, id, since, hr⟩
  · contradiction

/-- Of two or more strands one is left beside any one. -/
theorem others_ne_nil {l : List Strand} (w : Strand) (hp : l.Pairwise fun a b => a.id ≠ b.id) (hl : 2 ≤ l.length) :
    (l.filter fun t => t.id != w.id) ≠ [] := by
  match l, hl with
  | a :: b :: l, _ =>
    have hab : a.id ≠ b.id := List.rel_of_pairwise_cons hp List.mem_cons_self
    by_cases ha : a.id = w.id
    · exact List.ne_nil_of_mem (a := b) (List.mem_filter.2 ⟨by simp, by simpa using fun h => hab (ha.trans h.symm)⟩)
    · exact List.ne_nil_of_mem (a := a) (List.mem_filter.2 ⟨by simp, by simpa using ha⟩)

/-- Among strands there is a youngest. -/
theorem find?_youngest {l : List Strand} (h : l ≠ []) : ∃ t ∈ l, (l.find? fun t => l.all fun u => decide (u.age ≤ t.age)) = some t := by
  obtain ⟨m, hm⟩ := Option.ne_none_iff_exists'.1 (mt List.argmax_eq_none.1 h : l.argmax Strand.age ≠ none)
  have hp : (l.all fun u => decide (u.age ≤ m.age)) = true :=
    List.all_eq_true.2 fun u hu => decide_eq_true (List.le_of_mem_argmax hu hm)
  obtain ⟨t, ht⟩ := Option.isSome_iff_exists.1 ((List.find?_isSome (p := fun t => l.all fun u => decide (u.age ≤ t.age))).2 ⟨m, List.argmax_mem hm, hp⟩)
  exact ⟨t, List.mem_of_find?_eq_some ht, ht⟩

/-- When every resident strand waits in a RALLOC that cannot be served, and the oldest of them is there, one other than it leaves. -/
theorem exec_strandSwapOut_stuck
    (hold : ∃ u ∈ s.strandsOf o lc, u.res = .here ∧ ∀ m id since, u.ralloc? = some (m, id, since) → s.olderWaiter u id = false)
    (hall : ∀ u ∈ s.strandsOf o lc, (u.res = .here → s.wantsMore u = true ∧
      ∀ m id since, u.ralloc? = some (m, id, since) → s.rallocNow u m id = none) ∧ ∀ n, u.res ≠ .leaving n ∧ u.res ≠ .back n)
    (hn : s.swapped o lc < 32) (h2 : 2 ≤ (s.residents o lc).length) (hp : (s.strandsOf o lc).Pairwise fun a b => a.id ≠ b.id) :
    ∃ a ∈ s.strandsOf o lc, exec (.strandSwapOut o lc) s = .next (s.beginLeave a false) := by
  have hres {u : Strand} (hu : u ∈ s.residents o lc) := (hall u (mem_residents.1 hu).1).1 (mem_residents.1 hu).2
  have hwait : (s.residents o lc).filter s.wantsMore = s.residents o lc := List.filter_eq_self.2 fun u hu => (hres hu).1
  rw [exec_strandSwapOut, execStrandSwapOut, ← State.residents]
  dsimp only
  rw [hwait]
  split
  · next hnone =>
    obtain ⟨u, hu, hh, ho⟩ := hold
    have hu := mem_residents.2 ⟨hu, hh⟩
    obtain ⟨m, id, since, hr⟩ := ralloc?_of_wantsMore (hres hu).1
    exact absurd (List.find?_eq_none.1 hnone u hu) (by simp [hr, ho m id since hr])
  · next w hw =>
    obtain ⟨hwant, hserve⟩ := hres (List.mem_of_find?_eq_some hw)
    obtain ⟨m, id, since, hr⟩ := ralloc?_of_wantsMore hwant
    obtain ⟨t, ht, hy⟩ := find?_youngest (others_ne_nil (l := s.residents o lc) w (hp.filter _) h2)
    refine ⟨t, (mem_residents.1 (List.mem_filter.1 ht).1).1, ?_⟩
    rw [if_neg, hy]
    rintro (h | h | h | h)
    · simp [hr, hserve m id since hr] at h
    · obtain ⟨u, hu, hm⟩ := List.any_eq_true.1 h
      have hstill := (hall u hu).2
      split at hm
      · next n hl => exact (hstill n).1 hl
      · next n hb => exact (hstill n).2 hb
      · contradiction
    · exact h rfl
    · omega

end

/-! ### The start of a group (R280) -/

/-- A group's strands start 64 indices after its placement; memory and the groups are as before. -/
theorem exec_groupStrandsStart_due {s : State} {g : Nat} {q : Group} (hg : s.group? g = some q)
    (hl : ∃ w l, s.owner? q.owner = some w ∧ (w.launches.find? fun l => l.id == q.launch) = some l)
    (hc : (s.lcore? q.owner q.lcore).isSome = true) (hd : q.start ≤ s.lcNow q.owner q.lcore) (hu : ∃ u ∈ s.strands, u.grp = g ∧ u.res = .coming) :
    ∃ f : Strand → Strand, (∀ u, (f u).res = .here) ∧ ∃ t, exec (.groupStrandsStart g) s = .next t ∧
      t.strands = modWhere s.strands (fun u => u.grp == g && u.res == .coming) f ∧ t.mem = s.mem ∧ t.groups = s.groups := by
  obtain ⟨w, l, hw, hl⟩ := hl
  obtain ⟨c, hc⟩ := Option.isSome_iff_exists.1 hc
  obtain ⟨u, hm, hgrp, hcom⟩ := hu
  have hne : (s.strands.filter fun t => t.grp == g && t.res == .coming).isEmpty = false :=
    List.isEmpty_eq_false_iff.2 (List.ne_nil_of_mem (List.mem_filter.2 ⟨hm, by simp [hgrp, hcom]⟩))
  simp only [exec_groupStrandsStart, execGroupStrandsStart, hg, hw, Option.bind_some, hl, hc, hne, Nat.not_lt.2 hd,
    Bool.false_eq_true, or_self, if_false]
  exact ⟨_, fun _ => rfl, _, rfl, rfl, rfl, rfl⟩

/-- Settles O34. -/
theorem strandLifeSteps : Obligations.StrandLifeSteps := by
  unfold Obligations.StrandLifeSteps
  intro i t x id since till g o lc m v r s' w q l
  refine ⟨fun s ⟨ht, he⟩ => exec_strandEnd_ended ht he, fun s ⟨ht, hw, hh, hr⟩ => exec_rallocGrant_served ht hw hh hr,
    fun s ⟨ht, hw, hv, hi, hq⟩ => exec_rfreeQuietAct_quiet ht hw hv hi hq, fun s ⟨ht, hr, hd⟩ => exec_strandSwapOutEnd_due ht hr hd,
    fun s ⟨ht, ho, hj, hm, hf⟩ => exec_strandSwapIn_first ht ho hj hm hf, ⟨fun s ⟨⟨ht, hl, hr, hd⟩, hn⟩ => ?_,
    fun s ⟨⟨ht, hl, hr, hd⟩, hw⟩ => ?_⟩, fun s ⟨hold, hall, hn, h2, hp⟩ => ?_, fun s ⟨hg, hl, hc, hd, hu⟩ => ?_⟩
  · rw [exec_strandSwapInEnd_due ht hl hr hd, waitOf_backHere ht]
    split
    · next hw =>
      obtain ⟨⟨_, _, _, _⟩, hx, he⟩ := Option.map_eq_some_iff.1 hw
      cases he
      exact absurd hx (hn _ _ _ _ _)
    · rfl
  · rw [exec_strandSwapInEnd_due ht hl hr hd, waitOf_backHere ht, hw]
    rfl
  · obtain ⟨a, ha, he⟩ := exec_strandSwapOut_stuck hold hall hn h2 hp
    exact ⟨_, he, a, ha, rfl⟩
  · obtain ⟨f, hf, t, he, hs, hm, hgr⟩ := exec_groupStrandsStart_due hg hl hc hd hu
    refine ⟨t, he, fun y hy hyg => ?_, hm, hgr⟩
    rw [hs, modWhere, List.mem_map] at hy
    obtain ⟨z, -, rfl⟩ := hy
    by_cases hz : (z.grp == g && z.res == .coming) = true
    · simp [hz, hf]
    · rw [if_neg hz] at hyg ⊢
      exact fun h => hz (by simp [hyg, h])

end Sys2Proof.Machine
end

section
/-!
THEOREM. Each step of the core's clock, of its streams and strands, of a swap and of the rota completes where it is due (R20 to R36, R50 to R54,
R100 to R107, R129 to R133, R215, R276, R298 to R301, R307).
-/

namespace Sys2Proof.Machine

/-- A row that issues a ready instruction again completes. -/
theorem Resumes.completes {row i : Instr} {cur : Cur} {Ready : Ctx → Prop} (h : Resumes row cur i Ready) {s : State} {w : Wait} {c : Ctx}
    (hw : waitOf s cur = some w) (hi : w.instr = i) (ho : s.offered cur = true) (his : issuing (s.reissued cur) i 1 = some c) (hr : Ready c) :
    ∃ t, exec row s = .next t :=
  (h s w c hw hi ho his hr).imp fun _ h => h.1

section
variable {s : State}

/-! ### The core's clock (R100 to R107, R215) -/

theorem turnOpen_of {s : State} (h : s.turn = none ∨ ∃ n, s.turn = some n ∧ (5 ≤ n.slot ∨ s.lcore? n.owner n.lc = none)) :
    s.turnOpen = false := by
  rcases h with h | ⟨n, h, hs | hl⟩
  · simp [State.turnOpen, h]
  · simp [State.turnOpen, h, Nat.not_lt.2 hs]
  · simp [State.turnOpen, h, hl]

theorem exec_windowCommitPoint_due {o lc : Nat} {n : Turn} (hn : s.turn = some n) (ho : n.owner = o) (hl : n.lc = lc) (hs : n.slot = 4)
    (hc : (s.lcore? o lc).isSome = true) : ∃ t, exec (.windowCommitPoint o lc) s = .next t := by
  obtain ⟨l, hc⟩ := Option.isSome_iff_exists.1 hc
  simp only [exec_windowCommitPoint, execWindowCommitPoint, hn, hc, ho, hl, hs, ne_eq, not_true, or_self, if_false]
  exact ⟨_, rfl⟩

theorem exec_ownerFreezeEnd_over {o : Nat} {w : Owner} (hw : s.owner? o = some w) (hf : ∃ f ∈ w.freezes, s.freezeOver w f = true) :
    ∃ t, exec (.ownerFreezeEnd o) s = .next t := by
  obtain ⟨f, hm, hf⟩ := hf
  have hne : (w.freezes.filter (s.freezeOver w)).isEmpty = false :=
    List.isEmpty_eq_false_iff.2 (List.ne_nil_of_mem (List.mem_filter.2 ⟨hm, hf⟩))
  simp only [exec_ownerFreezeEnd, execOwnerFreezeEnd, hw, hne, Bool.false_eq_true, if_false]
  exact ⟨_, rfl⟩

theorem exec_rotacTakesEffect_due {p due : Nat} {v : DWord} (hp : (s.core p).pend = some (v, due)) (hd : due ≤ s.dcyc) :
    ∃ t, exec (.rotacTakesEffect p) s = .next t := by
  simp only [exec_rotacTakesEffect, execRotacTakesEffect, hp, Nat.not_lt.2 hd, if_false]
  exact ⟨_, rfl⟩

theorem exec_rotafTableInForce_due {v : List Nat} {flen due : Nat} (hp : s.dev.fabric.pend = some (v, flen, due)) (hd : due ≤ s.dcyc) :
    ∃ t, exec .rotafTableInForce s = .next t := by
  simp only [exec_rotafTableInForce, execRotafTableInForce, hp, Nat.not_lt.2 hd, if_false]
  exact ⟨_, rfl⟩

theorem exec_returnQueueEntryArrive_due {i : StrandId} {u : Strand} (hu : s.strand? i = some u)
    (he : (u.rq.findIdx? fun e => !e.here && decide (e.enters ≤ s.lcNow i.owner i.lcore)).isSome = true) :
    ∃ t, exec (.returnQueueEntryArrive i) s = .next t := by
  obtain ⟨n, he⟩ := Option.isSome_iff_exists.1 he
  simp only [exec_returnQueueEntryArrive, execReturnQueueEntryArrive, hu, he]
  exact ⟨_, rfl⟩

/-! ### A swap (R129 to R133) -/

section
variable {p n : Nat} {w : Swap} (hw : (s.core p).swap = some w)
include hw

theorem exec_swapBegin_due (ht : s.swapTurn p w = true) (hn : w.turns = none) (hs : w.start ≤ s.dcyc) : ∃ t, exec (.swapBegin p) s = .next t := by
  simp only [exec_swapBegin, execSwapBegin, hw, hn, Option.isSome_none, Nat.not_lt.2 hs, ht, Bool.false_eq_true, not_true, or_self, if_false]
  exact ⟨_, rfl⟩

theorem exec_swapQuietEnd_due (hr : s.swapReached p w 4096 = true) (hn : w.turns = some n) (hq : w.quiet = false) :
    ∃ t, exec (.swapQuietEnd p) s = .next t := by
  simp only [exec_swapQuietEnd, execSwapQuietEnd, hw, hn, Option.isNone_some, hq, hr, true_or, Bool.false_eq_true, not_true, or_self, if_false]
  exact ⟨_, rfl⟩

theorem exec_swapSavePhase_due (hr : s.swapReached p w 6144 = true) (hq : w.quiet = true) (hv : w.saved = false) :
    ∃ t, exec (.swapSavePhase p) s = .next t := by
  simp only [exec_swapSavePhase, execSwapSavePhase, hw, hr, hq, hv, Bool.false_eq_true, not_true, or_self, if_false]
  exact ⟨_, rfl⟩

theorem exec_swapRestorePhase_due (hr : s.swapReached p w 49835 = true) (hv : w.saved = true) (hd : w.read = false) :
    ∃ t, exec (.swapRestorePhase p) s = .next t := by
  simp only [exec_swapRestorePhase, execSwapRestorePhase, hw, hr, hv, hd, Bool.false_eq_true, not_true, or_self, if_false]
  cases s.swapLoad p w <;> exact ⟨_, rfl⟩

theorem exec_swapRebind_due (hr : s.swapReached p w 93526 = true) (hd : w.read = true) (hb : w.bound = false) :
    ∃ t, exec (.swapRebind p) s = .next t := by
  simp only [exec_swapRebind, execSwapRebind, hw, hr, hd, hb, Bool.false_eq_true, not_true, or_self, if_false]
  exact ⟨_, rfl⟩

theorem exec_swapComplete_due (hr : s.swapReached p w 98304 = true) (hb : w.bound = true) : ∃ t, exec (.swapComplete p) s = .next t := by
  simp only [exec_swapComplete, execSwapComplete, hw, hr, hb, not_true, or_self, if_false]
  exact ⟨_, rfl⟩

end

theorem swapReached_of {p n k : Nat} {w : Swap} (ht : s.swapTurn p w = true) (hd : s.notDealt p = true) (hn : w.turns = some n) (hk : k ≤ n) :
    s.swapReached p w k = true := by
  simp [State.swapReached, ht, hd, hn, hk]

theorem exec_drainSlotArrival_due {id : Nat} (hl : s.dev.link = true)
    (ha : ∃ a ∈ s.accs, a.id = id ∧ a.slot = true ∧ s.isLate a.strand.owner = false) : ∃ t, exec (.drainSlotArrival id) s = .next t := by
  obtain ⟨a, hm, hid, hs, hlate⟩ := ha
  have hany : (s.accs.any fun a => a.id == id && a.slot && !s.isLate a.strand.owner) = true :=
    List.any_eq_true.2 ⟨a, hm, by simp [hid, hs, hlate]⟩
  simp only [exec_drainSlotArrival, execDrainSlotArrival, hl, hany, Bool.true_or, Bool.and_self, if_true]
  exact ⟨_, rfl⟩

/-! ### Traps of a control stream (R299, R307) -/

theorem exec_trapInPlaceEntry_due {i : StrandId} {u : Strand} {tr : Trap} {since port : Nat} (hu : s.strand? i = some u)
    (ht : u.ctl.trap = some ⟨tr, .entry, since, port⟩) (hr : ∀ r ∈ u.ctl.res, r.written = true) :
    exec (.trapInPlaceEntry i) s = .next (s.trapEntry i tr) := by
  simp only [exec_trapInPlaceEntry, execTrapInPlaceEntry, hu, ht, List.all_eq_true.2 hr, if_true]

/-- The control stream stands for too long at an instruction, not a JOIN, that has not issued. -/
theorem exec_watchdogTrap_due {i : StrandId} {u : Strand} (hu : s.strand? i = some u) (hh : u.res = .here) (hk : u.killed = false)
    (hc : u.cst = .run) (ht : u.ctl.trap = none) (hw : u.ctl.wait = none) (hl : s.longWlget u (s.lcNow i.owner i.lcore) = none)
    (hd : u.ctl.stood + 2 ^ 24 ≤ s.lcNow i.owner i.lcore) (hf : s.fenceOnParked u = false)
    (hj : ∀ x, s.nextInstr i u.ctl.pc ≠ some (.join x)) :
    exec (.watchdogTrap i) s = .next (s.takeTrap ⟨i, none⟩ ⟨0x15, 0, 0, ctlMask⟩ false) := by
  have hjoin : (s.nextInstr u.id u.ctl.pc).any isJoin = false := by
    rw [strand?_id hu]
    refine (Option.any_eq_false _ _).2 fun j hn => ?_
    unfold isJoin
    split
    · next x => exact absurd hn (hj x)
    · rfl
  have hlong : s.longWait u (s.lcNow i.owner i.lcore) = true := by
    simp only [State.longWait, hw, hf, hjoin, Bool.not_false, Bool.and_true, decide_eq_true_eq]
    exact hd
  simp only [exec_watchdogTrap, execWatchdogTrap, hu, hh, hk, hc, ht, hw, hl, hlong, Option.isSome_none, ne_eq, not_true, Bool.false_eq_true,
    or_self, if_false, Option.map_none, Option.getD_none]

end

/-- Settles O59: one named lemma to a row. -/
theorem coreStepsComplete : Obligations.CoreStepsComplete := by
  unfold Obligations.CoreStepsComplete
  refine ⟨fun s now hn ht => ?coreCycle, fun s o lc n hn ho hl hs hc => exec_windowCommitPoint_due hn ho hl hs hc,
    fun s o w hw hf => exec_ownerFreezeEnd_over hw hf, fun s id u p hp hd hu => ?resultWriteback,
    fun s i w c hw hi ho his hr => resumes_exit.completes hw hi ho his hr,
    fun s i k u g e now h => ⟨fun hk => ?run, fun hk => ?mask, fun hk => ?regang, fun hk => ?fin⟩,
    fun s i k w d c hw hi ho his hr => resumes_vpop.completes hw hi ho his hr,
    fun s i k w x c hw hi ho his hr => resumes_vloop.completes hw hi ho his hr,
    fun s i u hu he => exec_returnQueueEntryArrive_due hu he,
    fun s i k w m a c hw hi ho his hr => (resumes_vsend (.inl rfl)).completes hw hi ho his hr,
    fun s i w d c hw hi ho his hr => resumes_frecv.completes hw hi ho his hr,
    fun s i u d hu hw hq hs => ⟨_, exec_returnQueueStarvation_starved hu hw hq fun g hg => .inl (hs g hg)⟩,
    fun s i u w hu hw hi hf hs => ⟨_, exec_flumeDeadlock_stuck hu hw hi hf fun g hg => stuck_of (.inl (hs g hg))⟩,
    fun s i u hu he => ⟨_, exec_strandEnd_ended hu he⟩, fun s i u x id since m hu hw hh hr => ?rallocGrant,
    fun s i u w m a hu hw hv hi hq => ⟨_, exec_rfreeQuietAct_quiet hu hw hv ⟨a, hi⟩ hq⟩,
    fun s o lc hp hn h2 hold hall => (exec_strandSwapOut_stuck hold hall hn h2 hp).imp' _ fun _ h => h.2,
    fun s i u till hu hd => ⟨fun hr => ⟨_, exec_strandSwapOutEnd_due hu hr hd⟩, fun hc hr _ => ?swapInEnd⟩,
    fun s i u hu ho hj hm hf => ⟨_, exec_strandSwapIn_first hu ho hj hm hf⟩, fun s p due v hp hd => exec_rotacTakesEffect_due hp hd,
    fun s v flen due hp hd => exec_rotafTableInForce_due hp hd, fun s p w hw ht hn hs => exec_swapBegin_due hw ht hn hs,
    fun s p n w hw ht hd hn => ?swap, fun s id hl ha => exec_drainSlotArrival_due hl ha,
    fun s g q hg hl hc hd hu => ?group, fun s i u tr since port hu ht hr => ⟨_, exec_trapInPlaceEntry_due hu ht hr⟩,
    fun s i u hu hh hk hc ht hw hl hd hf hj => ⟨_, exec_watchdogTrap_due hu hh hk hc ht hw hl hd hf hj⟩⟩
  case coreCycle => exact ⟨_, if_pos ⟨turnOpen_of ht, hn⟩⟩
  case resultWriteback =>
    refine ⟨s.modStrand u.id (·.writePend p), ?_⟩
    simp only [exec_resultWriteback, execResultWriteback, hp, resultDue_of hd (.inl hu), if_true]
  case run => rw [exec_sliceTakesRun, execSliceTakesRun]; exact ⟨_, takeIdle_taken h hk (by decide) (by decide)⟩
  case mask => rw [exec_sliceTakesMask, execSliceTakesMask]; exact ⟨_, takeIdle_taken h hk (by decide) (by decide)⟩
  case regang => rw [exec_sliceTakesRegang, execSliceTakesRegang]; exact ⟨_, takeIdle_taken h hk (by decide) (by decide)⟩
  case fin => rw [exec_sliceTakesEnd, execSliceTakesEnd]; exact ⟨_, takeIdle_taken h hk (by decide) (by decide)⟩
  case rallocGrant =>
    obtain ⟨⟨s', r⟩, hr⟩ := Option.isSome_iff_exists.1 hr
    exact ⟨_, exec_rallocGrant_served hu hw hh hr⟩
  case swapInEnd =>
    obtain ⟨l, hl⟩ := Option.isSome_iff_exists.1 hc
    exact ⟨_, exec_strandSwapInEnd_due hu hl hr hd⟩
  case swap =>
    have reached {k : Nat} (hk : k ≤ n) : s.swapReached p w k = true := swapReached_of ht hd hn hk
    exact ⟨fun hk hq => exec_swapQuietEnd_due hw (reached hk) hn hq, fun hk hq hv => exec_swapSavePhase_due hw (reached hk) hq hv,
      fun hk hv hr => exec_swapRestorePhase_due hw (reached hk) hv hr, fun hk hr hb => exec_swapRebind_due hw (reached hk) hr hb,
      fun hk hb => exec_swapComplete_due hw (reached hk) hb⟩
  case group =>
    obtain ⟨f, -, t, ht, -⟩ := exec_groupStrandsStart_due hg hl hc hd hu
    exact ⟨t, ht⟩

end Sys2Proof.Machine
end

section
/-!
SUPPORT. Rules for the words of an instruction: what a field of a packed word reads, and that the code of each enumerated field and of each
operand reads back as the value it stands for (R59, R60, R62, R66, R67, R71 to R82).
-/

namespace Sys2Proof

/-! ### Fields of a packed word -/

theorem field_ofNat {n hi lo : Nat} (h : hi < 32) (hl : lo ≤ hi) : field (BitVec.ofNat 32 n) hi lo = n / 2 ^ lo % 2 ^ (hi + 1 - lo) := by
  obtain ⟨k, hk⟩ : ∃ k, 32 = lo + ((hi + 1 - lo) + k) := ⟨31 - hi, by omega⟩
  rw [field, BitVec.toNat_ofNat, Nat.shiftRight_eq_div_pow]
  conv_lhs => rw [hk, Nat.pow_add, Nat.pow_add, Nat.mod_mul_right_div_self]
  exact Nat.mod_mul_right_mod _ _ _

/-- The first word of an instruction, by its fields (R59, R60). -/
def firstWord (len op d a b : Nat) : Word := BitVec.ofNat 32 (len + op * 2 ^ 2 + d * 2 ^ 9 + a * 2 ^ 16 + b * 2 ^ 23)

/-- The second word of an extended instruction, by its fields (R60). -/
def secondWord (c g gn la ty fn : Nat) : Word :=
  BitVec.ofNat 32 (c + g * 2 ^ 7 + gn * 2 ^ 14 + la * 2 ^ 15 + ty * 2 ^ 19 + fn * 2 ^ 23)

theorem firstWord_fields {len op d a b : Nat} (hl : len < 4) (ho : op < 128) (hd : d < 128) (ha : a < 128) (hb : b < 128) :
    field (firstWord len op d a b) 1 0 = len ∧ field (firstWord len op d a b) 8 2 = op ∧ field (firstWord len op d a b) 15 9 = d ∧
      field (firstWord len op d a b) 22 16 = a ∧ field (firstWord len op d a b) 29 23 = b := by
  simp only [firstWord]
  refine ⟨?_, ?_, ?_, ?_, ?_⟩ <;> rw [field_ofNat (by omega) (by omega)] <;> omega

theorem secondWord_fields {c g gn la ty fn : Nat} (hc : c < 128) (hg : g < 128) (hn : gn < 2) (hl : la < 16) (ht : ty < 16) (hf : fn < 256) :
    field (secondWord c g gn la ty fn) 6 0 = c ∧ field (secondWord c g gn la ty fn) 13 7 = g ∧
      field (secondWord c g gn la ty fn) 14 14 = gn ∧ field (secondWord c g gn la ty fn) 18 15 = la ∧
      field (secondWord c g gn la ty fn) 22 19 = ty ∧ field (secondWord c g gn la ty fn) 30 23 = fn := by
  simp only [secondWord]
  refine ⟨?_, ?_, ?_, ?_, ?_, ?_⟩ <;> rw [field_ofNat (by omega) (by omega)] <;> omega

/-! ### Codes of the enumerated fields -/

theorem Ty.code_lt (t : Ty) : t.code < 16 := by cases t <;> decide
theorem RM.code_lt (r : RM) : r.code < 8 := by cases r <;> decide
theorem Cond.code_lt (c : Cond) : c.code < 8 := by cases c <;> decide
theorem Rel.code_lt (r : Rel) : r.code < 8 := by cases r <;> decide
theorem SendMode.code_lt (m : SendMode) : m.code < 128 := by cases m <;> decide
theorem RedMode.code_lt (m : RedMode) : m.code < 8 := by cases m <;> decide
theorem AtomFn.code_lt (f : AtomFn) : f.code < 11 := by cases f <;> decide
theorem Scope.code_lt (s : Scope) : s.code < 8 := by cases s <;> decide
theorem Order.code_lt (o : Order) : o.code < 8 := by cases o <;> decide
theorem Fef.code_lt (f : Fef) : f.code < 4 := by cases f <;> decide
theorem Size.code_lt (s : Size) : s.code < 8 := by cases s <;> decide
theorem ConKind.code_lt (k : ConKind) : k.code < 4 := by cases k <;> decide

@[simp] theorem Ty.ofCode_code (t : Ty) : Ty.ofCode t.code = t := by cases t <;> rfl
@[simp] theorem RM.ofCode_code (r : RM) : RM.ofCode r.code = some r := by cases r <;> rfl
@[simp] theorem Cond.ofCode_code (c : Cond) : Cond.ofCode c.code = some c := by cases c <;> rfl
@[simp] theorem Rel.ofCode_code (r : Rel) : Rel.ofCode r.code = some r := by cases r <;> rfl
@[simp] theorem SendMode.ofCode_code (m : SendMode) : SendMode.ofCode m.code = some m := by cases m <;> rfl
@[simp] theorem RedMode.ofCode_code (m : RedMode) : RedMode.ofCode m.code = some m := by cases m <;> rfl
@[simp] theorem AtomFn.ofCode_code (f : AtomFn) : AtomFn.ofCode f.code = some f := by cases f <;> rfl
@[simp] theorem Scope.ofCode_code (s : Scope) : Scope.ofCode s.code = some s := by cases s <;> rfl
@[simp] theorem Order.ofCode_code (o : Order) : Order.ofCode o.code = some o := by cases o <;> rfl
@[simp] theorem Fef.ofCode_code (f : Fef) : Fef.ofCode f.code = f := by cases f <;> rfl
@[simp] theorem Size.ofCode_code (s : Size) : Size.ofCode s.code = some s := by cases s <;> rfl
@[simp] theorem ConKind.ofCode_code (k : ConKind) : ConKind.ofCode k.code = some k := by cases k <;> rfl

@[simp] theorem decide_toNat_eq_one (b : Bool) : decide (b.toNat = 1) = b := by cases b <;> rfl

/-! ### MOD words (R71 to R82) -/

theorem RM.ofCode_word (r : RM) : RM.ofCode (field (BitVec.ofNat 32 r.code) 2 0) = some r := by cases r <;> rfl
theorem Grade.ofCode_word (g : Grade) : Grade.ofCode (field (BitVec.ofNat 32 g.code) 0 0) = g := by cases g <;> rfl
theorem ShflMode.ofCode_word (m : ShflMode) : ShflMode.ofCode (field (BitVec.ofNat 32 m.code) 2 0) = some m := by cases m <;> rfl
theorem VoteMode.ofCode_word (m : VoteMode) : VoteMode.ofCode (field (BitVec.ofNat 32 m.code) 2 0) = some m := by cases m <;> rfl
theorem RedMode.ofCode_word (m : RedMode) : RedMode.ofCode (field (BitVec.ofNat 32 m.code) 2 0) = some m := by cases m <;> rfl
theorem TLevel.ofCode_word (l : TLevel) : TLevel.ofCode (field (BitVec.ofNat 32 l.code) 1 0) = some l := by cases l <;> rfl
theorem CLevel.ofCode_word (l : CLevel) : CLevel.ofCode (field (BitVec.ofNat 32 l.code) 1 0) = l := by cases l <;> rfl
theorem Size.ofCode_word (s : Size) : Size.ofCode (field (BitVec.ofNat 32 (s.code * 2 ^ 17)) 19 17) = some s := by cases s <;> rfl
theorem bool_word (b : Bool) : decide (field (BitVec.ofNat 32 b.toNat) 0 0 = 1) = b := by cases b <;> rfl

theorem cvtWord_fields (rm : RM) (sat : Bool) (ty : Ty) :
    field (BitVec.ofNat 32 (rm.code + sat.toNat * 2 ^ 3 + ty.code * 2 ^ 4)) 2 0 = rm.code ∧
      field (BitVec.ofNat 32 (rm.code + sat.toNat * 2 ^ 3 + ty.code * 2 ^ 4)) 3 3 = sat.toNat ∧
      field (BitVec.ofNat 32 (rm.code + sat.toNat * 2 ^ 3 + ty.code * 2 ^ 4)) 7 4 = ty.code := by
  have hr := rm.code_lt
  have hs := sat.toNat_lt
  have ht := ty.code_lt
  refine ⟨?_, ?_, ?_⟩ <;> rw [field_ofNat (by omega) (by omega)] <;> omega

theorem scanWord_fields (m : RedMode) (e : Bool) :
    field (BitVec.ofNat 32 (m.code + e.toNat * 2 ^ 3)) 2 0 = m.code ∧ field (BitVec.ofNat 32 (m.code + e.toNat * 2 ^ 3)) 3 3 = e.toNat := by
  have hm := m.code_lt
  have he := e.toNat_lt
  refine ⟨?_, ?_⟩ <;> rw [field_ofNat (by omega) (by omega)] <;> omega

theorem mstrWord_fields (start reg : Bool) :
    field (BitVec.ofNat 32 (start.toNat + reg.toNat * 2)) 0 0 = start.toNat ∧
      field (BitVec.ofNat 32 (start.toNat + reg.toNat * 2)) 1 1 = reg.toNat := by
  have hs := start.toNat_lt
  have hr := reg.toNat_lt
  refine ⟨?_, ?_⟩ <;> rw [field_ofNat (by omega) (by omega)] <;> omega

theorem mconWord_fields (start : Bool) (k : ConKind) (len : BitVec 8) :
    field (BitVec.ofNat 32 (start.toNat + k.code * 2 ^ 2 + len.toNat * 2 ^ 8)) 0 0 = start.toNat ∧
      field (BitVec.ofNat 32 (start.toNat + k.code * 2 ^ 2 + len.toNat * 2 ^ 8)) 4 2 = k.code ∧
      field (BitVec.ofNat 32 (start.toNat + k.code * 2 ^ 2 + len.toNat * 2 ^ 8)) 15 8 = len.toNat := by
  have hs := start.toNat_lt
  have hk := k.code_lt
  have hl := len.isLt
  refine ⟨?_, ?_, ?_⟩ <;> rw [field_ofNat (by omega) (by omega)] <;> omega

/-- The mask of a flume instruction, alone or with REL (R18, R82). -/
theorem maskWord_fields (m : BitVec 8) (r : Bool) :
    BitVec.ofNat 8 (field (BitVec.ofNat 32 (m.toNat + r.toNat * 2 ^ 8)) 7 0) = m ∧
      decide (field (BitVec.ofNat 32 (m.toNat + r.toNat * 2 ^ 8)) 8 8 = 1) = r := by
  have hm := m.isLt
  have hr := r.toNat_lt
  have f0 : field (BitVec.ofNat 32 (m.toNat + r.toNat * 2 ^ 8)) 7 0 = m.toNat := by rw [field_ofNat (by omega) (by omega)]; omega
  have f8 : field (BitVec.ofNat 32 (m.toNat + r.toNat * 2 ^ 8)) 8 8 = r.toNat := by rw [field_ofNat (by omega) (by omega)]; omega
  rw [f0, f8]
  simp

theorem ofNat_field_mask (m : BitVec 8) : BitVec.ofNat 8 (field (m.setWidth 32) 7 0) = m := by
  refine BitVec.eq_of_toNat_eq ?_
  have hm := m.isLt
  simp [field]
  omega

theorem ofNat_field_index (n : BitVec 12) : BitVec.ofNat 12 (field (n.setWidth 32) 11 0) = n := by
  refine BitVec.eq_of_toNat_eq ?_
  have hn := n.isLt
  simp [field]
  omega

/-- The narrow map reads back (R74), with the field Q of NPACK. -/
theorem narMod_word {m : NarMod} {q : Nat} (hp : m.p < 32) (hq : q < 32) :
    narMod (narModWord m q) = m ∧ field (narModWord m q) 12 8 = q := by
  have hs := m.s.toNat_lt
  have ht := m.sat.toNat_lt
  have h1 : field (narModWord m q) 4 0 = m.p := by rw [narModWord, field_ofNat (by omega) (by omega)]; omega
  have h2 : field (narModWord m q) 5 5 = m.s.toNat := by rw [narModWord, field_ofNat (by omega) (by omega)]; omega
  have h3 : field (narModWord m q) 6 6 = m.sat.toNat := by rw [narModWord, field_ofNat (by omega) (by omega)]; omega
  have h4 : field (narModWord m q) 12 8 = q := by rw [narModWord, field_ofNat (by omega) (by omega)]; omega
  exact ⟨by simp [narMod, h1, h2, h3], h4⟩

/-- The memory map reads back (R76). -/
theorem memMod_word (m : MemMod) : memMod (memModWord m) = some m := by
  have h0 := m.scope.code_lt
  have h1 := m.order.code_lt
  have h2 := m.fef.code_lt
  have h3 := m.budget.isLt
  have h4 := m.park.toNat_lt
  have h5 := m.size.code_lt
  have h6 := m.sx.toNat_lt
  have h7 := m.det.toNat_lt
  have f0 : field (memModWord m) 2 0 = m.scope.code := by rw [memModWord, field_ofNat (by omega) (by omega)]; omega
  have f1 : field (memModWord m) 5 3 = m.order.code := by rw [memModWord, field_ofNat (by omega) (by omega)]; omega
  have f2 : field (memModWord m) 7 6 = m.fef.code := by rw [memModWord, field_ofNat (by omega) (by omega)]; omega
  have f3 : field (memModWord m) 15 8 = m.budget.toNat := by rw [memModWord, field_ofNat (by omega) (by omega)]; omega
  have f4 : field (memModWord m) 16 16 = m.park.toNat := by rw [memModWord, field_ofNat (by omega) (by omega)]; omega
  have f5 : field (memModWord m) 19 17 = m.size.code := by rw [memModWord, field_ofNat (by omega) (by omega)]; omega
  have f6 : field (memModWord m) 20 20 = m.sx.toNat := by rw [memModWord, field_ofNat (by omega) (by omega)]; omega
  have f7 : field (memModWord m) 21 21 = m.det.toNat := by rw [memModWord, field_ofNat (by omega) (by omega)]; omega
  simp [memMod, f0, f1, f2, f3, f4, f5, f6, f7]

/-! ### Operand codes (R62, R66) -/

theorem Dst.code_lt (d : Dst) : d.code < 127 := by cases d <;> simp [Dst.code]; omega

theorem Src.code_lt (s : Src) : s.code < 127 := by cases s <;> simp [Src.code]; omega

theorem Guard.code_lt (g : Guard) : g.code.1 < 127 ∧ g.code.2 < 2 := by
  cases g with
  | always => decide
  | on s neg => exact ⟨s.code_lt, neg.toNat_lt⟩

@[simp] theorem Dst.ofCode_code (d : Dst) : Dst.ofCode d.code = d := by
  cases d with
  | reg n => simp [Dst.ofCode, Dst.code]
  | none => rfl

/-- A source reads back, given the value of a literal. -/
theorem Src.ofCode_code {s : Src} {v : DWord} (h : ∀ w, s = .lit w → v = w) : Src.ofCode v s.code = s := by
  cases s with
  | reg n => simp [Src.ofCode, Src.code]
  | lit w => exact congrArg Src.lit (h w rfl)
  | _ => rfl

theorem Src.code_eq_lit_iff {s : Src} : s.code = 0x78 ↔ ∃ v, s = .lit v := by
  cases s with
  | reg n => simp [Src.code]; omega
  | lit v => simp [Src.code]
  | _ => simp [Src.code]

theorem Src.code_eq_zero_iff {s : Src} : s.code = 0x7B ↔ s = .zero := by
  cases s with
  | reg n => simp [Src.code]; omega
  | _ => simp [Src.code]

theorem Dst.code_eq_none_iff {d : Dst} : d.code = 0x7B ↔ d = .none := by
  cases d with
  | reg n => simp [Dst.code]; omega
  | none => simp [Dst.code]

theorem Src.decide_code_eq_zero (s : Src) : decide (s.code = 0x7B) = (s == .zero) := by
  rw [Bool.eq_iff_iff, decide_eq_true_eq, Src.code_eq_zero_iff, beq_iff_eq]

theorem Dst.decide_code_eq_none (d : Dst) : decide (d.code = 0x7B) = (d == .none) := by
  rw [Bool.eq_iff_iff, decide_eq_true_eq, Dst.code_eq_none_iff, beq_iff_eq]

/-- The guard reads back (R66). -/
theorem Guard.ofCode_code {allowed : Bool} {g : Guard} (h : g.ok allowed = true) :
    (if g.code.1 = 0x7B then Guard.always else .on (Src.ofCode 0 g.code.1) (decide (g.code.2 = 1))) = g := by
  cases g with
  | always => rfl
  | on s neg =>
    have hz : s.code ≠ 0x7B := fun hc => by rw [Src.code_eq_zero_iff.1 hc] at h; contradiction
    have hl (w : DWord) (hs : s = .lit w) : 0 = w := by rw [hs] at h; contradiction
    change (if s.code = 0x7B then Guard.always else .on (Src.ofCode 0 s.code) (decide (neg.toNat = 1))) = _
    rw [if_neg hz, Src.ofCode_code hl, decide_toNat_eq_one]

/-- A well-formed guard raises no subcode (R66). -/
theorem guardError_of_ok {allowed : Bool} {g : Guard} (h : g.ok allowed = true) :
    guardError allowed g.code.1 (decide (g.code.2 = 1)) = none := by
  cases g with
  | always => simp [guardError, Guard.code]
  | on s neg =>
    have hz : s.code ≠ 0x7B := fun hc => by rw [Src.code_eq_zero_iff.1 hc] at h; contradiction
    have hl : s.code ≠ 0x78 := fun hc => by
      obtain ⟨w, rfl⟩ := Src.code_eq_lit_iff.1 hc
      contradiction
    have ha : allowed = true := by
      cases s with
      | lit | zero => contradiction
      | _ => exact h
    have hlt := s.code_lt
    simp [guardError, Guard.code, hz, hl, ha]
    omega

end Sys2Proof
end

section
/-!
SUPPORT. What the decoder checks, of the operands of a well-formed instruction: no check fails, and the literal reads back (R62 to R66, R84).
-/

namespace Sys2Proof

/-! ### Literals (R64) -/

/-- A literal among sources of which one at most is a literal is the one they carry. -/
theorem litOf_eq_of_mem {l : List (Pos × Src)} {p : Pos} {v : DWord} (h : (l.filter fun x => x.2.code = 0x78).length ≤ 1)
    (hm : (p, .lit v) ∈ l) : litOf (l.map (·.2)) = some v := by
  induction l with
  | nil => contradiction
  | cons x l ih =>
    obtain ⟨q, s⟩ := x
    by_cases hs : s.code = 0x78
    · obtain ⟨w, rfl⟩ := Src.code_eq_lit_iff.1 hs
      have hnil : l.filter (fun x => x.2.code = 0x78) = [] := by
        rw [List.filter_cons_of_pos (by simp [Src.code]), List.length_cons] at h
        exact List.eq_nil_of_length_eq_zero (by omega)
      rcases List.mem_cons.1 hm with he | hm
      · injection he with _ he
        exact congrArg some (Src.lit.inj he).symm
      · exact absurd hm fun hm => by simpa [Src.code] using List.filter_eq_nil_iff.1 hnil _ hm
    · rw [List.filter_cons_of_neg (by simpa using hs)] at h
      have hm : (p, .lit v) ∈ l := (List.mem_cons.1 hm).resolve_left fun he => hs (by rw [← (Prod.mk.inj he).2]; rfl)
      rw [← ih h hm, List.map_cons]
      cases s with
      | lit w => exact absurd rfl hs
      | _ => rfl

theorem litOf_isSome {l : List (Pos × Src)} : (litOf (l.map (·.2))).isSome = (l.any fun x => decide (x.2.code = 0x78)) := by
  induction l with
  | nil => rfl
  | cons x l ih =>
    obtain ⟨q, s⟩ := x
    cases s with
    | reg n =>
      have hn : (Src.reg n).code ≠ 0x78 := by simp [Src.code]; omega
      simp [litOf, ih, hn]
    | lit w => rfl
    | _ => simp [litOf, ih, Src.code]

/-- What `litsOk` says of each literal: it is the one that the sources carry, and it has the width that its position reads. -/
theorem litsOk_lit {ext : Bool} {ps : List (Pos × Src)} (h : litsOk ext ps = true) {p : Pos} {v : DWord} (hm : (p, .lit v) ∈ ps) :
    litOf (ps.map (·.2)) = some v ∧
      (if ext then p.wide || v >>> 32 == 0 else if p.wide then v == (v.setWidth 32).signExtend 64 else v >>> 32 == 0) = true := by
  simp only [litsOk, Bool.and_eq_true, decide_eq_true_eq, List.all_eq_true] at h
  exact ⟨litOf_eq_of_mem h.1 hm, h.2 _ hm⟩

/-- A source that is no literal does not matter to `litsOk`. -/
theorem litsOk_pair_left {ext : Bool} {p q : Pos} {a b : Src} (hb : b.code ≠ 0x78) : litsOk ext [(p, a), (q, b)] = litsOk ext [(p, a)] := by
  cases b with
  | lit v => exact absurd rfl hb
  | _ => simp [litsOk, List.filter_cons, hb]

theorem litsOk_pair_right {ext : Bool} {p q : Pos} {a b : Src} (ha : a.code ≠ 0x78) : litsOk ext [(p, a), (q, b)] = litsOk ext [(q, b)] := by
  cases a with
  | lit v => exact absurd rfl ha
  | _ => simp [litsOk, List.filter_cons, ha]

/-- The literal of a base word in a position of 32 bits (R64). -/
theorem litsOk_word {p : Pos} (hp : p.wide = false) (l : Word) : litsOk false [(p, .lit (l.setWidth 64))] = true := by
  have hl := l.isLt
  have hz : (l.setWidth 64 : DWord) >>> 32 = 0 := by
    refine BitVec.eq_of_toNat_eq ?_
    simp [Nat.shiftRight_eq_div_pow]
    omega
  simp [litsOk, hp, hz, Src.code]

/-- Sources that `litsOk` admits raise no literal subcode (R64). -/
theorem literalError_of_litsOk {ext : Bool} {ps : List (Pos × Src)} {lit : Option DWord} (h : litsOk ext ps = true)
    (hs : lit.isSome = (litOf (ps.map (·.2))).isSome) (he : ext = true → lit = litOf (ps.map (·.2))) :
    literalError ext (ps.map fun x => (x.1, x.2.code)) lit = none := by
  have hone : (ps.filter fun x => x.2.code = 0x78).length ≤ 1 := by
    simp only [litsOk, Bool.and_eq_true, decide_eq_true_eq] at h
    exact h.1
  have hcount : ((ps.map fun x => (x.1, x.2.code)).filter fun x => x.2 = 0x78).length = (ps.filter fun x => x.2.code = 0x78).length := by
    rw [List.filter_map, List.length_map]
    rfl
  have hzero : (ps.filter fun x => x.2.code = 0x78).length = 0 ↔ lit = none := by
    rw [← Option.not_isSome_iff_eq_none, hs, litOf_isSome, List.length_eq_zero_iff, List.filter_eq_nil_iff]
    simp
  unfold literalError
  simp only [hcount]
  rw [if_neg (by omega)]
  cases lit with
  | none =>
    dsimp only
    rw [if_neg (by simp [hzero.2 rfl])]
  | some v =>
    dsimp only
    rw [if_neg (by simp [hzero])]
    refine if_neg ?_
    rintro ⟨hext, hany, hv⟩
    obtain ⟨x, hx, hnarrow⟩ := List.any_eq_true.1 hany
    obtain ⟨⟨p, s⟩, hm, rfl⟩ := List.mem_map.1 hx
    simp only [Bool.decide_and, Bool.and_eq_true, decide_eq_true_eq] at hnarrow
    obtain ⟨w, rfl⟩ := Src.code_eq_lit_iff.1 hnarrow.1
    obtain ⟨hw, hwide⟩ := litsOk_lit h hm
    obtain rfl : v = w := Option.some.inj ((he hext).trans hw)
    simp [hext, hnarrow.2] at hwide
    exact hv hwide

/-- The literal of a base word, by the position it stands in, is the source's own (R64). -/
theorem baseLit_of_litsOk {ps : List (Pos × Src)} (h : litsOk false ps = true) {p : Pos} {s : Src} (hm : (p, s) ∈ ps) :
    Src.ofCode (baseLit p (((litOf (ps.map (·.2))).map (·.setWidth 32)).getD 0)) s.code = s := by
  refine Src.ofCode_code fun v hs => ?_
  subst hs
  obtain ⟨hv, hwide⟩ := litsOk_lit h hm
  rw [hv, Option.map_some, Option.getD_some, baseLit]
  by_cases hp : p.wide = true
  · simp only [hp, Bool.false_eq_true, if_false, if_true, beq_iff_eq] at hwide ⊢
    exact hwide.symm
  · simp only [hp, Bool.false_eq_true, if_false, beq_iff_eq] at hwide ⊢
    have hn : v.toNat >>> 32 = 0 := by simpa using congrArg BitVec.toNat hwide
    rw [Nat.shiftRight_eq_div_pow] at hn
    refine BitVec.eq_of_toNat_eq ?_
    simp only [BitVec.toNat_setWidth]
    omega

/-- The literal of an extended instruction, by the position it stands in, is the source's own (R64). -/
theorem extLit_of_litsOk {ps : List (Pos × Src)} (h : litsOk true ps = true) {s : Src} (hm : s ∈ ps.map (·.2)) :
    Src.ofCode ((litOf (ps.map (·.2))).getD 0) s.code = s := by
  obtain ⟨⟨p, t⟩, ht, rfl⟩ := List.mem_map.1 hm
  refine Src.ofCode_code fun v hs => ?_
  obtain rfl : t = .lit v := hs
  rw [(litsOk_lit h ht).1, Option.getD_some]

/-! ### Operands in their positions -/

theorem Dst.okAt_iff {p : Pos} {d : Dst} : d.okAt p = true ↔ dstError p d.code = Option.none := Option.isNone_iff_eq_none

theorem Src.okAt_iff {p : Pos} {s : Src} : s.okAt p = true ↔ srcError p s.code = none := Option.isNone_iff_eq_none

/-- Every destination may stand where any may (R62). -/
theorem Dst.okAt_dst (d : Dst) : d.okAt .dst = true := by
  cases d with
  | reg n => revert n; decide
  | none => rfl

/-- Every source may stand where any source may (R62). -/
theorem Src.okAt_src (s : Src) : s.okAt .src = true := by
  have h := s.code_lt
  simp only [Src.okAt_iff, srcError]
  rw [if_neg (by omega)]

end Sys2Proof
end

section
/-!
THEOREM. Decoding inverts encoding (R57 to R82): how many words the first word takes, then the operands, then the instruction that the opcode,
the type and the modifiers name.
-/

namespace Sys2Proof

/-! ### Framing (R57, R58) -/

/-- A pair is its two halves (R3). -/
theorem DWord.make_lo_hi (v : DWord) : DWord.make v.lo v.hi = v := by
  refine BitVec.eq_of_toNat_eq ?_
  have h := v.isLt
  rw [DWord.make, BitVec.toNat_append, ← Nat.shiftLeft_add_eq_or_of_lt v.lo.isLt]
  simp only [DWord.lo, DWord.hi, BitVec.toNat_setWidth, BitVec.toNat_ushiftRight, Nat.shiftLeft_eq, Nat.shiftRight_eq_div_pow]
  omega

section
variable {w : Word} {ws : List Word}

theorem decode_one_word (hl : field w 1 0 = 0) (ho : field w 8 2 < 0x40) : decode (w :: ws) = (decodeBase w none).map (·, 1) := by
  simp [decode, hl, ho]

theorem decode_two_words (hl : field w 1 0 = 1) (ho : field w 8 2 < 0x40) (l : Word) :
    decode (w :: l :: ws) = (decodeBase w (some l)).map (·, 2) := by
  simp [decode, hl, ho]

theorem decode_three_words (hl : field w 1 0 = 2) (ho : 0x40 ≤ field w 8 2) (w1 w2 : Word) :
    decode (w :: w1 :: w2 :: ws) = (decodeExt w w1 w2 none).map (·, 3) := by
  simp [decode, hl, ho]

theorem decode_five_words (hl : field w 1 0 = 3) (ho : 0x40 ≤ field w 8 2) (w1 w2 : Word) (v : DWord) :
    decode (w :: w1 :: w2 :: v.lo :: v.hi :: ws) = (decodeExt w w1 w2 (some v)).map (·, 5) := by
  simp [decode, hl, ho, DWord.make_lo_hi]

end

/-! ### Base words (R59, R68, R69) -/

/-- What a base word means whose checks are passed: the opcode, the code in D, the literal and the sources (R68, R69). -/
def baseMeaning (op d : Nat) (lit : Option Word) (a b : Src) : Except DecErr Instr :=
  if op = 0x23 then
    match (if d < 8 then Cond.ofCode d else none) with
    | some c => .ok (.brc c a (lit.getD 0))
    | none => .error (.illegal 0x11 (some (streamCls op 0)))
  else if op = 0x24 then .ok (.call (Dst.ofCode d) (lit.getD 0))
  else if op = 0x2E then
    match SendMode.ofCode d with
    | some m => .ok (if lit.isSome then .vsendLit m a else .vsend m a)
    | none => .error (.illegal 0x11 (some (streamCls op 0)))
  else
    match buildBase op lit.isSome ⟨Dst.ofCode d, a, b⟩ with
    | some i => .ok i
    | none => .error (.illegal 0x01 none)

/-- A base word with operands decodes to its meaning when D, the sources and the literal are admitted (R62 to R65, R68). -/
theorem decodeBase_firstWord {op d : Nat} {a b : Src} {lit : Option Word} (hop : op ≤ 0x2E) (hplain : op ≠ 0 ∧ op ≠ 0x22 ∧ op ≠ 0x2C)
    (hlen : (lit.isSome && !(baseLen op).1 || lit.isNone && (baseLen op).2) = false) (hd : d < 128)
    (hD : (if op = 0x23 ∨ op = 0x2E then none else dstError (baseForm op).d d) = none) (ha : a.okAt (baseForm op).a = true)
    (hb : b.okAt (baseForm op).b = true) (hl : litsOk false [((baseForm op).a, a), ((baseForm op).b, b)] = true)
    (hlit : lit = (litOf [a, b]).map (·.setWidth 32)) :
    decodeBase (firstWord lit.isSome.toNat op d a.code b.code) lit = baseMeaning op d lit a b := by
  have hc := a.code_lt
  have hc' := b.code_lt
  have hll := lit.isSome.toNat_lt
  obtain ⟨-, fo, fd, fa, fb⟩ := firstWord_fields (len := lit.isSome.toNat) (op := op) (d := d) (a := a.code) (b := b.code) (by omega)
    (by omega) hd (by omega) (by omega)
  have hle : literalError false [((baseForm op).a, a.code), ((baseForm op).b, b.code)] (lit.map (·.setWidth 64)) = none :=
    literalError_of_litsOk hl (by rw [hlit]; simp) (by simp)
  have hA : Src.ofCode (baseLit (baseForm op).a (lit.getD 0)) a.code = a := by rw [hlit]; exact baseLit_of_litsOk hl (by simp)
  have hB : Src.ofCode (baseLit (baseForm op).b (lit.getD 0)) b.code = b := by rw [hlit]; exact baseLit_of_litsOk hl (by simp)
  obtain ⟨h0, h22, h2C⟩ := hplain
  simp only [decodeBase, fo, fd, fa, fb, hA, hB, hD, hle, Src.okAt_iff.1 ha, Src.okAt_iff.1 hb, hlen, Nat.not_lt.2 hop, h0, h22, h2C,
    Bool.false_eq_true, if_false, firstError]
  rfl

/-- The instruction of a base opcode is the one that has it, with or without a literal as its row says (R68). -/
theorem buildBase_enc {i : Instr} {op : Nat} {o : BOps} {l : Bool} (h : i.enc = .base op o)
    (hl : i.litRow = none ∨ i.litRow = some l) : buildBase op l o = some i := by
  cases i with
  | exit | vend | vlend | vpop | frecv | yield => cases h; rfl
  | _ => cases h <;> obtain hl | hl := hl <;> cases hl <;> rfl

/-- Base opcodes with operands, and when they carry a literal (R68). -/
theorem enc_base_op {i : Instr} {op : Nat} {o : BOps} (h : i.enc = .base op o) (hl : i.litRow = none ∨ i.litRow = some (litOf [o.a, o.b]).isSome) :
    op ≤ 0x2D ∧ (op ≠ 0 ∧ op ≠ 0x22 ∧ op ≠ 0x2C) ∧ (op ≠ 0x23 ∧ op ≠ 0x24) ∧
      ((litOf [o.a, o.b]).isSome && !(baseLen op).1 || (litOf [o.a, o.b]).isNone && (baseLen op).2) = false := by
  cases i with
  | _ => cases h <;> exact ⟨by decide, by decide, by decide, by simp [baseLen, litOf]⟩

/-! ### Extended words (R60, R70) -/

/-- The codes of an extended instruction (R60, R67, R70). -/
theorem enc_ext_codes {i : Instr} {op fn ty : Nat} {mod : Word} {x : XOps} (h : i.enc = .ext op fn ty mod x) :
    (0x40 ≤ op ∧ op < 128) ∧ fn < fnCount op ∧ fn < 256 ∧ ty < 16 := by
  cases i with
  | cmp x t r => cases h; exact ⟨by decide, r.code_lt, by have := r.code_lt; omega, t.code_lt⟩
  | atom x f m => cases h; exact ⟨by decide, f.code_lt, by have := f.code_lt; omega, by split <;> decide⟩
  | mad x t | div x t | bfx x t | fcls x t | cvt x t | pfma x t | scan x t | lred x t | mwld x t | mstr x t | mcon x t =>
    cases h; exact ⟨by decide, by decide, by decide, t.code_lt⟩
  | _ => cases h <;> decide

/-- The instruction of an extended opcode is the one that has it, with the type and the modifiers that its MOD word holds (R70 to R82). -/
theorem buildExt_enc {i : Instr} {op fn ty : Nat} {mod : Word} {x : XOps} (h : i.enc = .ext op fn ty mod x) (hf : i.fieldsOk = true) :
    buildExt op fn ty mod x = some i := by
  cases i with
  | cmp x t r =>
    cases h
    change (Rel.ofCode r.code).map (Instr.cmp x (Ty.ofCode t.code)) = _
    simp
  | mad x t | div x t | bfx x t | fcls x t => cases h; exact congrArg some (congrArg _ t.ofCode_code)
  | ffma x r | frnd x r => cases h; exact congrArg (Option.map _) r.ofCode_word
  | cvt x t u sat r =>
    cases h
    obtain ⟨hr, hs, hu⟩ := cvtWord_fields r sat u
    change (RM.ofCode (field _ 2 0)).map (Instr.cvt x (Ty.ofCode t.code) (Ty.ofCode (field _ 7 4)) (decide (field _ 3 3 = 1))) = _
    rw [hr, hs, hu]
    simp
  | pfma x t r =>
    cases h
    change (RM.ofCode (field _ 2 0)).map (Instr.pfma x (Ty.ofCode t.code)) = _
    simp [r.ofCode_word]
  | ex2 x g | lg2 x g | rcp x g | rsq x g | sqt x g | sin x g | cos x g | tanh x g | sigm x g | erf x g =>
    cases h; exact congrArg some (congrArg _ g.ofCode_word)
  | nadd x m | nsub x m | nmul x m | ndot x m | nmin x m | nmax x m =>
    cases h; exact congrArg some (congrArg _ (narMod_word (m := m) (q := 0) (of_decide_eq_true hf) (by decide)).1)
  | npack x m q =>
    cases h
    obtain ⟨hp, hq⟩ : m.p < 32 ∧ q < 32 := of_decide_eq_true hf
    exact congrArg some (congrArg₂ _ (narMod_word hp hq).1 (narMod_word hp hq).2)
  | shfl x m | vote x m => cases h; exact congrArg (Option.map _) m.ofCode_word
  | scan x t m e =>
    cases h
    obtain ⟨hm, he⟩ := scanWord_fields m e
    change (RedMode.ofCode (field _ 2 0)).map (Instr.scan x (Ty.ofCode t.code) · (decide (field _ 3 3 = 1))) = _
    rw [hm, he]
    simp
  | lred x t m =>
    cases h
    change (RedMode.ofCode (field _ 2 0)).map (Instr.lred x (Ty.ofCode t.code)) = _
    simp [m.ofCode_word]
  | atom x f m =>
    cases h
    change (memMod (memModWord m)).bind (fun m => (AtomFn.ofCode f.code).map (Instr.atom x · m)) = _
    simp [memMod_word]
  | ld x m | st x m | feset x m | feget x m | waita x m | wake x m | fence x m => cases h; exact congrArg (Option.map _) (memMod_word m)
  | ldt x s | stt x s => cases h; exact congrArg (Option.map _) s.ofCode_word
  | talloc x l => cases h; exact congrArg (Option.map _) l.ofCode_word
  | mwld x t b => cases h; exact congrArg some (congrArg₂ _ t.ofCode_code (bool_word b))
  | mstr x t start reg =>
    cases h
    obtain ⟨hs, hr⟩ := mstrWord_fields start reg
    change some (Instr.mstr x (Ty.ofCode t.code) (decide (field _ 0 0 = 1)) (decide (field _ 1 1 = 1))) = _
    rw [hs, hr]
    simp
  | mcon x t start k len =>
    cases h
    obtain ⟨hs, hk, hl⟩ := mconWord_fields start k len
    change (ConKind.ofCode (field _ 4 2)).map
      (Instr.mcon x (Ty.ofCode t.code) (decide (field _ 0 0 = 1)) · (BitVec.ofNat 8 (field _ 15 8))) = _
    rw [hs, hk, hl]
    simp
  | cancel x l | cntrd x l => cases h; exact congrArg some (congrArg _ l.ofCode_word)
  | srd x n | swr x n => cases h; exact congrArg some (congrArg _ (ofNat_field_index n))
  | eret x => cases h; exact if_pos (by simpa [Instr.fieldsOk] using hf)
  | eretDispose x => cases h; exact if_neg (by simpa [Instr.fieldsOk] using hf)
  | frun x m r | fval x m r =>
    cases h; exact congrArg some (congrArg₂ _ (maskWord_fields m r).1 (maskWord_fields m r).2)
  | ftrip x m | fmask x m | regang x m => cases h; exact congrArg some (congrArg _ (ofNat_field_mask m))
  | vloop x b => cases h; exact congrArg some (congrArg _ (bool_word b))
  | _ => cases h <;> rfl

/-- The words of an extended instruction, of which the last two are there when it carries a literal (R60, R64). -/
def extWords (op fn ty : Nat) (mod : Word) (x : XOps) (lit : Option DWord) : List Word :=
  firstWord (2 + lit.isSome.toNat) op x.d.code x.a.code x.b.code ::
    secondWord x.c.code x.g.code.1 x.g.code.2 x.la ty fn :: mod :: (lit.elim [] fun v => [v.lo, v.hi])

theorem encode_ext {i : Instr} {op fn ty : Nat} {mod : Word} {x : XOps} (h : i.enc = .ext op fn ty mod x) :
    encode i = extWords op fn ty mod x (litOf [x.a, x.b, x.c]) := by
  simp only [encode, h, extWords]
  cases litOf [x.a, x.b, x.c] <;> rfl

theorem encode_base {i : Instr} {op : Nat} {o : BOps} (h : i.enc = .base op o) :
    encode i = withLit (firstWord ·.toNat op o.d.code o.a.code o.b.code) (litOf [o.a, o.b]) := by
  simp only [encode, h]
  rfl

/-- The dispose form's D is checked as every D; that of the in-place form must be `z` (R302). -/
theorem dstError_eret {op fn ty : Nat} {mod : Word} {x : XOps} (hd : x.d.okAt (extForm op fn ty mod (x.c == .zero)).d = true) :
    (if op = 0x5F ∧ fn = 2 ∧ x.c.code = 0x7B ∧ x.d.code ≠ 0x7B ∧ x.d.code ≠ 0x7F then some 0x07
      else dstError (extForm op fn ty mod (x.c == .zero)).d x.d.code) = none := by
  rw [Dst.okAt_iff] at hd
  rw [if_neg, hd]
  rintro ⟨rfl, rfl, hc, hz, -⟩
  rw [Src.code_eq_zero_iff.1 hc] at hd
  have h := x.d.code_lt
  have hform : (extForm 0x5F 2 ty mod (Src.zero == .zero)).d = .zero := rfl
  rw [hform, dstError, if_neg (by omega)] at hd
  split at hd
  · contradiction
  · simp [hz] at hd

/-- The words of a well-formed extended instruction pass every check and give it back (R60 to R84). -/
theorem decodeExt_enc {i : Instr} {op fn ty : Nat} {mod : Word} {x : XOps} (h : i.enc = .ext op fn ty mod x) (hw : WellFormed i = true) :
    decodeExt (firstWord (2 + (litOf [x.a, x.b, x.c]).isSome.toNat) op x.d.code x.a.code x.b.code)
      (secondWord x.c.code x.g.code.1 x.g.code.2 x.la ty fn) mod (litOf [x.a, x.b, x.c]) = .ok i := by
  obtain ⟨⟨-, hop⟩, hfn, hfn', hty⟩ := enc_ext_codes h
  simp only [WellFormed, h, Bool.and_eq_true, Bool.or_eq_true] at hw
  obtain ⟨⟨⟨⟨⟨⟨⟨⟨⟨⟨hd, ha⟩, hb⟩, hc⟩, hg⟩, hl⟩, hTy⟩, hMod⟩, hf⟩, hReg⟩, hWrite⟩ := hw
  have la := x.a.code_lt
  have lb := x.b.code_lt
  have lc := x.c.code_lt
  have ld := x.d.code_lt
  have lg := x.g.code_lt
  have ll := (litOf [x.a, x.b, x.c]).isSome.toNat_lt
  obtain ⟨-, fo, fd, fa, fb⟩ := firstWord_fields (len := 2 + (litOf [x.a, x.b, x.c]).isSome.toNat) (op := op) (d := x.d.code)
    (a := x.a.code) (b := x.b.code) (by omega) hop (by omega) (by omega) (by omega)
  obtain ⟨fc, fg, fgn, fl, ft, ff⟩ := secondWord_fields (c := x.c.code) (g := x.g.code.1) (gn := x.g.code.2) (la := x.la) (ty := ty)
    (fn := fn) (by omega) (by omega) lg.2 x.la.isLt hty hfn'
  have hle : literalError true [((extForm op fn ty mod (x.c == .zero)).a, x.a.code), ((extForm op fn ty mod (x.c == .zero)).b, x.b.code),
      ((extForm op fn ty mod (x.c == .zero)).c, x.c.code)] (litOf [x.a, x.b, x.c]) = none := literalError_of_litsOk hl rfl fun _ => rfl
  have hA : Src.ofCode ((litOf [x.a, x.b, x.c]).getD 0) x.a.code = x.a := extLit_of_litsOk hl (by simp)
  have hB : Src.ofCode ((litOf [x.a, x.b, x.c]).getD 0) x.b.code = x.b := extLit_of_litsOk hl (by simp)
  have hC : Src.ofCode ((litOf [x.a, x.b, x.c]).getD 0) x.c.code = x.c := extLit_of_litsOk hl (by simp)
  have hsys : ¬ (op = 0x5F ∧ fn ≤ 1 ∧ sysReg (field mod 11 0) = none) := by
    rintro ⟨rfl, hfn, hn⟩
    simp [hfn, hn] at hReg
  have hwr : ¬ (op = 0x5F ∧ fn = 1 ∧ (sysReg (field mod 11 0)).map (·.write) = some .none) := by
    rintro ⟨rfl, rfl, hn⟩
    simp [hn] at hWrite
  simp only [decodeExt, fo, fd, fa, fb, fc, fg, fgn, fl, ft, ff, x.c.decide_code_eq_zero, x.d.decide_code_eq_none,
    dstError_eret hd, Src.okAt_iff.1 ha, Src.okAt_iff.1 hb, Src.okAt_iff.1 hc, guardError_of_ok hg, hTy, hMod, hsys, hwr,
    if_false, if_true, Guard.ofCode_code hg, Dst.ofCode_code, hA, hB, hC, hle]
  rw [if_neg (by omega), if_neg (by omega)]
  simp only [firstError, Fin.eta]
  rw [buildExt_enc h hf]

/-! ### Each form of encoding -/

section
variable {i : Instr} (rest : List Word)

/-- The words of a well-formed extended instruction decode to it. -/
theorem decode_encode_ext {op fn ty : Nat} {mod : Word} {x : XOps} (h : i.enc = .ext op fn ty mod x) (hw : WellFormed i = true) :
    decode (encode i ++ rest) = .ok (i, i.words) := by
  have hx := decodeExt_enc h hw
  obtain ⟨⟨hlow, hop⟩, -⟩ := enc_ext_codes h
  have la := x.a.code_lt
  have lb := x.b.code_lt
  have ld := x.d.code_lt
  rw [Instr.words, encode_ext h, extWords]
  cases hl : litOf [x.a, x.b, x.c] with
  | none =>
    rw [hl] at hx
    obtain ⟨fl, fo, -⟩ := firstWord_fields (len := 2) (op := op) (d := x.d.code) (a := x.a.code) (b := x.b.code) (by omega) hop
      (by omega) (by omega) (by omega)
    exact (decode_three_words fl (fo.symm ▸ hlow) _ _).trans (congrArg _ hx)
  | some v =>
    rw [hl] at hx
    obtain ⟨fl, fo, -⟩ := firstWord_fields (len := 3) (op := op) (d := x.d.code) (a := x.a.code) (b := x.b.code) (by omega) hop
      (by omega) (by omega) (by omega)
    exact (decode_five_words fl (fo.symm ▸ hlow) _ _ v).trans (congrArg _ hx)

/-- A base word with operands and its literal decode to what they mean. -/
theorem decode_withLit {op d : Nat} {a b : Src} {lit : Option DWord} (hop : op ≤ 0x2E) (hd : d < 128)
    (hx : decodeBase (firstWord lit.isSome.toNat op d a.code b.code) (lit.map (·.setWidth 32)) = .ok i) :
    decode (withLit (firstWord ·.toNat op d a.code b.code) lit ++ rest) =
      .ok (i, (withLit (firstWord ·.toNat op d a.code b.code) lit).length) := by
  have la := a.code_lt
  have lb := b.code_lt
  cases lit with
  | none =>
    obtain ⟨fl, fo, -⟩ := firstWord_fields (len := 0) (op := op) (d := d) (a := a.code) (b := b.code) (by omega) (by omega) hd (by omega)
      (by omega)
    exact (decode_one_word fl (by rw [fo]; omega)).trans (congrArg _ hx)
  | some v =>
    obtain ⟨fl, fo, -⟩ := firstWord_fields (len := 1) (op := op) (d := d) (a := a.code) (b := b.code) (by omega) (by omega) hd (by omega)
      (by omega)
    exact (decode_two_words fl (by rw [fo]; omega) _).trans (congrArg _ hx)

/-- The words of a well-formed base form decode to it (R59, R68). -/
theorem decode_encode_base {op : Nat} {o : BOps} (h : i.enc = .base op o) (hw : WellFormed i = true) :
    decode (encode i ++ rest) = .ok (i, i.words) := by
  simp only [WellFormed, h, Bool.and_eq_true, Bool.or_eq_true, beq_iff_eq] at hw
  obtain ⟨⟨⟨⟨hd, ha⟩, hb⟩, hl⟩, hrow⟩ := hw
  obtain ⟨hop, hplain, ⟨h23, h24⟩, hlen⟩ := enc_base_op h hrow
  have ld := o.d.code_lt
  have h2E : op ≠ 0x2E := by omega
  rw [Instr.words, encode_base h]
  refine decode_withLit rest (by omega) (by omega) ?_
  have hx := decodeBase_firstWord (d := o.d.code) (lit := (litOf [o.a, o.b]).map (·.setWidth 32)) (by omega) hplain (by simpa using hlen)
    (by omega) (by simpa [h23, h2E] using Dst.okAt_iff.1 hd) ha hb hl rfl
  rw [Option.isSome_map] at hx
  rw [hx]
  simp only [baseMeaning, h23, h24, h2E, if_false, Option.isSome_map, Dst.ofCode_code, buildBase_enc h hrow]

end

/-- VSEND and VSEND_LIT decode to themselves: D holds the mode (R31, R69). -/
theorem decode_encode_send {i : Instr} {m : SendMode} {a : Src} (rest : List Word) (h : i.enc = .send m a)
    (hi : i = if (litOf [a]).isSome then .vsendLit m a else .vsend m a) (hl : litsOk false [(.src, a)] = true) :
    decode (encode i ++ rest) = .ok (i, i.words) := by
  have hm := m.code_lt
  have hlit : litOf [a, .zero] = litOf [a] := by cases a <;> rfl
  have hlen (l : Option Word) : (l.isSome && !(baseLen 0x2E).1 || l.isNone && (baseLen 0x2E).2) = false := by simp [baseLen]
  have hx := decodeBase_firstWord (op := 0x2E) (d := m.code) (lit := (litOf [a]).map (·.setWidth 32)) (by decide) (by decide) (hlen _) hm rfl
    a.okAt_src rfl ((litsOk_pair_left (b := .zero) (by decide)).trans hl) (by rw [hlit])
  have hw : encode i = withLit (firstWord ·.toNat 0x2E m.code a.code Src.zero.code) (litOf [a]) := by
    simp only [encode, h]
    rfl
  rw [Instr.words, hw]
  refine decode_withLit rest (by decide) hm ?_
  rw [Option.isSome_map] at hx
  rw [hx, hi]
  simp [baseMeaning]

theorem decodeBase_bra {w : Word} (ho : field w 8 2 = 0x22) : decodeBase w none = .ok (.bra (BitVec.ofNat 21 (field w 29 9))) := by
  simp [decodeBase, ho, baseLen]

/-- BRA decodes to itself: bits 9 to 29 hold the offset (R69). -/
theorem decode_encode_bra (off : BitVec 21) (rest : List Word) : decode (encode (.bra off) ++ rest) = .ok (.bra off, (Instr.bra off).words) := by
  have h := off.isLt
  have fl : field (BitVec.ofNat 32 (0x88 + off.toNat * 2 ^ 9)) 1 0 = 0 := by rw [field_ofNat (by omega) (by omega)]; omega
  have fo : field (BitVec.ofNat 32 (0x88 + off.toNat * 2 ^ 9)) 8 2 = 0x22 := by rw [field_ofNat (by omega) (by omega)]; omega
  have ff : field (BitVec.ofNat 32 (0x88 + off.toNat * 2 ^ 9)) 29 9 = off.toNat := by rw [field_ofNat (by omega) (by omega)]; omega
  have hx := decodeBase_bra fo
  rw [ff, BitVec.ofNat_toNat, BitVec.setWidth_eq] at hx
  exact (decode_one_word fl (by rw [fo]; decide)).trans (congrArg _ hx)

/-- TRAP decodes to itself: A and B hold the code (R69). -/
theorem decode_encode_trap (code : BitVec 14) (rest : List Word) :
    decode (encode (.trap code) ++ rest) = .ok (.trap code, (Instr.trap code).words) := by
  have h := code.isLt
  have hw : encode (.trap code) = [firstWord 0 0x2C 0x7B (code.toNat / 2 ^ 7) (code.toNat % 2 ^ 7)] := rfl
  obtain ⟨fl, fo, fd, fa, fb⟩ := firstWord_fields (len := 0) (op := 0x2C) (d := 0x7B) (a := code.toNat / 2 ^ 7) (b := code.toNat % 2 ^ 7)
    (by omega) (by omega) (by omega) (by omega) (by omega)
  have hcode : code.toNat / 2 ^ 7 * 2 ^ 7 + code.toNat % 2 ^ 7 = code.toNat := Nat.div_add_mod' _ _
  have hx : decodeBase (firstWord 0 0x2C 0x7B (code.toNat / 2 ^ 7) (code.toNat % 2 ^ 7)) none = .ok (.trap code) := by
    simp only [decodeBase, fo, fd, fa, fb, hcode]
    simp [baseLen, dstError]
  rw [Instr.words, hw]
  exact (decode_one_word fl (by rw [fo]; decide)).trans (congrArg _ hx)

/-- A branch with a word offset decodes to what its opcode, D, A and offset mean: B stands for the literal (R69). -/
theorem decode_branch {i : Instr} {op d : Nat} {a : Src} {off : Word} (rest : List Word) (hop : op = 0x23 ∨ op = 0x24) (hd : d < 128)
    (hD : (if op = 0x23 ∨ op = 0x2E then none else dstError (baseForm op).d d) = none) (ha : a.okAt (baseForm op).a = true)
    (hne : a.code ≠ 0x78) (hi : baseMeaning op d (some off) a (.lit (off.setWidth 64)) = .ok i) :
    decode (firstWord 1 op d a.code 0x78 :: off :: rest) = .ok (i, 2) := by
  have hlit : litOf [a, .lit (off.setWidth 64)] = some (off.setWidth 64) := by
    cases a with
    | lit v => exact absurd rfl hne
    | _ => rfl
  have hform : (baseForm op).b = .lit ∧ op ≤ 0x2E ∧ (op ≠ 0 ∧ op ≠ 0x22 ∧ op ≠ 0x2C) ∧ (baseLen op).1 = true := by
    rcases hop with rfl | rfl <;> decide
  obtain ⟨hb, hle, hplain, hlen⟩ := hform
  have hx := decodeBase_firstWord (lit := some off) (b := .lit (off.setWidth 64)) hle hplain (by simp [hlen]) hd hD ha (by rw [hb]; rfl)
    (by rw [hb, litsOk_pair_right hne]; exact litsOk_word rfl off) (by simp [hlit])
  have la := a.code_lt
  obtain ⟨fl, fo, -⟩ := firstWord_fields (len := 1) (op := op) (d := d) (a := a.code) (b := 0x78) (by omega) (by omega) hd (by omega)
    (by omega)
  exact (decode_two_words fl (by rw [fo]; omega) off).trans (congrArg _ (hx.trans hi))

/-- BRC decodes to itself: D holds the condition, the second word the offset (R69). -/
theorem decode_encode_brc {k : Cond} {a : Src} {off : Word} (rest : List Word) (h : (litOf [a]).isNone = true) :
    decode (encode (.brc k a off) ++ rest) = .ok (.brc k a off, (Instr.brc k a off).words) := by
  have hk := k.code_lt
  have hne : a.code ≠ 0x78 := fun hc => by
    obtain ⟨v, rfl⟩ := Src.code_eq_lit_iff.1 hc
    contradiction
  exact decode_branch rest (.inl rfl) (by omega) rfl a.okAt_src hne (by simp [baseMeaning, hk])

/-- CALL decodes to itself: the second word holds the offset (R69). -/
theorem decode_encode_call (d : Dst) (off : Word) (rest : List Word) :
    decode (encode (.call d off) ++ rest) = .ok (.call d off, (Instr.call d off).words) := by
  have hd := d.code_lt
  have hw : encode (.call d off) = [firstWord 1 0x24 d.code Src.zero.code 0x78, off] := by
    simp only [encode, Instr.enc, firstWord, Src.code]
    rw [show 0x91 = 1 + 0x24 * 2 ^ 2 from rfl]
  rw [Instr.words, hw]
  exact decode_branch (a := .zero) rest (.inr rfl) (by omega) (Dst.okAt_iff.1 d.okAt_dst) rfl (by decide) (by simp [baseMeaning])

/-- Is an instruction encoded by operand fields, or not at all? -/
def Enc.byOperands : Enc → Bool
  | .none | .base .. | .ext .. => true
  | _ => false

theorem decode_encode_byOperands {i : Instr} (rest : List Word) (h : i.enc.byOperands = true) (hw : WellFormed i = true) :
    decode (encode i ++ rest) = .ok (i, i.words) := by
  cases he : i.enc with
  | none => simp [WellFormed, he] at hw
  | base op o => exact decode_encode_base rest he hw
  | ext op fn ty mod x => exact decode_encode_ext rest he hw
  | word | wordLit | send | brc => simp [he, Enc.byOperands] at h

/-- Settles O56, form by form: the words whose fields have meanings of their own (R69), and those of operand fields. -/
theorem decodeInvertsEncode : Obligations.DecodeInvertsEncode := by
  unfold Obligations.DecodeInvertsEncode
  intro i rest h
  cases i with
  | nop => rfl
  | bra off => exact decode_encode_bra off rest
  | trap code => exact decode_encode_trap code rest
  | brc k a off => exact decode_encode_brc rest h
  | call d off => exact decode_encode_call d off rest
  | vsend m a =>
    simp only [WellFormed, Instr.enc, Instr.litRow, Bool.and_eq_true, beq_iff_eq, Option.some.injEq] at h
    exact decode_encode_send rest rfl (by simp [← h.2]) h.1
  | vsendLit m a =>
    simp only [WellFormed, Instr.enc, Instr.litRow, Bool.and_eq_true, beq_iff_eq, Option.some.injEq] at h
    exact decode_encode_send rest rfl (by simp [← h.2]) h.1
  | _ => exact decode_encode_byOperands rest rfl h

end Sys2Proof
end

section
/-!
THEOREM. Branches, calls and jumps (R69, R89, R368, R372, R408), and the system registers, HGATE and INTR (R86, R87, R127, R403, R405, R442,
R449), each from its own effect.
-/

namespace Sys2Proof.Machine

/-! ### Branches -/

/-- An instruction whose effect is a jump goes to its target, inside the instruction store or not (R89, R368). -/
theorem goes_of_jumpTo {i : Instr} {P : Ctx → Prop} {target : Ctx → Int} {lat : Option Nat} {ws : Ctx → List (Nat × Nat × Word)}
    {k : Ctx → State → Eff} (hx : ∀ s, exec i s = issueWith i 1 k s) (hk : ∀ c s, P c → k c s = jumpTo c s (target c) (ws c) lat) :
    Goes i P target lat ws := by
  refine ⟨fun s c hi ⟨hp, hin⟩ => ?_, fun s c hi ⟨hp, hout⟩ => ?_⟩
  · exact exec_of_effect (hx s) hi ((hk c s hp).trans (if_pos hin))
  · exact exec_of_effect (hx s) hi ((hk c s hp).trans (if_neg (by simp [hout])))

theorem jumpReg_aligned {a : Src} {c : Ctx} {s : State} (h : (c.lane0 a).toNat % 4 = 0) :
    jumpReg a c s = jumpTo c s (c.lane0 a).toNat [] none := if_neg (not_not.2 h)

theorem jumpReg_misaligned {a : Src} {c : Ctx} {s : State} (h : (c.lane0 a).toNat % 4 ≠ 0) :
    jumpReg a c s = .trapAll 0x06 0 ((c.lane0 a).setWidth 64) := if_pos h

/-- JMP and JMP_LIT go to an aligned address and trap at any other (R408). -/
theorem jump_goes_or_traps {i : Instr} {a : Src} (hx : ∀ s, exec i s = issueWith i 1 (jumpReg a) s) :
    Goes i (fun c => (c.lane0 a).toNat % 4 = 0) (fun c => (c.lane0 a).toNat) none (fun _ => []) ∧
      Traps i 1 (fun c _ => (c.lane0 a).toNat % 4 ≠ 0) 0x06 0 fun c _ => (c.lane0 a).setWidth 64 :=
  ⟨goes_of_jumpTo hx fun _ _ h => jumpReg_aligned h, fun s _ hi h => exec_of_effect (hx s) hi (jumpReg_misaligned h)⟩

theorem condHolds_z_iff (w : Word) : condHolds .z w = true ↔ w.toNat = 0 := by
  rw [condHolds, beq_iff_eq]
  exact BitVec.toNat_inj.symm

theorem condHolds_neg_iff (w : Word) : condHolds .neg w = true ↔ w.toInt < 0 := by
  rw [condHolds, BitVec.toInt_neg_iff, BitVec.getLsbD]
  have h := w.isLt
  rw [Nat.testBit_eq_decide_div_mod_eq]
  simp
  omega

theorem condHolds_odd_iff (w : Word) : condHolds .odd w = true ↔ w.toNat % 2 = 1 := by
  rw [condHolds, BitVec.getLsbD, Nat.testBit_zero, decide_eq_true_eq]

/-- Settles O11: each branch's effect is a jump to its target. -/
theorem branchesGoToTheirTargets : Obligations.BranchesGoToTheirTargets := by
  unfold Obligations.BranchesGoToTheirTargets
  intro off o k a d
  refine ⟨goes_of_jumpTo (fun _ => exec_bra) fun _ _ _ => rfl, goes_of_jumpTo (fun _ => exec_brc) fun _ _ h => if_pos h,
    fun s c hi h => exec_of_effect exec_brc hi (if_neg (by simp [h])), goes_of_jumpTo (fun _ => exec_call) fun _ _ _ => rfl,
    fun w => ⟨condHolds_z_iff w, condHolds_neg_iff w, condHolds_odd_iff w, ?opposites⟩, ?jumps⟩
  case opposites =>
    rintro k k' (h | h | h) <;> cases h <;> rfl
  case jumps =>
    rintro i (rfl | rfl)
    · exact jump_goes_or_traps fun _ => exec_jmp
    · exact jump_goes_or_traps fun _ => exec_jmpLit

/-! ### System registers, HGATE and INTR -/

/-- Settles O30, each row from its own effect. -/
theorem systemInstructionsComplete : Obligations.SystemInstructionsComplete := by
  unfold Obligations.SystemInstructionsComplete
  intro x n
  refine ⟨fun s c hi _ => exec_of_effect exec_srd hi rfl, fun s c hi h => ?written, fun s c hi h => ?outwritten,
    ⟨fun s c hi h => ?accepted, fun s c hi h => ?rejected⟩, fun w s c hi h => ?intr⟩
  case written => exact exec_of_effect exec_swr hi (congrArg Eff.plain (if_neg (by simp [h])))
  case outwritten => exact exec_of_effect exec_swr hi (congrArg Eff.plain (if_pos h))
  case accepted =>
    exact exec_of_effect exec_hgate hi (congrArg₂ (fun t n => Eff.result t 4 (c.fill x.d [BitVec.ofNat 32 n])) (if_pos h) h)
  case rejected => exact exec_of_effect exec_hgate hi (congrArg (Eff.result · 4 _) (if_neg h))
  case intr =>
    have howner : ((s.owner? c.cur.strand.owner).map (·.ogen)).getD 0 = w.ogen := by rw [h, Option.map_some, Option.getD_some]
    rw [← howner]
    exact exec_of_effect exec_intr hi rfl

end Sys2Proof.Machine
end

section
/-!
THEOREM. Privilege levels (R85), the machine after reset (R88, R109, R324, R352, R353), and that a step runs the instruction decoded at the
place of the stream that issues (R57, R83, R89).
-/

namespace Sys2Proof.Machine

/-! ### Privilege levels -/

section
variable {c : Ctx} {i : Instr}

theorem issueError_priv (hs : streamOk (fieldsOf i) c.isCtl = true) (hp : privOk i c.t.priv = false) :
    issueError c i = some ⟨0x11, 0, 0, BitVec.ofNat 32 (maskOf c.lanes)⟩ := by
  simp [issueError, hs, hp]

/-- An instruction that its level allows takes any trap of the checks but the privilege trap. -/
theorem issueError_cause_ne {tr : Trap} (hp : privOk i c.t.priv = true) (h : issueError c i = some tr) : tr.cause ≠ 0x11 := by
  simp only [issueError, hp, Bool.not_true, Bool.false_eq_true, if_false] at h
  split at h
  · cases h; simp
  · split at h
    · cases h; simp
    · split at h
      · cases h; simp
      · contradiction

/-- ERET needs SUPER, HGATE needs HYPER, SRD and SWR what the register's row says; every other instruction may issue at any level
(R85, R86). -/
theorem privOk_of_other {p : Nat} (h : ∀ x, i ≠ .eret x ∧ i ≠ .eretDispose x ∧ i ≠ .hgate x ∧ ∀ n, i ≠ .srd x n ∧ i ≠ .swr x n) :
    privOk i p = true := by
  cases i with
  | eret x => exact absurd rfl (h x).1
  | eretDispose x => exact absurd rfl (h x).2.1
  | hgate x => exact absurd rfl (h x).2.2.1
  | srd x n => exact absurd rfl ((h x).2.2.2 n).1
  | swr x n => exact absurd rfl ((h x).2.2.2 n).2
  | _ => rfl

end

/-- The level that a register's access asks for (R85, R86). -/
def accessLevel : Access → Option Nat
  | .user => some 0
  | .super => some 1
  | .hyper => some 2
  | .none => none

theorem accessOk_of_level {a : Access} {level p : Nat} (h : accessLevel a = some level) : accessOk a p = decide (level ≤ p) := by
  cases a <;> cases h <;> simp [accessOk]

/-- The levels that a register's row asks for, to read it and to write it (R86). -/
def sysLevels (n : Nat) : Option (Option Nat × Option Nat) := (sysReg n).map fun r => (accessLevel r.read, accessLevel r.write)

theorem privOk_srd {x : XOps} {n : BitVec 12} {level p : Nat} {w : Option Nat} (h : sysLevels n.toNat = some (some level, w)) :
    privOk (.srd x n) p = decide (level ≤ p) := by
  obtain ⟨r, hr, hl⟩ := Option.map_eq_some_iff.1 h
  simp [privOk, hr, accessOk_of_level (Prod.mk.inj hl).1]

theorem privOk_swr {x : XOps} {n : BitVec 12} {level p : Nat} {r : Option Nat} (h : sysLevels n.toNat = some (r, some level)) :
    privOk (.swr x n) p = decide (level ≤ p) := by
  obtain ⟨r, hr, hl⟩ := Option.map_eq_some_iff.1 h
  simp [privOk, hr, accessOk_of_level (Prod.mk.inj hl).2]

/-- Settles O51: `privOk` compares the level with the one that the instruction asks for, by R86's table for SRD and SWR. -/
theorem privilegeLevelsAreEnforced : Obligations.PrivilegeLevelsAreEnforced := by
  unfold Obligations.PrivilegeLevelsAreEnforced
  intro levels
  have table : ∀ e ∈ levels, sysLevels e.1.toNat = some (some e.2.1, e.2.2) := by simp only [levels]; decide
  refine ⟨fun s cur c i hcur hctx hi hs => ⟨fun level x hl => ?_, fun h tr => issueError_cause_ne (privOk_of_other h)⟩, fun s t => rfl⟩
  have hok : privOk i c.t.priv = decide (level ≤ c.t.priv) := by
    rcases hl with ⟨rfl | rfl, rfl⟩ | ⟨rfl, rfl⟩ | ⟨e, he, rfl, rfl⟩ | ⟨e, he, rfl, hw⟩
    · rfl
    · rfl
    · rfl
    · exact privOk_srd (table e he)
    · exact privOk_swr (hw ▸ table e he)
  exact ⟨fun hlt => exec_issueError hcur hctx hi (issueError_priv hs (by simp [hok, hlt])),
    fun hle tr => issueError_cause_ne (by simp [hok, hle])⟩

/-! ### Reset -/

/-- Start-up step 11 makes one owner, with its record and the registers' reset values (R88, R352). -/
theorem reset_owners : State.reset.owners = [ownerNew ownerZeroRec] := rfl

/-- Settles O53: the tables are empty, and the fields hold what start-up gives them. -/
theorem resetState : Obligations.ResetState := by
  unfold Obligations.ResetState
  have memory : (∀ a, State.reset.byte a = 0) ∧ ∀ w, State.reset.isFull w = true ∧ State.reset.poisoned w = false :=
    ⟨fun _ => rfl, fun _ => ⟨rfl, rfl⟩⟩
  exact ⟨rfl, rfl, rfl, memory.1, memory.2, rfl, rfl, rfl, rfl, rfl, rfl, rfl, rfl,
    ⟨_, reset_owners, rfl, rfl, rfl, rfl, rfl, rfl, rfl, rfl⟩, ⟨_, rfl, rfl, rfl, rfl, rfl⟩, reset_memOk⟩

/-! ### A step -/

/-- A list of words shorter than its first word says is no instruction (R57, R58). -/
theorem decode_short {w : Word} {ws : List Word} (h : ws.length + 1 < lenWords w) : decode (w :: ws) = .error .short := by
  have hl : field w 1 0 < 4 := Nat.mod_lt _ (by decide)
  obtain h0 | h1 | h2 | h3 : field w 1 0 = 0 ∨ field w 1 0 = 1 ∨ field w 1 0 = 2 ∨ field w 1 0 = 3 := by omega
  · simp [lenWords, h0] at h
  · match ws with
    | [] => simp [decode, h1]
    | _ :: _ => simp [lenWords, h1] at h
  · match ws with
    | [] | [_] => simp [decode, h2]
    | _ :: _ :: _ => simp [lenWords, h2] at h; omega
  · match ws with
    | [] | [_] | [_, _] | [_, _, _] => simp [decode, h3]
    | _ :: _ :: _ :: _ :: _ => simp [lenWords, h3] at h; omega

section
variable {s : State} {o : Nat} {pc mask : Word} {ctl : Bool}

theorem fetchAt_instr {i : Instr} {n : Nat} (h : decode (codeWords s o pc.toNat 5) = .ok (i, n)) : fetchAt s o pc ctl mask = .instr i := by
  unfold fetchAt
  cases hw : codeWords s o pc.toNat 5 with
  | nil => simp [hw, decode] at h
  | cons w ws =>
    rw [hw] at h
    have hlen : ¬ ws.length + 1 < lenWords w := fun hs => by simp [decode_short hs] at h
    simp only [hlen, if_false, h]

theorem fetchAt_illegal {sub : Nat} {cls : Option StreamCls} (h : decode (codeWords s o pc.toNat 5) = .error (.illegal sub cls)) :
    fetchAt s o pc ctl mask = .trap ⟨0x01, if wrongStream cls ctl then 0x04 else sub, 0, mask⟩ := by
  unfold fetchAt
  cases hw : codeWords s o pc.toNat 5 with
  | nil => simp [hw, decode] at h
  | cons w ws =>
    rw [hw] at h
    have hlen : ¬ ws.length + 1 < lenWords w := fun hs => by simp [decode_short hs] at h
    simp only [hlen, if_false, h]

end

/-- With nothing else due, a step is what the slot on offer issues. -/
theorem step_eq_slotStep {s : State} {tn : Turn} {l : LCore} (ha : s.arrived = none) (hon : s.dev.on = true)
    (hd : s.firstDue (s.deviceRows ++ s.indexRows) = none) (ht : s.turn = some tn) (hs : tn.slot ≤ 2)
    (hl : s.lcore? tn.owner tn.lc = some l) (hr : s.firstDue (s.lcoreRows l) = none) : step s = s.slotStep l tn.slot := by
  simp only [step, State.proceed, ha, hon, hd, State.cycleStep, ht, hl, State.turnStep, hs, hr, Option.bind_some, Option.map_some,
    Bool.not_true, Bool.false_eq_true, if_false, if_true]

section
variable {s : State} {l : LCore} {slot : Nat} {cur : Cur} {c : Ctx} (hp : s.pick l slot = some cur) (hc : ctxAt s cur = some c)
  (hw : c.str.wait = none)
include hp hc hw

/-- A picked stream that does not wait runs the instruction that it finds at its place. -/
theorem slotStep_instr {i : Instr} (hf : c.fetched s = .instr i) : s.slotStep l slot = exec i { s with cur := some cur } := by
  simp only [State.slotStep, hp, hc, hw, Option.bind_none, hf]

/-- A picked stream that does not wait takes the trap of what it finds at its place. -/
theorem slotStep_trap {tr : Trap} (hf : c.fetched s = .trap tr) : s.slotStep l slot = .next (fetchTrap c tr s) := by
  simp only [State.slotStep, hp, hc, hw, Option.bind_none, hf]

end

/-- Settles O54: nothing else is due, so the step is what the picked stream finds at its place. -/
theorem stepRunsTheDecodedInstruction : Obligations.StepRunsTheDecodedInstruction := by
  unfold Obligations.StepRunsTheDecodedInstruction
  intro s tn l cur c ha hon hd ht hs hl hr hp hc hw
  rw [step_eq_slotStep ha hon hd ht hs hl hr, ← ctxAt_cur hc]
  rw [← ctxAt_cur hc] at hp
  exact ⟨fun i n h => slotStep_instr hp (ctxAt_cur hc ▸ hc) hw (fetchAt_instr h),
    fun sub cls h _ => slotStep_trap hp (ctxAt_cur hc ▸ hc) hw (fetchAt_illegal h)⟩

/-! ### Words of the spec -/

/-- Settles O55: each word list decodes by evaluation. -/
theorem specWordsDecode : Obligations.SpecWordsDecode := by
  unfold Obligations.SpecWordsDecode
  exact ⟨by decide, by decide, by decide, by decide, by decide, by decide, by decide, by decide, by decide, by decide⟩

end Sys2Proof.Machine
end

section
/-!
THEOREM. Operations on NaN operands (R138, R150, R397), and the special functions and the narrow datapath (R157 to R159, R423, R425).
-/

namespace Sys2Proof.Machine

/-! ### NaN operands -/

theorem FVal.isNan_iff {v : FVal} : v.isNan = true ↔ v = .nan := by
  cases v with
  | nan => exact iff_of_true rfl rfl
  | inf n => exact iff_of_false Bool.false_ne_true FVal.noConfusion
  | fin n m e => exact iff_of_false Bool.false_ne_true FVal.noConfusion

theorem FVal.isNan_neg (v : FVal) : v.neg.isNan = v.isNan := by cases v <;> rfl

theorem FVal.nan_mul (v : FVal) : FVal.mul .nan v = .nan := by cases v <;> rfl

theorem FVal.mul_nan (v : FVal) : v.mul .nan = .nan := by cases v <;> rfl

theorem FVal.nan_add (rm : RM) (v : FVal) : FVal.add rm .nan v = .nan := by cases v <;> rfl

theorem FVal.add_nan (rm : RM) (v : FVal) : FVal.add rm v .nan = .nan := by cases v <;> rfl

/-- An exact sum with a NaN is NaN (R138). -/
theorem FVal.add_of_isNan (rm : RM) {v w : FVal} (h : v.isNan = true ∨ w.isNan = true) : FVal.add rm v w = .nan := by
  rcases h with hv | hw
  · rw [FVal.isNan_iff.1 hv, FVal.nan_add]
  · rw [FVal.isNan_iff.1 hw, FVal.add_nan]

/-- An exact product with a NaN is NaN (R138). -/
theorem FVal.mul_of_isNan {v w : FVal} (h : v.isNan = true ∨ w.isNan = true) : v.mul w = .nan := by
  rcases h with hv | hw
  · rw [FVal.isNan_iff.1 hv, FVal.nan_mul]
  · rw [FVal.isNan_iff.1 hw, FVal.mul_nan]

/-- A NaN is encoded as the canonical NaN, in every rounding (R138). -/
theorem toF32_nan (rm : RM) : toF32 rm .nan = f32Nan := rfl

section
variable {a b : Word} {isMax : Bool}

theorem f32MinMax_of_nan_nan (ha : (f32 a).isNan = true) (hb : (f32 b).isNan = true) : f32MinMax isMax a b = f32Nan :=
  (if_pos ha).trans (if_pos hb)

theorem f32MinMax_of_nan_left (ha : (f32 a).isNan = true) (hb : (f32 b).isNan = false) : f32MinMax isMax a b = b :=
  (if_pos ha).trans (if_neg (Bool.eq_false_iff.1 hb))

theorem f32MinMax_of_nan_right (ha : (f32 a).isNan = false) (hb : (f32 b).isNan = true) : f32MinMax isMax a b = a :=
  (if_neg (Bool.eq_false_iff.1 ha)).trans (if_pos hb)

end

/-- Settles O4: an exact sum or product with a NaN is NaN, and its encoding is the canonical NaN. -/
theorem naNOperandsGiveTheCanonicalNaN : Obligations.NaNOperandsGiveTheCanonicalNaN := by
  unfold Obligations.NaNOperandsGiveTheCanonicalNaN
  refine fun a b => ⟨fun h => ⟨?sum, ?difference, ?product⟩,
    fun _ => ⟨f32MinMax_of_nan_nan, f32MinMax_of_nan_left, f32MinMax_of_nan_right⟩⟩
  case sum => exact (congrArg (toF32 .rne) (FVal.add_of_isNan .rne h)).trans (toF32_nan .rne)
  case difference =>
    have hneg : (f32 a).isNan = true ∨ (f32 b).neg.isNan = true := by rwa [FVal.isNan_neg]
    exact (congrArg (toF32 .rne) (FVal.add_of_isNan .rne hneg)).trans (toF32_nan .rne)
  case product => exact (congrArg (toF32 .rne) (FVal.mul_of_isNan h)).trans (toF32_nan .rne)

/-! ### Operations lane by lane -/

section
variable {i : Instr} {x : XOps} {m : NarMod}

/-- An operation lane by lane issues, and its lanes' results are written when it is due. -/
theorem computes_of_issueLanes {cost lat : Nat} {d : Dst} {f : Ctx → Nat → List Word}
    (h : ∀ s, exec i s = issueLanes i cost lat d f s) : Computes i cost lat d f :=
  fun s _ hi _ => (h s).trans (issueLanes_issuing lat d f hi)

theorem computes_of_execSfn {fn : SfnFn} {gr : Grade} (h : ∀ s, exec i s = execSfn i x fn gr s) :
    Computes i 2 (if gr = .fast then 8 else 22) x.d fun c l => [sfnValue fn gr (c.src x.a l)] :=
  computes_of_issueLanes h

theorem computes_of_execNarrow {f : Int → Int → Int} (h : ∀ s, exec i s = execNarrow i x m f s) :
    Computes i (if m.p ≤ 8 then 1 else 2) (m.p + 4) x.d fun c l =>
      [narrowPack m.p fun j => narrowPut m m.p (f (narrowElem m (c.src x.a l) j) (narrowElem m (c.src x.b l) j))] :=
  computes_of_issueLanes h

end

/-- Settles O8: every row is an operation lane by lane. -/
theorem specialAndNarrowOperationsComplete : Obligations.SpecialAndNarrowOperationsComplete := by
  unfold Obligations.SpecialAndNarrowOperationsComplete
  intro x m gr
  refine ⟨fun r hr => computes_of_execSfn (fn := r.2) ?special, fun r hr => computes_of_execNarrow (f := r.2) ?narrow,
    computes_of_issueLanes fun _ => exec_ndot, fun q => computes_of_issueLanes fun _ => exec_npack⟩
  case special =>
    revert r
    simp only [List.forall_mem_cons]
    exact ⟨fun _ => exec_ex2, fun _ => exec_lg2, fun _ => exec_rcp, fun _ => exec_rsq, fun _ => exec_sqt, fun _ => exec_sin,
      fun _ => exec_cos, fun _ => exec_tanh, fun _ => exec_sigm, fun _ => exec_erf, List.forall_mem_nil _⟩
  case narrow =>
    revert r
    simp only [List.forall_mem_cons]
    exact ⟨fun _ => exec_nadd, fun _ => exec_nsub, fun _ => exec_nmul, fun _ => exec_nmin, fun _ => exec_nmax, List.forall_mem_nil _⟩

end Sys2Proof.Machine
end

section
/-!
THEOREM. The tile table and the lanes' accesses to tiles (R164 to R170, R175, R176, R451, R454, R456).
-/

namespace Sys2Proof.Machine

/-! ### The tile table -/

/-- A table holds what was last written at a number, when that is not the value an untouched table has. -/
theorem tblGet_tblSet_same {α : Type} [DecidableEq α] {d v : α} (hv : v ≠ d) (t : Tbl α) (k : Nat) : tblGet d (tblSet d t k v) k = v := by
  induction t with
  | nil => simp [tblSet, tblGet, hv]
  | cons y t ih =>
    obtain ⟨j, w⟩ := y
    rcases lt_trichotomy j k with h | rfl | h
    · simp [tblSet, tblGet, h.ne, Nat.not_lt.2 h.le, ih]
    · simp [tblSet, tblGet, hv]
    · simp [tblSet, tblGet, h.ne', h, hv]

theorem tile_setTile_same {e : Tile} (he : e ≠ tile0) (l : LCore) (h : Nat) : (l.setTile h e).tile h = e :=
  tblGet_tblSet_same he l.tiles h

/-- A permitted shape has a footprint (R164, R165). -/
theorem footprint_pos {w : Word} (h : shapeOk w = true) : 0 < footprint w := by
  simp only [shapeOk, Bool.and_eq_true, decide_eq_true_eq] at h
  obtain ⟨⟨-, hlen⟩, hrows⟩ := h
  have hrb : 1 ≤ shapeRB w := by unfold shapeRB; omega
  have hb : 1 ≤ shapeRows w * (shapeRB w + (shapeComp w + 31) / 32 * 32) := Nat.mul_pos hrows (by omega)
  unfold footprint
  omega

/-! ### TALLOC (R166 to R168, R451) -/

/-- An entry as it is after its grant: empty, under the next generation. -/
def Tile.granted (e : Tile) (grp level : Nat) (shape : Word) : Tile := ⟨.allocated, (e.gen + 1) % 4096, grp, level, shape, 0, 0, [], []⟩

theorem Tile.granted_ne (e : Tile) (grp level : Nat) (shape : Word) : e.granted grp level shape ≠ tile0 := by
  simp [Tile.granted, tile0]

/-- The table after entry `h` is granted: what this owner cycle wrote into the old tile is gone. -/
def LCore.grant (l : LCore) (grp level : Nat) (shape : Word) (h : Nat) : LCore :=
  LCore.setTile { l with tbuf := l.tbuf.filter fun w => w.tile != h } h ((l.tile h).granted grp level shape)

theorem tile_grant (l : LCore) (grp level : Nat) (shape : Word) (h : Nat) :
    (l.grant grp level shape h).tile h = (l.tile h).granted grp level shape :=
  tile_setTile_same (Tile.granted_ne _ _ _ _) _ _

/-- A tile of the shape fits the level and the group's quota (R166, R167). -/
structure LCore.Fits (l : LCore) (r : OwnerRec) (grp quota level : Nat) (shape : Word) : Prop where
  level : footprint shape ≤ levelCap r level - l.footprints (fun t => t.level == level)
  quota : l.footprints (fun t => t.grp == grp) + footprint shape ≤ quota

/-- What a TALLOC that does not wait answers: no tile, or the handle of an entry that was FREE and fits. -/
theorem tallocDecide_some {l l' : LCore} {r : OwnerRec} {grp quota level : Nat} {shape req v : Word}
    (h : tallocDecide l r grp quota level shape req = some (l', v)) : v = 0xFFFFFFFF ∨
    ∃ k < 4096, (l.tile k).st = .free ∧ l.Fits r grp quota level shape ∧ l' = l.grant grp level shape k ∧
      v = BitVec.ofNat 32 (((l.tile k).granted grp level shape).gen * 4096 + k) := by
  have taken {k : Nat} (hk : k < 4096) (hfree : (l.tile k).st = .free)
      (h : (if footprint shape > levelCap r level - l.footprints (fun t => t.level == level) ∨
          l.footprints (fun t => t.grp == grp) + footprint shape > quota then (l, 0xFFFFFFFF)
        else (l.grant grp level shape k, BitVec.ofNat 32 (((l.tile k).granted grp level shape).gen * 4096 + k))) = (l', v)) :
      v = 0xFFFFFFFF ∨ ∃ k < 4096, (l.tile k).st = .free ∧ l.Fits r grp quota level shape ∧ l' = l.grant grp level shape k ∧
        v = BitVec.ofNat 32 (((l.tile k).granted grp level shape).gen * 4096 + k) := by
    split at h
    · exact .inl (Prod.mk.inj h).2.symm
    · rename_i hfit
      obtain ⟨h1, h2⟩ := Prod.mk.inj h
      exact .inr ⟨k, hk, hfree, ⟨by omega, by omega⟩, h1.symm, h2.symm⟩
  unfold tallocDecide at h
  dsimp only at h
  split at h
  · split at h
    · cases h
    · exact .inl (Prod.mk.inj (Option.some.inj h)).2.symm
    · rename_i hfree
      exact taken (Nat.mod_lt _ (by decide)) hfree (Option.some.inj h)
  · split at h
    · rename_i k hk
      exact taken (List.mem_range.1 (List.mem_of_find?_eq_some hk)) (by simpa using List.find?_some hk) (Option.some.inj h)
    · exact .inl (Prod.mk.inj (Option.some.inj h)).2.symm

/-- Settles O21, from the one way in which a TALLOC answers with a handle. -/
theorem grantedTileWasFreeAndFits : Obligations.GrantedTileWasFreeAndFits := by
  unfold Obligations.GrantedTileWasFreeAndFits
  intro l l' r grp quota level shape req v hshape hd hv
  obtain ⟨k, hk, hfree, hfits, rfl, hvk⟩ := (tallocDecide_some hd).resolve_left hv
  have hgen : ((l.tile k).granted grp level shape).gen < 4096 := Nat.mod_lt _ (by decide)
  have hnum : v.toNat = ((l.tile k).granted grp level shape).gen * 4096 + k := by
    rw [hvk, BitVec.toNat_ofNat]
    exact Nat.mod_eq_of_lt (by omega)
  have hpos := footprint_pos hshape
  have hlevel := hfits.level
  have hk' : v.toNat % 4096 = k := by omega
  simp only [hk', tile_grant]
  exact ⟨hfree, rfl, rfl, rfl, rfl, by omega, fun comp off => by cases comp <;> rfl, by omega, hfits.quota⟩

/-- The field of a word from a bit upwards is 0 exactly when the word lies below that bit. -/
theorem field_top_eq_zero_iff {w : Word} {lo : Nat} (hlo : lo ≤ 31) : field w 31 lo = 0 ↔ w.toNat < 2 ^ lo := by
  have htop : w.toNat / 2 ^ lo < 2 ^ (31 + 1 - lo) := by
    rw [Nat.div_lt_iff_lt_mul (by positivity), ← pow_add, Nat.sub_add_cancel (by omega)]
    exact w.isLt
  rw [field, Nat.shiftRight_eq_div_pow, Nat.mod_eq_of_lt htop, Nat.div_eq_zero_iff]
  simp

/-- What TALLOC's own check refuses: a shape word that is not permitted, and a request beyond 13 bits (R164, R168). -/
theorem talloc_refused_iff {shape req : Word} :
    (!shapeOk shape || decide (field req 31 13 ≠ 0)) = true ↔ shapeOk shape = false ∨ 2 ^ 13 ≤ req.toNat := by
  rw [Bool.or_eq_true, Bool.not_eq_true', decide_eq_true_iff, ne_eq, field_top_eq_zero_iff (by decide), Nat.not_lt]

theorem talloc_accepted {shape req : Word} (hs : shapeOk shape = true) (hr : req.toNat < 2 ^ 13) :
    ¬ (!shapeOk shape || decide (field req 31 13 ≠ 0)) = true := by
  rw [talloc_refused_iff, hs]
  exact not_or.2 ⟨by decide, Nat.not_le.2 hr⟩

/-- Settles O20. -/
theorem tileTableInstructionsComplete : Obligations.TileTableInstructionsComplete := by
  unfold Obligations.TileTableInstructionsComplete
  intro x level l w g l' v e
  refine ⟨?_, ?_, ?_, ?_, ?_, ?_, ?_⟩
  · rintro s c hi ⟨⟨hs, hr, hl, hw, hg⟩, hd⟩
    simp only [exec_talloc, execTalloc, issueWith_issuing _ hi, if_neg (talloc_accepted hs hr), hl, hw, hg, hd]
    rfl
  · rintro s c hi ⟨⟨hs, hr, hl, hw, hg⟩, hd⟩
    simp only [exec_talloc, execTalloc, issueWith_issuing _ hi, if_neg (talloc_accepted hs hr), hl, hw, hg, hd]
    rfl
  · intro s c hi h
    simp only [exec_talloc, execTalloc, issueWith_issuing _ hi, if_pos (talloc_refused_iff.2 h)]
    rfl
  · rintro s c hi ⟨hl, he⟩
    simp only [exec_tfree, execTfree, issueWith_issuing _ hi, hl, he]
    rfl
  · rintro s c hi ⟨hl, he⟩
    simp only [exec_tfree, execTfree, issueWith_issuing _ hi, hl, he]
    rfl
  · rintro s c hi ⟨hl, he⟩
    simp only [exec_tinfo, execTinfo, issueWith_issuing _ hi, hl, he]
    rfl
  · rintro s c hi ⟨hl, he⟩
    simp only [exec_tinfo, execTinfo, issueWith_issuing _ hi, hl, he]
    rfl

/-! ### LDT and STT (R175, R176) -/

/-- Settles O22. -/
theorem tileLaneAccessesComplete : Obligations.TileLaneAccessesComplete := by
  unfold Obligations.TileLaneAccessesComplete
  intro x z l xs e
  refine ⟨?_, ?_, ?_, ?_⟩
  · rintro s c hi ⟨hl, ha⟩
    simp only [exec_ldt, execLdt, issueWith_issuing _ hi, hl, Size.bytes, ha]
    rfl
  · rintro s c hi ⟨hl, ha⟩
    simp only [exec_ldt, execLdt, issueWith_issuing _ hi, hl, Size.bytes, ha]
    rfl
  · rintro s c hi ⟨hl, ha⟩
    simp only [exec_stt, execStt, issueWith_issuing _ hi, hl, Size.bytes, ha]
    rfl
  · rintro s c hi ⟨hl, ha⟩
    simp only [exec_stt, execStt, issueWith_issuing _ hi, hl, Size.bytes, ha]
    rfl

end Sys2Proof.Machine
end

section
/-!
THEOREM. Batches, tags and barriers (R187 to R191, R364, R367, R370, R402, R448, R453, R459, R460).
-/

namespace Sys2Proof.Machine

/-! ### Logical cores after an update -/

theorem lcore?_key {s : State} {o n : Nat} {l : LCore} (h : s.lcore? o n = some l) : l.owner = o ∧ l.num = n := by
  simpa using List.find?_some h

theorem lcore?_modLcore_same {s : State} {o n : Nat} {f : LCore → LCore} {l : LCore} (hf : ∀ l, (f l).owner = l.owner ∧ (f l).num = l.num)
    (h : s.lcore? o n = some l) : (s.modLcore o n f).lcore? o n = some (f l) := by
  have hfind := find?_modWhere (l := s.lcores) (p := fun l => l.owner == o && l.num == n) (q := fun l => l.owner == o && l.num == n)
    (f := f) fun l => by rw [(hf l).1, (hf l).2]
  rw [State.lcore?, modLcore_lcores, hfind]
  rw [State.lcore?] at h
  obtain ⟨ho, hn⟩ := lcore?_key h
  simp [h, ho, hn]

/-- The use of a pipe or port changes only pipes and ports of a logical core (R44). -/
theorem lcore?_usePipe {s : State} {o n : Nat} {l : LCore} (h : s.lcore? o n = some l) (c : Cur) (cost : Nat) :
    ∃ p q r, (s.usePipe c cost).lcore? o n = some { l with ctl := p, port0 := q, port1 := r } := by
  unfold State.usePipe
  split
  · exact ⟨l.ctl, l.port0, l.port1, h⟩
  · rename_i tn _
    dsimp only
    simp only [State.lcore?, modLcore_lcores]
    rw [find?_modWhere fun l => by split <;> [rfl; split <;> rfl], ← State.lcore?, h, Option.map_some]
    split
    · split
      · exact ⟨_, l.port0, l.port1, rfl⟩
      · split
        · exact ⟨l.ctl, _, l.port1, rfl⟩
        · exact ⟨l.ctl, l.port0, _, rfl⟩
    · exact ⟨l.ctl, l.port0, l.port1, rfl⟩

/-- An issue leaves of a logical core all but its pipes and ports. -/
theorem lcore?_issued {s : State} {o n : Nat} {l : LCore} (h : s.lcore? o n = some l) (c : Ctx) (i : Instr) (cost : Nat) (lat : Option Nat)
    (ws : List (Nat × Nat × Word)) (dead : Bool) (pc : Option Word) :
    ∃ p q r, (s.issued c i cost lat ws dead pc).lcore? o n = some { l with ctl := p, port0 := q, port1 := r } :=
  lcore?_usePipe (s := s.retire c i s.nextId lat ws dead pc _) h _ _

/-! ### Batches and tags (R187 to R189) -/

theorem LCore.tagBusy_iff {l : LCore} {m : DWord} : l.tagBusy m = true ↔ ∃ g ∈ tagsOf m, (l.tag g).count ≠ 0 := by
  simp [LCore.tagBusy]

theorem LCore.tagBusy_eq_false_iff {l : LCore} {m : DWord} : l.tagBusy m = false ↔ ∀ g ∈ tagsOf m, (l.tag g).count = 0 := by
  simp [LCore.tagBusy]

/-- TWANY waits while no named tag is set and one of them has a copy in flight (R187). -/
theorem LCore.waitsAny_iff {l : LCore} {m : DWord} :
    l.waitsAny m = true ↔ (∀ g ∈ tagsOf m, (l.tag g).bit = false) ∧ ∃ g ∈ tagsOf m, (l.tag g).count ≠ 0 := by
  simp [LCore.waitsAny, LCore.tagBusy_iff, LCore.setTag]

theorem LCore.waitsAny_eq_false_iff {l : LCore} {m : DWord} :
    l.waitsAny m = false ↔ (∃ g ∈ tagsOf m, (l.tag g).bit = true) ∨ ∀ g ∈ tagsOf m, (l.tag g).count = 0 := by
  rw [← Bool.not_eq_true, LCore.waitsAny_iff, not_and_or]
  simp

/-- The shared issue of TWANY and TWALL in a logical core that is there. -/
theorem tagWait_issuing {s : State} {c : Ctx} {l : LCore} {i : Instr} {x : XOps} (waits : LCore → DWord → Bool)
    (pick : LCore → DWord → Option Nat) (hi : issuing s i 1 = some c) (hl : s.lcore? c.cur.strand.owner c.cur.strand.lcore = some l) :
    tagWait i x waits pick s = .next (if waits l (c.pair0 x.a) then s.waits c i [c.pair0 x.a]
      else s.issuedFill c i x.d (l.report (pick l (c.pair0 x.a)))) := by
  rw [tagWait, issueWith_issuing _ hi]
  simp only [hl]
  cases waits l (c.pair0 x.a) <;> rfl

/-- Settles O24. -/
theorem batchAndTagInstructionsComplete : Obligations.BatchAndTagInstructionsComplete := by
  unfold Obligations.BatchAndTagInstructionsComplete
  intro x l
  refine ⟨?_, ?_, ?_, ?_, ?_, ?_, ?_, ?_, ?_, rfl, fun _ => rfl⟩
  · intro s c hi _
    rw [exec_seal, execSeal, issueWith_issuing _ hi]
    rfl
  · intro s c hi hp
    simp only [exec_swait, execSwait, issueWith_issuing _ hi, hp]
    rfl
  · intro s c hi hp
    simp only [exec_swait, execSwait, issueWith_issuing _ hi, hp]
    rfl
  · rintro s c hi ⟨hl, hm⟩
    rw [exec_twany, execTwany, tagWait_issuing _ _ hi hl, LCore.waitsAny_eq_false_iff.2 hm]
    rfl
  · rintro s c hi ⟨hl, hm⟩
    rw [exec_twany, execTwany, tagWait_issuing _ _ hi hl, LCore.waitsAny_iff.2 hm]
    rfl
  · rintro s c hi ⟨hl, hm⟩
    rw [exec_twall, execTwall, tagWait_issuing _ _ hi hl, LCore.tagBusy_eq_false_iff.2 hm]
    rfl
  · rintro s c hi ⟨hl, hm⟩
    rw [exec_twall, execTwall, tagWait_issuing _ _ hi hl, LCore.tagBusy_iff.2 hm]
    rfl
  · intro s c hi hl
    simp only [exec_tfirst, execTfirst, issueWith_issuing _ hi, hl]
    rfl
  · intro s c hi _
    rw [exec_tclr, execTclr, issueWith_issuing _ hi]
    rfl

/-! ### Barriers (R190, R191, R364, R367, R370, R402) -/

/-- A BWAIT returns when the barrier expects none or is met (R190). -/
theorem Barrier.open_eq_false_iff {b : Barrier} : b.open_ = false ↔ b.expected = 0 ∨ b.expected.toNat ≤ b.arrived.toNat := by
  simp [Barrier.open_, BitVec.lt_def, ← or_iff_not_imp_left]

theorem Barrier.open_iff {b : Barrier} : b.open_ = true ↔ ¬ (b.expected = 0 ∨ b.expected.toNat ≤ b.arrived.toNat) := by
  rw [← Barrier.open_eq_false_iff, Bool.not_eq_false]

/-- A logical core after `n` arrivals on barrier `b`, with the horizon of their release: stale ones when the barrier expects none (R191, R364). -/
def LCore.barv (l : LCore) (b n : Nat) (h : Horizon) : LCore :=
  if (l.bar b).expected = 0 then l.setBar b { l.bar b with stale := satAdd (l.bar b).stale n }
  else { l.setBar b { l.bar b with arrived := satAdd (l.bar b).arrived n } with
    barHz := tblSet .none l.barHz b ((tblGet .none l.barHz b).join h) }

theorem LCore.barv_key (l : LCore) (b n : Nat) (h : Horizon) : (l.barv b n h).owner = l.owner ∧ (l.barv b n h).num = l.num := by
  unfold LCore.barv
  split <;> exact ⟨rfl, rfl⟩

theorem LCore.barv_stale {l : LCore} {b : Nat} (he : (l.bar b).expected = 0) (n : Nat) (h : Horizon) :
    (l.barv b n h).bars = tblSet bar0 l.bars b { l.bar b with stale := satAdd (l.bar b).stale n } := by
  rw [LCore.barv, if_pos he]
  rfl

theorem LCore.barv_arrived {l : LCore} {b : Nat} (he : (l.bar b).expected ≠ 0) (n : Nat) (h : Horizon) :
    (l.barv b n h).bars = tblSet bar0 l.bars b { l.bar b with arrived := satAdd (l.bar b).arrived n } := by
  rw [LCore.barv, if_neg he]
  rfl

theorem exec_barv_counts {s : State} {c : Ctx} {x : XOps} (hi : issuing s (.barv x) 1 = some c) (hb : (c.lane0 x.a).toNat ≤ 255) :
    exec (.barv x) s = .next ((s.modLcore c.cur.strand.owner c.cur.strand.lcore
      (·.barv (c.lane0 x.a).toNat (c.n0 x.b) (s.horizon c.cur.strand [8] s.nextId))).issuedPlain c (.barv x)) := by
  simp only [exec_barv, execBarv, issueWith_issuing _ hi, if_neg (Nat.not_lt.2 hb)]
  rfl

/-- What an instruction with its own effect sees passed the checks, and is not a control stream without a lane. -/
theorem issuing_inv {s : State} {i : Instr} {cost : Nat} {c : Ctx} (h : issuing s i cost = some c) :
    ∃ cur c0, s.cur = some cur ∧ ctxAt s cur = some c0 ∧ issueError c0 i = none ∧ c = c0.guarded (fieldsOf i).g ∧
      ¬ (c.isCtl = true ∧ c.lanes = []) := by
  unfold issuing at h
  obtain ⟨cur, hcur, h⟩ := Option.bind_eq_some_iff.1 h
  obtain ⟨c0, hc0, h⟩ := Option.bind_eq_some_iff.1 h
  dsimp only at h
  split_ifs at h with he hl
  obtain rfl := Option.some.inj h
  exact ⟨cur, c0, hcur, hc0, by simpa using he, rfl, by simpa using hl⟩

theorem guarded_t (c : Ctx) (g : Guard) : (c.guarded g).t = c.t := by
  unfold Ctx.guarded
  split
  · rfl
  · split <;> rfl

/-- GSYNC belongs to the control stream (R15, R402). -/
theorem isCtl_of_gsync {c : Ctx} {x : XOps} (h : issueError c (.gsync x) = none) : c.isCtl = true := by
  cases hc : c.isCtl with
  | true => rfl
  | false => rw [issueError_stream (by rw [hc]; rfl)] at h; cases h

theorem exec_gsync_issuing {s : State} {c : Ctx} {x : XOps} (hi : issuing s (.gsync x) 1 = some c) :
    exec (.gsync x) s = .next ((s.waits c (.gsync x) []).gsyncCheck c.t.grp) := by
  have hissue := issueWith_issuing (fun _ s => .wait s []) hi
  obtain ⟨cur, c0, hcur, hctx, he, rfl, hlanes⟩ := issuing_inv hi
  have hctl : (c0.guarded x.g).isCtl = true := by rw [Ctx.isCtl, guarded_cur]; exact isCtl_of_gsync he
  have hne : (c0.guarded x.g).lanes.isEmpty = false := List.isEmpty_eq_false_iff.2 fun h => hlanes ⟨hctl, h⟩
  simp only [exec_gsync, execGsync, hissue, effOutcome, hcur, Option.bind_some, hctx, he, hne, Option.isNone_none, Bool.not_false, Bool.and_self,
    if_true, guarded_t]

/-- Settles O25. -/
theorem barrierInstructionsComplete : Obligations.BarrierInstructionsComplete := by
  unfold Obligations.BarrierInstructionsComplete
  intro x l
  refine ⟨?_, ?_, ⟨?_, ?_⟩, ?_, fun s c hi _ => exec_gsync_issuing hi⟩
  · intro s c hi hb
    simp only [exec_binit, execBinit, issueWith_issuing _ hi, if_neg (Nat.not_lt.2 hb)]
    rfl
  · rintro s c hi ⟨hb, hl⟩
    obtain ⟨p, q, r, hq⟩ := lcore?_issued (lcore?_modLcore_same (LCore.barv_key · _ _ _) hl) c (.barv x) 1 none [] false none
    exact ⟨_, exec_barv_counts hi hb, _, hq, fun he => LCore.barv_stale he _ _, fun he => LCore.barv_arrived he _ _⟩
  · rintro s c hi ⟨hb, hl, hv⟩
    simp only [exec_bwait, execBwait, issueWith_issuing _ hi, if_neg (Nat.not_lt.2 hb), hl, Barrier.open_eq_false_iff.2 (hv.2 rfl)]
    rfl
  · rintro s c hi ⟨hb, hl, hv⟩
    simp only [exec_bwait, execBwait, issueWith_issuing _ hi, if_neg (Nat.not_lt.2 hb), hl, Barrier.open_iff.2 (mt hv.1 (by decide)), if_true]
    rfl
  · rintro i (rfl | rfl | rfl) s c hi hb
    · simp only [exec_binit, execBinit, issueWith_issuing _ hi, if_pos hb]
      rfl
    · simp only [exec_barv, execBarv, issueWith_issuing _ hi, if_pos hb]
      rfl
    · simp only [exec_bwait, execBwait, issueWith_issuing _ hi, if_pos hb]
      rfl

end Sys2Proof.Machine
end

section
/-!
THEOREM. Copies between two places in memory (R177 to R179, R187, R382).
-/

namespace Sys2Proof.Machine

theorem useAll_key (l : LCore) (ts : List Nat) : (l.useAll ts).owner = l.owner ∧ (l.useAll ts).num = l.num := by
  unfold LCore.useAll
  induction ts generalizing l with
  | nil => exact ⟨rfl, rfl⟩
  | cons t ts ih => exact ih (l.useTile t)

theorem useAll_useAll_key (l : LCore) (ts us : List Nat) :
    ((l.useAll ts).useAll us).owner = l.owner ∧ ((l.useAll ts).useAll us).num = l.num :=
  ⟨(useAll_key _ us).1.trans (useAll_key l ts).1, (useAll_key _ us).2.trans (useAll_key l ts).2⟩

/-- The windows that a request binds are all it changes of a logical core (R119). -/
theorem lcore?_bindFor {s : State} {o n : Nat} {l : LCore} (h : s.lcore? o n = some l) (m bytes : Nat) :
    ∃ w, (s.bindFor o n m bytes).lcore? o n = some { l with bound := w } := by
  unfold State.bindFor
  split
  · exact ⟨l.bound, h⟩
  · exact ⟨_, lcore?_modLcore_same (fun _ => ⟨rfl, rfl⟩) h⟩

section
variable {s : State} {c : Ctx} {a : Nat} {l : LCore} {ws wd : WinSlot}

/-- A record that breaks a rule of its own fields is an illegal encoding, before every other condition (R179). -/
theorem startCopy_illegal (hl : s.lcore? c.cur.strand.owner c.cur.strand.lcore = some l)
    (h : field (c.reg a 0) 31 24 ≠ 0 ∨ 5 < field (c.reg a 0) 2 0 ∨ 4 * field (c.reg (a + 5) 0) 31 16 = 0 ∨ field (c.reg (a + 5) 0) 15 0 = 0) :
    startCopy c a s = .trapAll 0x01 0x0E 0 := by
  simp only [startCopy, hl]
  refine if_pos ?_
  rcases h with h | h | h | h <;> simp [copyRec, h]

/-- A copy between two windows, with no follow-on, companion or sink, enters (R178, R179). -/
theorem startCopy_enters (hl : s.lcore? c.cur.strand.owner c.cur.strand.lcore = some l)
    (he : 4 * field (c.reg (a + 5) 0) 31 16 ≠ 0) (hr : field (c.reg (a + 5) 0) 15 0 ≠ 0)
    (hsz : field (c.reg (a + 5) 0) 15 0 * (4 * field (c.reg (a + 5) 0) 31 16) ≤ 0xFFFFFFFC)
    (h31 : field (c.reg a 0) 31 24 = 0) (hk : field (c.reg a 0) 2 0 = 2) (hfem : field (c.reg a 0) 11 10 ≠ 3)
    (h12 : (c.reg a 0).getLsbD 12 = false) (h23 : (c.reg a 0).getLsbD 23 = false)
    (hs : windowOf s c.t.grp c.now (c.reg (a + 1) 0) = some ws) (hd : windowOf s c.t.grp c.now (c.reg (a + 3) 0) = some wd)
    (hps : ws.page.kind ≠ 3) (hpd : wd.page.kind ≠ 3) (hal : ∀ k ∈ [2, 4, 6, 7], (c.reg (a + k) 0).toNat % 4 = 0) :
    ∃ (k : Copy) (s' : State), startCopy c a s = .plain s' ∧ s'.mem = s.mem ∧
      (∃ q, s'.lcore? c.cur.strand.owner c.cur.strand.lcore = some q ∧ q.copies = l.copies ++ [k]) ∧
      k.id = s.nextId ∧ k.strand = c.cur.strand ∧ k.kind = 2 ∧ k.tag = field (c.reg a 0) 8 3 ∧
      k.rows = field (c.reg (a + 5) 0) 15 0 ∧ k.rowBytes = 4 * field (c.reg (a + 5) 0) 31 16 ∧
      k.src = .mem (ws.base + (c.reg (a + 2) 0).toNat) ws.page (c.reg (a + 6) 0).toNat ∧
      k.dst = .mem (wd.base + (c.reg (a + 4) 0).toNat) wd.page (c.reg (a + 7) 0).toNat := by
  have hst : srcTile 2 = false := rfl
  have hdt : dstTile 2 = false := rfl
  have hps : (ws.page.kind == 3) = false := by simpa using hps
  have hpd : (wd.page.kind == 3) = false := by simpa using hpd
  have hsz := Nat.not_lt.2 hsz
  simp only [List.forall_mem_cons] at hal
  obtain ⟨h2, h4, h6, h7, -⟩ := hal
  simp only [startCopy, hl, copyRec, Nat.add_zero, h31, hk, hfem, h12, h23, hst, hdt, he, hr, hs, hd, hps, hpd, hsz, h2, h4, h6, h7, ne_eq,
    not_true, decide_false, Bool.false_eq_true, Bool.false_and, Bool.and_false, Bool.or_false, if_false, List.nil_append,
    List.append_nil, List.cons_append, List.find?_cons, List.find?_nil, Option.isNone_some, firstSome, followOp, Option.bind_none,
    Option.getD_some, Nat.reduceLT, bne_self_eq_false, Nat.reduceBEq, reduceCtorEq, Nat.reduceEqDiff]
  obtain ⟨w, hw⟩ := lcore?_bindFor hl c.now (field (c.reg (a + 5) 0) 15 0 * (4 * field (c.reg (a + 5) 0) 31 16))
  exact ⟨_, _, rfl, bindFor_mem _ _ _ _ _, ⟨_, lcore?_modLcore_same (fun l => useAll_useAll_key l _ _) hw, rfl⟩,
    rfl, rfl, rfl, rfl, rfl, rfl, rfl, rfl⟩

end

/-- Settles O23. -/
theorem copyInstructionsComplete : Obligations.CopyInstructionsComplete := by
  unfold Obligations.CopyInstructionsComplete
  intro x n l ws wd hx
  have hnum : regNum x.a = n := by rw [hx]; rfl
  refine ⟨?_, ?_⟩
  · rintro s c hi ⟨hl, ⟨he, hr, hsz⟩, h31, hk, hfem, h12, h23, hs, hd, hps, hpd, hal⟩
    obtain ⟨k, u, hu, hmem, ⟨q, hq, hcopies⟩, hk⟩ := startCopy_enters hl he hr hsz h31 hk hfem h12 h23 hs hd hps hpd hal
    obtain ⟨p0, p1, p2, hlc⟩ := lcore?_issued hq c (.cpy x) 1 none [] false none
    refine ⟨u.issuedPlain c (.cpy x), ?_, State.Keeps.issued.mem.trans hmem, _, k, hlc, hcopies, hk⟩
    rw [exec_cpy, execCpy, issueWith_issuing _ hi, hnum, hu]
    rfl
  · rintro s c hi ⟨hl, h⟩
    rw [exec_cpy, execCpy, issueWith_issuing _ hi, hnum, startCopy_illegal (a := n) hl h]
    rfl

end Sys2Proof.Machine
end

section
/-!
THEOREM. The instructions of the matrix array at issue (R195 to R202, R417, R420, R422).
-/

namespace Sys2Proof.Machine

/-! ### The fields of a command's own -/

theorem badM_none {c : Ctx} {m : Src} (h : 1 ≤ c.n0 m ∧ c.n0 m ≤ 4095) : badM c m = none := if_neg (by omega)

theorem badM_some {c : Ctx} {m : Src} (h : c.n0 m = 0 ∨ 4095 < c.n0 m) : badM c m = some (0x01, 0x0E, 0) := if_pos h

/-- Register rows that end at or below the strand's count are in range (R417). -/
theorem rangeFault_none {α : Type} {b : Bool} {n top : Nat} {e : α} (h : top ≤ n) : (if b && decide (n < top) then some e else none) = none := by
  simp [Nat.not_lt.2 h]

/-! ### The shared issue of a MAT command -/

section
variable {s : State} {c : Ctx} {i : Instr} {own : Ctx → Option (Nat × Nat × DWord)} {op : Ctx → MatOp} {joins : Bool} {l : LCore}
  {e : Nat × Nat × DWord} (hi : issuing s i 1 = some c) (hl : s.lcore? c.cur.strand.owner c.cur.strand.lcore = some l)
include hi hl

/-- Without an ARR position a command traps before anything else is looked at (R417). -/
theorem issueMat_noArr (ha : s.hasArr c.cur.strand.owner c.cur.strand.lcore = false) :
    issueMat i own op joins s = effOutcome i 1 c s (.trapAll 0x09 0 0) := by
  simp only [issueMat, issueWith_issuing _ hi, hl, ha, Bool.not_false, if_true]

variable (ha : s.hasArr c.cur.strand.owner c.cur.strand.lcore = true)
include ha

/-- A command whose own fields are at fault traps before the checks of its tiles (R417). -/
theorem issueMat_ownFault (ho : own c = some e) : issueMat i own op joins s = effOutcome i 1 c s (.trapAll e.1 e.2.1 e.2.2) := by
  simp only [issueMat, issueWith_issuing _ hi, hl, ha, ho, Bool.not_true, Bool.false_eq_true, if_false]

theorem issueMat_checkFault (ho : own c = none) (hm : matCheck l c.t.grp c.now l.latchAhead (op c) = some e) :
    issueMat i own op joins s = effOutcome i 1 c s (.trapAll e.1 e.2.1 e.2.2) := by
  simp only [issueMat, issueWith_issuing _ hi, hl, ha, ho, hm, Bool.not_true, Bool.false_eq_true, if_false]

theorem issueMat_enters (ho : own c = none) (hm : matCheck l c.t.grp c.now l.latchAhead (op c) = none) :
    issueMat i own op joins s = effOutcome i 1 c s (.plain (s.enterMat c (op c) none (if joins then some c.t.batch.toNat else none))) := by
  simp only [issueMat, issueWith_issuing _ hi, hl, ha, ho, hm, Bool.not_true, Bool.false_eq_true, if_false]

end

/-- A command whose own fields are in order where `P` holds enters array order, or takes the trap of the first failing check (R417). -/
theorem enters_of_issueMat {i : Instr} {own : Ctx → Option (Nat × Nat × DWord)} {op : Ctx → MatOp} {joins : Bool} {l : LCore}
    {e : Nat × Nat × DWord} {P : Ctx → Prop} {mop : Ctx → MatOp} (hx : ∀ s, exec i s = issueMat i own op joins s)
    (ho : ∀ c, P c → own c = none ∧ op c = mop c) :
    Completes i 1 (fun c s => P c ∧ (s.lcore? c.cur.strand.owner c.cur.strand.lcore = some l ∧
        s.hasArr c.cur.strand.owner c.cur.strand.lcore = true) ∧ matCheck l c.t.grp c.now l.latchAhead (mop c) = none)
      (fun c s => (s.enterMat c (mop c) none (if joins then some c.t.batch.toNat else none)).issuedPlain c i) ∧
    Traps i 1 (fun c s => P c ∧ (s.lcore? c.cur.strand.owner c.cur.strand.lcore = some l ∧
        s.hasArr c.cur.strand.owner c.cur.strand.lcore = true) ∧ matCheck l c.t.grp c.now l.latchAhead (mop c) = some e)
      e.1 e.2.1 (fun _ _ => e.2.2) := by
  constructor
  · rintro s c hi ⟨hp, ⟨hl, ha⟩, hm⟩
    obtain ⟨hown, hop⟩ := ho c hp
    rw [← hop] at hm
    simp only [hx, issueMat_enters hi hl ha hown hm, hop]
    rfl
  · rintro s c hi ⟨hp, ⟨hl, ha⟩, hm⟩
    obtain ⟨hown, hop⟩ := ho c hp
    rw [← hop] at hm
    exact (hx s).trans (issueMat_checkFault hi hl ha hown hm)

section
variable {i : Instr} {own : Ctx → Option (Nat × Nat × DWord)} {op : Ctx → MatOp} {joins : Bool} {l : LCore}
  (hx : ∀ s, exec i s = issueMat i own op joins s)
include hx

theorem traps_noArr_of_issueMat : Traps i 1 (fun c s => s.lcore? c.cur.strand.owner c.cur.strand.lcore = some l ∧
    s.hasArr c.cur.strand.owner c.cur.strand.lcore = false) 0x09 0 fun _ _ => 0 :=
  fun s _ hi ⟨hl, ha⟩ => (hx s).trans (issueMat_noArr hi hl ha)

/-- A count M outside 1 to 4,095 is an illegal instruction (R197 to R199). -/
theorem traps_badM_of_issueMat {m : Src} (ho : ∀ c, badM c m = some (0x01, 0x0E, 0) → own c = some (0x01, 0x0E, 0)) :
    Traps i 1 (fun c s => (s.lcore? c.cur.strand.owner c.cur.strand.lcore = some l ∧
      s.hasArr c.cur.strand.owner c.cur.strand.lcore = true) ∧ (c.n0 m = 0 ∨ 4095 < c.n0 m)) 0x01 0x0E fun _ _ => 0 := by
  rintro s c hi ⟨⟨hl, ha⟩, hm⟩
  rw [hx, issueMat_ownFault hi hl ha (ho c (badM_some hm))]
  rfl

end

/-! ### MSTAT (R201) -/

/-- The first step of an MTILE in array order that has not started, if one is left. -/
def MatCmd.stepLeft (y : MatCmd) : Option Nat :=
  y.macro_.bind fun r => if y.out = none then some r.2 else if r.2 + 1 < r.1.steps then some (r.2 + 1) else none

theorem MatCmd.stepLeft_eq (y : MatCmd) : y.stepLeft = match y.macro_ with
    | some (r, k) => if y.out.isNone then some k else if k + 1 < r.steps then some (k + 1) else none
    | none => none := by
  cases hm : y.macro_ <;> simp [MatCmd.stepLeft, hm]

/-- What MSTAT reports of the latched weights and codebook. -/
def LCore.latchStatus (l : LCore) : Nat :=
  (match l.latch with
    | some w => w.ty * 256 + 128 + (if w.mx then 64 else 0) + if w.t then 32 else 0
    | none => 0) + if l.codebook.isSome then 16 else 0

/-- What MSTAT reports in an owner with an ARR position. -/
def LCore.matStatus (l : LCore) : List Word :=
  [BitVec.ofNat 32 (l.latchStatus + (if l.mats = [] then 0 else 8) + if (l.mats.findSome? MatCmd.stepLeft).isSome then 4 else 0),
    BitVec.ofNat 32 ((l.mats.findSome? MatCmd.stepLeft).getD 0)]

section
variable {s : State} {c : Ctx} {x : XOps} {l : LCore} (hi : issuing s (.mstat x) 1 = some c)
  (hl : s.lcore? c.cur.strand.owner c.cur.strand.lcore = some l)
include hi hl

theorem exec_mstat_noArr (ha : s.hasArr c.cur.strand.owner c.cur.strand.lcore = false) :
    exec (.mstat x) s = .next (s.issuedFill c (.mstat x) x.d [0, 0]) := by
  simp only [exec_mstat, execMstat, issueWith_issuing _ hi, hl, ha, Bool.false_eq_true, if_false]
  rfl

theorem exec_mstat_arr (ha : s.hasArr c.cur.strand.owner c.cur.strand.lcore = true) :
    exec (.mstat x) s = .next (s.issuedFill c (.mstat x) x.d l.matStatus) := by
  have hleft : MatCmd.stepLeft = _ := funext MatCmd.stepLeft_eq
  have hempty : (if (!l.mats.isEmpty) = true then 2 ^ 3 else 0) = if l.mats = [] then 0 else 8 := by
    cases l.mats <;> rfl
  simp only [exec_mstat, execMstat, issueWith_issuing _ hi, hl, ha, if_true, LCore.matStatus, hleft, hempty]
  rfl

end

/-- Settles O26. -/
theorem matrixInstructionsComplete : Obligations.MatrixInstructionsComplete := by
  unfold Obligations.MatrixInstructionsComplete
  intro x ty t start kind seglen l e
  have hmstr (reg : Bool) : ∀ s, exec (.mstr x ty start reg) s = _ := fun _ => exec_mstr.trans (execMstr.eq_def ..)
  have hmcon (kind : ConKind) : ∀ s, exec (.mcon x ty start kind seglen) s = _ := fun _ => exec_mcon.trans (execMcon.eq_def ..)
  have hmwld : ∀ s, exec (.mwld x ty t) s = _ := fun _ => exec_mwld.trans (execMwld.eq_def ..)
  have hmclose : ∀ s, exec (.mclose x) s = _ := fun _ => exec_mclose.trans (execMclose.eq_def ..)
  have hcbld : ∀ s, exec (.cbld x) s = _ := fun _ => exec_cbld.trans (execCbld.eq_def ..)
  refine ⟨?mwld, ?mstr, ?mstrReg, ?mcon, ?mconPerm, ?mclose, ?cbld, ?mtile, ?mstatNoArr, ?badM,
    ⟨?idle, ?allStarted, ?stepLeft⟩, ?mstatAnswers, ?noArr⟩
  case mwld => exact enters_of_issueMat hmwld fun _ _ => ⟨rfl, rfl⟩
  case cbld => exact enters_of_issueMat hcbld fun _ _ => ⟨rfl, rfl⟩
  case mclose => exact enters_of_issueMat hmclose fun _ h => ⟨badM_none h, rfl⟩
  case mstr =>
    refine enters_of_issueMat (hmstr false) fun c h => ?_
    rw [badM_none h]
    exact ⟨rfl, rfl⟩
  case mstrReg =>
    intro n hn
    refine enters_of_issueMat (hmstr true) fun c ⟨h0, h1, hr⟩ => ?_
    rw [hn, badM_none ⟨h0, h1⟩]
    exact ⟨rangeFault_none hr, rfl⟩
  case mcon =>
    refine enters_of_issueMat (hmcon kind) fun c ⟨h0, h1, hk⟩ => ?_
    dsimp only
    rw [badM_none ⟨h0, h1⟩, if_neg hk, beq_eq_false_iff_ne.2 hk]
    exact ⟨rfl, rfl⟩
  case mconPerm =>
    intro n hn
    refine enters_of_issueMat (hmcon .perm) fun c ⟨h0, h1, hr⟩ => ?_
    rw [hn, badM_none ⟨h0, h1⟩]
    exact ⟨rangeFault_none hr, rfl⟩
  case mtile =>
    rintro n r hn s c hi ⟨⟨hl, ha⟩, hr, hm⟩
    have hreg : regNum x.a = n := by rw [hn]; rfl
    simp only [exec_mtile, execMtile, issueWith_issuing _ hi, hl, ha, hreg, hr, hm, Bool.not_true, Bool.false_eq_true, if_false]
    rfl
  case mstatNoArr => exact fun s c hi ⟨hl, ha⟩ => exec_mstat_noArr hi hl ha
  case idle =>
    rintro s c hi ⟨⟨hl, ha⟩, hm⟩
    rw [exec_mstat_arr hi hl ha, LCore.matStatus, hm]
    rfl
  case allStarted =>
    rintro s c hi ⟨⟨hl, ha⟩, hm, hnone⟩
    rw [exec_mstat_arr hi hl ha, LCore.matStatus, (List.findSome?_eq_none_iff (p := MatCmd.stepLeft)).2 hnone, if_neg hm]
    rfl
  case stepLeft =>
    rintro pre y post n hm hpre hy s c hi ⟨hl, ha⟩
    have hsome : l.mats.findSome? MatCmd.stepLeft = some n := by
      rw [hm, List.findSome?_append, (List.findSome?_eq_none_iff (p := MatCmd.stepLeft)).2 hpre, Option.none_or, List.findSome?_cons]
      rw [show y.stepLeft = some n from hy]
    rw [exec_mstat_arr hi hl ha, LCore.matStatus, hsome, if_neg (by rw [hm]; simp)]
    rfl
  case mstatAnswers => exact fun s c hi ⟨hl, ha⟩ => ⟨_, exec_mstat_arr hi hl ha, l.matStatus, rfl, rfl⟩
  case badM =>
    simp only [List.forall_mem_cons, List.not_mem_nil, false_imp_iff, implies_true, and_true]
    exact ⟨traps_badM_of_issueMat (hmstr false) fun c h => by rw [h], traps_badM_of_issueMat (hmstr true) fun c h => by rw [h],
      traps_badM_of_issueMat (hmcon kind) fun c h => by rw [h], traps_badM_of_issueMat hmclose fun c h => h⟩
  case noArr =>
    simp only [List.forall_mem_cons, List.not_mem_nil, false_imp_iff, implies_true, and_true]
    refine ⟨traps_noArr_of_issueMat hmwld, traps_noArr_of_issueMat (hmstr false), traps_noArr_of_issueMat (hmstr true),
      traps_noArr_of_issueMat (hmcon kind), traps_noArr_of_issueMat hmclose, traps_noArr_of_issueMat hcbld, ?_⟩
    rintro s c hi ⟨hl, ha⟩
    simp only [exec_mtile, execMtile, issueWith_issuing _ hi, hl, ha, Bool.not_false, if_true]
    rfl

end Sys2Proof.Machine
end

section
/-!
THEOREM. The steps of tiles, copies, array commands and of the waits on them (R169, R180 to R191, R192, R195, R364, R402, R451).
-/

namespace Sys2Proof.Machine

section
variable {s : State}

/-! ### Tiles (R169, R451) -/

theorem exec_tileDrainComplete_due {o lc h : Nat} {l : LCore} (hl : s.lcore? o lc = some l) (hd : (l.tile h).st = .draining)
    (hu : (l.tile h).uses = 0) : exec (.tileDrainComplete o lc h) s =
      .next (s.modLcore o lc fun q => q.setTile h ⟨.free, (l.tile h).gen, 0, 0, 0, 0, 0, [], []⟩) := by
  simp only [exec_tileDrainComplete, execTileDrainComplete, hl, hd, hu, and_self, if_true]
  rfl

theorem exec_tallocPickGrant_granted {i : StrandId} {x : XOps} {level : TLevel} {id n : Nat} {a b : DWord} {t : Strand} {l l' : LCore}
    {w : Owner} {g : Group} {v : Word} (hwait : waitOf s ⟨i, none⟩ = some ⟨.talloc x level, id, [a, b], n⟩) (ht : s.strand? i = some t)
    (hl : s.lcore? i.owner i.lcore = some l) (hw : s.owner? i.owner = some w) (hg : s.group? t.grp = some g)
    (hd : tallocDecide l w.orec g.id g.quota level.code a.lo b.lo = some (l', v)) : exec (.tallocPickGrant i) s =
      .next ((s.modLcore i.owner i.lcore fun _ => l').complete ⟨i, none⟩ (some 4) fun c => c.fill x.d [v]) := by
  simp only [exec_tallocPickGrant, execTallocPickGrant, hwait, ht, hl, hw, hg, hd]

/-! ### Copies (R180, R181, R185) -/

theorem exec_copyUnitLands_due {id due : Nat} {l : LCore} {c : Copy} {s' : State} (hc : s.copy? id = some (l, c))
    (hsend : c.sendsRead s l (s.lcNow l.owner l.num) = false) (hland : l.landing c = some due) (hdue : due ≤ s.lcNow l.owner l.num)
    (he : c.ended = false) (hw : c.waits = false) (hn : c.need = 0) (hok : landUnit s l c (s.lcNow l.owner l.num) = .ok s') :
    exec (.copyUnitLands id) s = .next s' := by
  simp only [exec_copyUnitLands, execCopyUnitLands, hc, hsend, hland, he, hw, hn, hok, Nat.not_lt.2 hdue, Bool.false_eq_true, ne_eq,
    not_true, or_self, if_false]

theorem exec_copyPageGranted_due {id : Nat} {l : LCore} {c : Copy} (hc : s.copy? id = some (l, c)) (he : c.ended = false)
    (hw : c.waits = true) (hp : ∀ va, landUnit s l c (s.lcNow l.owner l.num) ≠ .error (.wait va)) : exec (.copyPageGranted id) s =
      .next (s.modCopy l id fun c => { c with waits := false, base := some (max (s.lcNow l.owner l.num + 400) c.landed, c.moved) }) := by
  simp only [exec_copyPageGranted, execCopyPageGranted, hc]
  refine if_neg ?_
  rintro (h | h | h)
  · exact absurd (he.symm.trans h) (by decide)
  · exact h hw
  · exact absurd h (by decide)

theorem exec_copyComplete_ended {id : Nat} {l : LCore} {c : Copy} (hc : s.copy? id = some (l, c)) (he : c.ended = true) :
    exec (.copyComplete id) s = .next ((s.modLcore l.owner l.num fun l => l.endCopy c (s.lcNow l.owner l.num)
      (((s.strand? c.strand).map (·.batch.toNat)).getD 0) s.nextId).closeTransfer id).fresh := by
  simp only [exec_copyComplete, execCopyComplete, hc, he, not_true, if_false]

/-! ### Array order (R192, R195) -/

/-- The logical core whose latched state has come into the bank for a command (R192). -/
def State.banked (s : State) (l : LCore) : LCore := ((s.bankIn l).lcore? l.owner l.num).getD l

theorem exec_matCommandStart_due {id : Nat} {l : LCore} {k : MatCmd} {ks : List MatCmd} (hl : s.matOwner? id = some l) (hm : l.mats = k :: ks)
    (hid : k.id = id) (hout : k.out = none) (htag : k.tag = none) (hdue : max (k.entered + matLead k.op) l.matEnd ≤ s.lcNow l.owner l.num) :
    exec (.matCommandStart id) s = .next ((s.bankIn l).modLcore (s.banked l).owner (s.banked l).num fun q => { q with
      mats := modWhere q.mats (fun y => y.id == id) fun _ => { k with
        out := some (matCompute (s.banked l) k.grp k.op)
        ends := s.lcNow l.owner l.num + matOcc (((s.banked l).latch.map (·.ty)).getD 0) k.op } }) := by
  have hstart : ¬ s.lcNow l.owner l.num < l.matStart k := Nat.not_lt.2 hdue
  simp only [exec_matCommandStart, execMatCommandStart, hl, hm, hid, hout, htag, hstart, ne_eq, not_true, Option.isSome_none, Bool.false_eq_true,
    or_self, if_false]
  rfl

/-- What an ended command writes: chains into tiles, or what it latches (R195). -/
def MatOut.put (out : MatOut) (l : LCore) : LCore :=
  match out with
  | .writes ws => { l with tbuf := l.tbuf ++ ws }
  | .latch y => { l with latch := some y }
  | .codebook cb => { l with codebook := some cb }

theorem exec_matCommandEnd_due {id : Nat} {l : LCore} {k : MatCmd} {out : MatOut} (hl : s.matOwner? id = some l)
    (hk : (l.mats.find? fun m => m.id == id) = some k) (hout : k.out = some out) (hdue : k.ends ≤ s.lcNow l.owner l.num)
    (hmac : k.macro_ = none) (htag : k.tag = none) : exec (.matCommandEnd id) s =
      .next (s.modLcore l.owner l.num fun q => (out.put q).leaveMat k (s.lcNow l.owner l.num)) := by
  simp only [exec_matCommandEnd, execMatCommandEnd, hl, hk, hout, hmac, htag, Nat.not_lt.2 hdue, if_false]
  rfl

/-! ### The waits of TWANY, TWALL, SWAIT and BWAIT (R187 to R190, R364) -/

theorem exec_twanyReturn_ready {i : StrandId} {x : XOps} {id n : Nat} {m : DWord} {l : LCore}
    (hwait : waitOf s ⟨i, none⟩ = some ⟨.twany x, id, [m], n⟩) (hl : s.lcore? i.owner i.lcore = some l)
    (hr : (∃ g ∈ tagsOf m, (l.tag g).bit = true) ∨ ∀ g ∈ tagsOf m, (l.tag g).count = 0) : exec (.twanyReturn i) s =
      .next (s.complete ⟨i, none⟩ (some 4) fun c => c.fill x.d (l.report ((tagsOf m).find? fun g => (l.tag g).bit))) := by
  simp only [exec_twanyReturn, execTwanyReturn, hwait, hl, LCore.waitsAny_eq_false_iff.2 hr, Bool.false_eq_true, if_false]
  rfl

theorem exec_twallReturn_ready {i : StrandId} {x : XOps} {id n : Nat} {m : DWord} {l : LCore}
    (hwait : waitOf s ⟨i, none⟩ = some ⟨.twall x, id, [m], n⟩) (hl : s.lcore? i.owner i.lcore = some l)
    (hr : ∀ g ∈ tagsOf m, (l.tag g).count = 0) : exec (.twallReturn i) s =
      .next (s.complete ⟨i, none⟩ (some 4) fun c => c.fill x.d (l.report ((tagsOf m).find? fun g => (l.tag g).code != 0))) := by
  simp only [exec_twallReturn, execTwallReturn, hwait, hl, LCore.tagBusy_eq_false_iff.2 hr, Bool.false_eq_true, if_false]
  rfl

theorem exec_swaitComplete_ready {i : StrandId} {x : XOps} {id n : Nat} {m : DWord} {t : Strand}
    (hwait : waitOf s ⟨i, none⟩ = some ⟨.swait x, id, [m], n⟩) (ht : s.strand? i = some t) (hp : swaitPending s t m.lo = false) :
    exec (.swaitComplete i) s = .next (s.complete ⟨i, none⟩ none fun _ => []) := by
  simp only [exec_swaitComplete, execSwaitComplete, hwait, ht, hp, Bool.false_eq_true, if_false]

theorem exec_bwaitRelease_ready {i : StrandId} {x : XOps} {id n : Nat} {m : DWord} {l : LCore}
    (hwait : waitOf s ⟨i, none⟩ = some ⟨.bwait x, id, [m], n⟩) (hl : s.lcore? i.owner i.lcore = some l)
    (hr : (l.settleBars.bar m.toNat).expected = 0 ∨ (l.settleBars.bar m.toNat).expected.toNat ≤ (l.settleBars.bar m.toNat).arrived.toNat) :
    exec (.bwaitRelease i) s = .next (barAcquire ((s.modLcore i.owner i.lcore fun _ => (l.settleBars.takeBar m.toNat).2).complete ⟨i, none⟩
      (some 4) fun c => c.fill x.d (l.settleBars.takeBar m.toNat).1) ⟨i, none⟩ l.settleBars m.toNat) := by
  simp only [exec_bwaitRelease, execBwaitRelease, hwait, hl, Barrier.open_eq_false_iff.2 hr, Bool.false_eq_true, if_false]

/-! ### GSYNC (R191, R402) -/

theorem complete_strands (cur : Cur) (lat : Option Nat) (f : Ctx → List (Nat × Nat × Word)) :
    ∃ ts, s.complete cur lat f = { s with strands := ts } := by
  unfold State.complete
  split
  · exact ⟨s.strands, rfl⟩
  · split
    · exact ⟨s.strands, rfl⟩
    · exact ⟨_, rfl⟩

/-- A control stream that waits in GSYNC goes on in owner cycle `now`, with the horizon of the whole group. -/
theorem gsyncResume_strands (h : Horizon) (now : Nat) (s : State) (w : StrandId × Nat) :
    ∃ ts, (s.complete ⟨w.1, none⟩ none fun _ => []).modStream ⟨w.1, none⟩ (fun y => { y.takeHz [8] h with ready := now, stood := now }) =
      { s with strands := ts } := by
  obtain ⟨us, hus⟩ := complete_strands (s := s) ⟨w.1, none⟩ none fun _ => []
  exact ⟨_, by rw [hus]; rfl⟩

/-- At the end of a GSYNC the group's streams go on: nothing but strands and the group changes. -/
theorem exec_gsyncComplete_due {h due : Nat} {g : Group} (hg : s.group? h = some g) (hgs : g.gsDue = some due)
    (hdue : due ≤ s.lcNow g.owner g.lcore) :
    ∃ ts, exec (.gsyncComplete h) s = .next { s.modGroup h fun x => { x with gsDue := none } with strands := ts } := by
  simp only [exec_gsyncComplete, execGsyncComplete, hg, hgs, Nat.not_lt.2 hdue, if_false]
  exact (foldl_strands (gsyncResume_strands _ _) _ _).imp fun _ hts => congrArg Host.Outcome.next hts

end

/-- Settles O37: one lemma to a row, and the frame of GSYNC's end. -/
theorem tileCopyMatrixAndWaitSteps : Obligations.TileCopyMatrixAndWaitSteps := by
  unfold Obligations.TileCopyMatrixAndWaitSteps
  intro o lc h id due n i t l l' w g x level c a b m v k ks out s'
  refine ⟨fun s ⟨hl, hd, hu⟩ => exec_tileDrainComplete_due hl hd hu,
    fun s ⟨hwait, ht, hl, hw, hg, hd⟩ => exec_tallocPickGrant_granted hwait ht hl hw hg hd,
    fun s ⟨hc, hsend, hland, hdue, he, hw, hn, hok⟩ => exec_copyUnitLands_due hc hsend hland hdue he hw hn hok,
    fun s ⟨hc, he, hw, hp⟩ => exec_copyPageGranted_due hc he hw hp, fun s ⟨hc, he⟩ => exec_copyComplete_ended hc he, ?matStart, ?matEnd,
    fun s ⟨hwait, hl, hr⟩ => exec_twanyReturn_ready hwait hl hr, fun s ⟨hwait, hl, hr⟩ => exec_twallReturn_ready hwait hl hr,
    fun s ⟨hwait, ht, hp⟩ => exec_swaitComplete_ready hwait ht hp, fun s ⟨hwait, hl, hr⟩ => ⟨_, exec_bwaitRelease_ready hwait hl hr, rfl⟩, ?gsync⟩
  case matStart =>
    rintro s ⟨hl, hm, hid, hout, htag, hdue, hbank⟩
    have hbanked : s.banked l = l' := by rw [State.banked, hbank]; rfl
    obtain ⟨ho, hn⟩ := lcore?_key hbank
    rw [exec_matCommandStart_due hl hm hid hout htag hdue, hbanked, ho, hn]
  case matEnd =>
    rintro s ⟨hl, hk, hout, hdue, hmac, htag⟩
    rw [exec_matCommandEnd_due hl hk hout hdue hmac htag]
    rfl
  case gsync =>
    rintro s ⟨hg, hgs, hdue⟩
    obtain ⟨ts, hts⟩ := exec_gsyncComplete_due hg hgs hdue
    exact ⟨_, hts, rfl, rfl, rfl, rfl⟩

end Sys2Proof.Machine
end

section
/-!
THEOREM. Each step of memory accesses, clause arrays, launches, joins, cancels, traps, images and transfers, each event and each command completes
where it is due (R208 to R228, R256 to R268, R276 to R296, R300 to R356).
-/

namespace Sys2Proof.Machine

section
variable {s : State}

/-! ### Memory accesses (R208, R213, R217, R221 to R225) -/

section
variable {id lane : Nat} {a : Acc} {l : LaneAcc} (ha : (s.accs.find? fun a => a.id == id) = some a)
include ha

omit ha in
/-- A lane that must act and may is among those that act next. -/
theorem lanesDue_ne_nil (hw : actsWhole a.instr = false) (hl : l ∈ a.lanes) (ht : l.st = .todo) (hd : l.due ≤ a.now s)
    (hf : s.laneFree a l = true) : (s.lanesDue a (a.now s)).isEmpty = false := by
  have hcan : (a.lanes.find? fun l => l.st == .todo && decide (l.due ≤ a.now s) && s.laneFree a l).isSome = true :=
    List.find?_isSome.2 ⟨l, hl, by simp [ht, hd, hf]⟩
  obtain ⟨m, hm⟩ := Option.isSome_iff_exists.1 hcan
  simp only [State.lanesDue, hw, Bool.false_eq_true, if_false, hm]
  rfl

/-- A lane of a memory access acts once it is due and free of the accesses before it. -/
theorem exec_memoryAccessAct_due (hi : isMemory a.instr = true) (hn : a.need = 0) (hw : s.accWaits a = false)
    (hfe : ∀ x m, a.instr ≠ .feset x m) (hl : l ∈ a.lanes) (ht : l.st = .todo) (hd : l.due ≤ a.now s) (hf : s.laneFree a l = true) :
    ∃ t, exec (.memoryAccessAct id) s = .next t := by
  have hwhole : actsWhole a.instr = false := by
    unfold actsWhole
    split
    · next h => exact absurd h (hfe _ _)
    · next h => rw [h] at hi; cases hi
    · next h => rw [h] at hi; cases hi
    · next h => rw [h] at hi; cases hi
    · rfl
  have hls := lanesDue_ne_nil hwhole hl ht hd hf
  simp only [exec_memoryAccessAct, execMemoryAccessAct, ha, hi, hn, hw, hls, Bool.false_eq_true, not_false_eq_true, and_self, if_true,
    Bool.not_false]
  split
  · exact ⟨_, rfl⟩
  · split <;> exact ⟨_, rfl⟩

theorem actLane_due {due : LaneSt → Option Nat} {d : Nat} (hl : (a.lanes.find? fun l => l.lane == lane) = some l) (hd : due l.st = some d)
    (hnow : d ≤ a.now s) (k : LaneSt → Nat) (retry spill : Bool) : ∃ t, actLane id lane due k retry spill s = .next t := by
  simp only [actLane, ha, hl, Option.bind_some, Option.map_some, hd, hnow, if_true]
  exact ⟨_, rfl⟩

theorem exec_feRetryAttempt_due {due k : Nat} (hl : (a.lanes.find? fun l => l.lane == lane) = some l) (hst : l.st = .retry due k)
    (hd : due ≤ a.now s) : ∃ t, exec (.feRetryAttempt id lane) s = .next t := by
  simp only [exec_feRetryAttempt, execFeRetryAttempt, ha, hl, Option.bind_some, hst]
  exact actLane_due ha hl (by rw [hst]) hd _ _ _

theorem exec_wokenRetry_due {due n : Nat} {b : Bool} (hl : (a.lanes.find? fun l => l.lane == lane) = some l) (hst : l.st = .woken due n b)
    (hd : due ≤ a.now s) : ∃ t, exec (.wokenRetry id lane) s = .next t := by
  rw [exec_wokenRetry, execWokenRetry]
  exact actLane_due ha hl (by rw [hst]) hd _ _ _

theorem exec_waitaSpuriousReturn_due {due : Nat} (hl : (a.lanes.find? fun l => l.lane == lane) = some l) (hst : l.st = .spurious due)
    (hd : due ≤ a.now s) : ∃ t, exec (.waitaSpuriousReturn id lane) s = .next t := by
  rw [exec_waitaSpuriousReturn, execWaitaSpuriousReturn]
  exact actLane_due ha hl (by rw [hst]) hd _ _ _

/-! ### XLAT, LAUNCH and work lists (R208, R276, R287 to R289) -/

theorem exec_xlatAct_due {x : XOps} {p : Page} {q : Place} (hi : a.instr = .xlat x) (hl : a.lanes = [l])
    (hd : a.due ≤ s.lcNow a.strand.owner a.strand.lcore) (hp : s.pageOf a.strand.owner l.va = .ok p) (hq : q ≠ .malformed)
    (hplace : p.kind = 1 → s.placeIn a.strand.owner p l.va = .ok q) : ∃ t, exec (.xlatAct id) s = .next t := by
  have hok : ∃ r, r ≠ .malformed ∧ (if p.kind = 1 then s.placeIn a.strand.owner p l.va else .ok (.host 0)) = .ok r := by
    split
    · exact ⟨q, hq, hplace ‹_›⟩
    · exact ⟨.host 0, nofun, rfl⟩
  obtain ⟨r, hr, hok⟩ := hok
  simp only [exec_xlatAct, execXlatAct, ha, hi, hl, hd, hp, hok, not_true, if_false]
  cases r with
  | malformed => exact absurd rfl hr
  | dev | host | absentEntry =>
    split
    · exact ⟨_, rfl⟩
    · split <;> exact ⟨_, rfl⟩

theorem exec_launchAct_due {x : XOps} {pa : Nat} (hi : a.instr = .launch x) (hl : a.lanes = [l]) (hn : a.need = 0)
    (hd : a.due ≤ s.lcNow a.strand.owner a.strand.lcore) (hf : s.accFree a = true) (hp : launchPlace s a l = .ok pa) :
    ∃ t, exec (.launchAct id) s = .next t := by
  simp only [exec_launchAct, execLaunchAct, ha, hi, hl, hn, hd, hf, hp, ne_eq, not_true, or_self, if_false]
  exact ⟨_, rfl⟩

theorem exec_wlputAct_due {w : Owner} {x : XOps} (hw : s.owner? a.strand.owner = some w) (hd : a.due ≤ a.now s) (hi : a.instr = .wlput x)
    (hf : s.accFree a = true) : ∃ t, exec (.wlputAct id) s = .next t := by
  simp only [exec_wlputAct, execWlputAct, ha, hi, hw, hd, hf, not_true, or_self, if_false]
  exact ⟨_, rfl⟩

theorem exec_wlgetAttempt_due {w : Owner} {x : XOps} (hw : s.owner? a.strand.owner = some w) (hd : a.due ≤ a.now s) (hi : a.instr = .wlget x)
    (hl : a.lanes.head? = some l) (hf : s.accFree a = true) : ∃ t, exec (.wlgetAttempt id) s = .next t := by
  obtain ⟨ls, hls⟩ := List.head?_eq_some_iff.1 hl
  simp only [exec_wlgetAttempt, execWlgetAttempt, ha, hi, hw, hls, hd, hf, not_true, or_self, if_false]
  split
  · exact ⟨_, rfl⟩
  · split
    · exact ⟨_, rfl⟩
    · split <;> exact ⟨_, rfl⟩

end

/-! ### Clause arrays (R256 to R268) -/

section
variable {o k now : Nat} {a : ClauseArray} {m : ClauseCmd} {l : LCore} (hf : firstClause s o k = some (a, m, l, now))
include hf

theorem exec_clauseCommandStart_due (hs : m.start = none) (hd : max m.issued a.lastEnd ≤ now) :
    ∃ t, exec (.clauseCommandStart o k) s = .next t := by
  simp only [exec_clauseCommandStart, execClauseCommandStart, hf, hs, Nat.not_lt.2 hd, Option.isSome_none, Bool.false_eq_true, or_self, if_false]
  exact ⟨_, rfl⟩

theorem exec_capropRound_due {b st : Nat} (ho : m.op = .prop b) (hs : m.start = some st) (he : m.ends = none)
    (hd : st + 8 * (m.step + 1) ≤ now) : ∃ t, exec (.capropRound o k) s = .next t := by
  simp only [exec_capropRound, execCapropRound, hf, ho, hs, he, Nat.not_lt.2 hd, if_false]
  exact ⟨_, rfl⟩

theorem exec_caloadColumnWrite_due {d : Desc} {f n st : Nat} (ho : m.op = .load d f n) (hs : m.start = some st) (hn : m.step < n)
    (hd : st + 18 + 2 * m.step ≤ now) : ∃ t, exec (.caloadColumnWrite o k) s = .next t := by
  simp only [exec_caloadColumnWrite, execCaloadColumnWrite, hf, ho, hs, Nat.not_le.2 hn, Nat.not_lt.2 hd, or_self, if_false]
  exact ⟨_, rfl⟩

theorem exec_clauseCommandEnd_due {e : Nat} (he : m.ends = some e) (hd : e ≤ now) (ho : ∀ d f n, m.op ≠ .load d f n) :
    ∃ t, exec (.clauseCommandEnd o k) s = .next t := by
  simp only [exec_clauseCommandEnd, execClauseCommandEnd, hf, he, Nat.not_lt.2 hd, or_false]
  rw [if_neg (by decide)]
  exact ⟨_, rfl⟩

end

/-! ### The distributor (R276 to R280, R291) -/

section
variable {o now : Nat} {w : Owner} (hw : s.owner? o = some w) (hn : s.ownerNow o = some now)
include hw hn

theorem exec_distributorStep_due {act : DistAct} (hd : w.dist.next ≤ now) (ha : s.distAct w now = some act) :
    ∃ t, exec (.distributorStep o) s = .next t := by
  simp only [exec_distributorStep, execDistributorStep, hw, hn, Nat.not_lt.2 hd, ha, if_false]
  exact ⟨_, rfl⟩

omit hw hn in
/-- A test goes on where both its branches do: it reaches through the bindings of a step without writing them out. -/
theorem exists_next_ite {p : Prop} [Decidable p] {a b : Host.Outcome State Fault Refusal} (ha : ∃ t, a = .next t) (hb : ∃ t, b = .next t) :
    ∃ t, (if p then a else b) = .next t := by
  split
  · exact ha
  · exact hb

theorem exec_overflowRecordRead_due {addr due : Nat} (hr : w.dist.read = some (addr, due)) (hd : due ≤ now) :
    ∃ t, exec (.overflowRecordRead o) s = .next t := by
  simp -zeta only [exec_overflowRecordRead, execOverflowRecordRead, hw, hn, hr, Nat.not_lt.2 hd, if_false]
  refine exists_next_ite ⟨_, rfl⟩ ?_
  cases s.overflowHead w with
  | none => exact ⟨_, rfl⟩
  | some bs =>
    exact exists_next_ite ⟨_, rfl⟩ (exists_next_ite ⟨_, rfl⟩ (exists_next_ite ⟨_, rfl⟩ (exists_next_ite ⟨_, rfl⟩ ⟨_, rfl⟩)))

theorem exec_strandedDetect_due {comp due : Nat} {l : Launch}
    (hl : (w.launches.find? fun l => l.lrec.comp == comp && l.parked.isSome) = some l) (hp : l.parked = some due) (hd : due + 65536 ≤ now) :
    ∃ t, exec (.strandedDetect o comp) s = .next t := by
  simp only [exec_strandedDetect, execStrandedDetect, hw, hn, hl, hp, Option.getD_some, Nat.not_lt.2 hd, if_false]
  exact ⟨_, rfl⟩

end

/-! ### JOIN and CANCEL (R283, R286) -/

section
variable {i : StrandId} {u : Strand} (hu : s.strand? i = some u)
include hu

section
variable {w : Owner} {x : XOps} {id since : Nat} {k : DWord} (hj : u.ctl.wait = some ⟨.join x, id, [k], since⟩) (hw : s.owner? i.owner = some w)
include hj

omit hu in
theorem join?_eq : u.join? = some (k.toNat, id, since) := by
  simp [Strand.join?, hj]

include hw

theorem exec_joinObserveZero_due (hr : u.res = .here) (hc : (w.before k.toNat).count = 0) : ∃ t, exec (.joinObserveZero i) s = .next t := by
  have hwait : waitOf s ⟨i, none⟩ = some ⟨.join x, id, [k], since⟩ := by
    simp [waitOf, hu, Strand.stream?, hj]
  simp only [exec_joinObserveZero, execJoinObserveZero, hu, hwait, hw, hr, hc, ne_eq, not_true, or_self, if_false]
  exact ⟨_, rfl⟩

theorem exec_joinSwapOut_due (hr : u.res = .here) (hs : w.jswap ≠ 0) (hd : since + w.jswap.toNat ≤ s.lcNow i.owner i.lcore)
    (hc : (w.before k.toNat).count ≠ 0) (hn : s.swapped i.owner i.lcore < 32) (hq : s.quietAt u (some id) = true) (hb : u.quietBy = none)
    (ha : w.jswapAt = none) : ∃ t, exec (.joinSwapOut i) s = .next t := by
  simp only [exec_joinSwapOut, execJoinSwapOut, hu, hw, join?_eq hj, hr, hs, Nat.not_lt.2 hd, hc, Nat.not_le.2 hn, hq, hb, ha, ne_eq, not_true,
    Option.isSome_none, Bool.false_eq_true, false_and, or_self, if_false]
  exact ⟨_, rfl⟩

theorem exec_joinSwapIn_due {now : Nat} (hr : u.res = .out) (hout : u.joinOut = true) (hn : s.ownerNow i.owner = some now)
    (hc : (w.before k.toNat).count = 0) (hd : w.dist.next ≤ now) (hroom : s.roomFor u = true) : ∃ t, exec (.joinSwapIn i) s = .next t := by
  simp only [exec_joinSwapIn, execJoinSwapIn, hu, hw, hn, join?_eq hj, hr, hout, hc, Nat.not_lt.2 hd, hroom, ne_eq, not_true, or_self, if_false]
  exact ⟨_, rfl⟩

end

theorem exec_cancelStrandStop_due {due : Nat} (hb : u.quietBy = some due) (hk : u.killed = false) (hc : u.cst = .run) (hr : u.res = .here)
    (hq : s.quietAt u none = true) : ∃ t, exec (.cancelStrandStop i) s = .next t := by
  simp only [exec_cancelStrandStop, execCancelStrandStop, hu, hb, hk, hc, hr, hq, Option.isSome_some, Bool.false_eq_true, not_false_eq_true,
    and_self, if_true]
  exact ⟨_, rfl⟩

theorem exec_cancelQtimeoutKill_due {due : Nat} (hb : u.quietBy = some due) (hk : u.killed = false) (hc : u.cst = .run)
    (hd : due ≤ s.lcNow i.owner i.lcore) : ∃ t, exec (.cancelQtimeoutKill i) s = .next t := by
  simp only [exec_cancelQtimeoutKill, execCancelQtimeoutKill, hu, hb, hk, hc, Nat.not_lt.2 hd, Bool.false_eq_true, reduceCtorEq, false_and,
    or_self, if_false]
  exact ⟨_, rfl⟩

end

/-! ### Records of traps and of INTR (R300, R404) -/

theorem exec_trapRecordStore_due {id pa : Nat} {l : LCore} {r : TrapRec} {w : Owner}
    (hr : s.lcores.findSome? (fun l => (l.trecs.find? fun r => r.id == id).map (l, ·)) = some (l, r)) (hw : s.owner? l.owner = some w)
    (hd : r.due ≤ s.lcNow l.owner l.num) (hres : l.resident = true) (hf : Freeze.record id ∉ w.freezes) (hp : r.put = true)
    (hq : s.queuePa w 0 = some pa) : ∃ t, exec (.trapRecordStore id) s = .next t := by
  have hf : w.freezes.contains (.record id) = false := by simpa using hf
  simp only [exec_trapRecordStore, execTrapRecordStore, hr, hw, Nat.not_lt.2 hd, hres, hf, hp, hq, not_true, Bool.false_eq_true, or_self,
    if_false, if_true]
  exact ⟨_, rfl⟩

theorem exec_intrRecordStore_due {id : Nat} {q : IntrRec} (hq : (s.intrs.find? fun r => r.id == id) = some q)
    (hd : q.due ≤ s.lcNow q.strand.owner q.strand.lcore) (hp : q.put = false) (hh : s.intrHeld q = false) :
    ∃ t, exec (.intrRecordStore id) s = .next t := by
  simp only [exec_intrRecordStore, execIntrRecordStore, hq, Nat.not_lt.2 hd, hp, hh, Bool.false_eq_true, if_false]
  split
  · exact ⟨_, rfl⟩
  · split <;> exact ⟨_, rfl⟩

/-! ### A pre-emption (R308 to R311) -/

section
variable {o : Nat} {w : Owner} {p : Preempt} (hw : s.owner? o = some w) (hp : w.preempt = some p)
include hw hp

theorem exec_preemptQuietEnd_quiet {till : Nat} (hph : p.phase = .quiet till) (hi : s.atIndexEnd o = true) (hq : s.preemptQuiet o p = true) :
    ∃ t, exec (.preemptQuietEnd o) s = .next t := by
  simp only [exec_preemptQuietEnd, execPreemptQuietEnd, hw, hp, hph, hi, hq, true_or, and_self, if_true]
  exact ⟨_, rfl⟩

theorem exec_preemptDrainEnd_due (hph : p.phase = .drain 0) (hi : s.atIndexEnd o = true) (ht : ∀ n, s.turn = some n → n.owner ≠ o) :
    ∃ t, exec (.preemptDrainEnd o) s = .next t := by
  have hturn : (s.turn.any fun t => t.owner == o) = false :=
    (Option.any_eq_false _ _).2 fun n hn => by simpa using ht n hn
  simp only [exec_preemptDrainEnd, execPreemptDrainEnd, hw, hp, hph, hi, hturn, true_or, Bool.false_eq_true, not_false_eq_true, and_self, if_true]
  exact ⟨_, rfl⟩

theorem exec_preemptSaveEnd_due {left : List (Nat × Nat)} (hph : p.phase = .save left) (hl : ∀ x ∈ left, x.2 = 0) :
    ∃ t, exec (.preemptSaveEnd o) s = .next t := by
  have hleft : (left.any fun x => decide (x.2 ≠ 0)) = false := List.any_eq_false.2 fun x hx => by simp [hl x hx]
  simp only [exec_preemptSaveEnd, execPreemptSaveEnd, hw, hp, hph, hleft, Bool.false_eq_true, if_false]
  exact ⟨_, rfl⟩

end

/-! ### Transfers and packets of a remote side (R345 to R349) -/

section
variable {n d : Nat} {v : Transfer} (hv : (s.transfers.find? fun t => t.id == n) = some v) (hs : v.sentAt = some d) (hr : v.reply = none)
include hv hs hr

theorem exec_transferResend_due : ∃ t, exec (.transferResend n) s = .next t := by
  simp only [exec_transferResend, execTransferResend, hv, hs, hr]
  exact ⟨_, rfl⟩

theorem exec_remoteTimeout_due {w : Owner} (hw : s.owner? v.owner = some w) (hd : d + w.rtmo.toNat ≤ s.dcyc) :
    ∃ t, exec (.remoteTimeout n) s = .next t := by
  simp only [exec_remoteTimeout, execRemoteTimeout, hv, hs, hr, hw, Nat.not_lt.2 hd, if_false]
  exact ⟨_, rfl⟩

end

section
variable {p : Packet}

theorem exec_remoteRequestReceive_due (hk : p.kind = 1 ∨ p.kind = 2) (hon : s.dev.on = true) : ∃ t, exec (.remoteRequestReceive p) s = .next t := by
  have hne : ¬ ((p.kind ≠ 1 ∧ p.kind ≠ 2) ∨ ¬ s.dev.on = true) := by
    rintro (⟨h1, h2⟩ | h)
    · exact hk.elim h1 h2
    · exact h hon
  rw [exec_remoteRequestReceive, execRemoteRequestReceive, if_neg hne]
  split
  · exact ⟨_, rfl⟩
  · split <;> exact ⟨_, rfl⟩

theorem exec_remoteReplyReceive_due (hk : p.kind = 3 ∨ p.kind = 4) : ∃ t, exec (.remoteReplyReceive p) s = .next t := by
  rw [exec_remoteReplyReceive, execRemoteReplyReceive, if_neg (by omega)]
  split
  · exact ⟨_, rfl⟩
  · split <;> exact ⟨_, rfl⟩

theorem exec_nackReceive_due (hk : p.kind = 5) : ∃ t, exec (.nackReceive p) s = .next t := by
  rw [exec_nackReceive, execNackReceive, if_neg (by omega)]
  split
  · exact ⟨_, rfl⟩
  · split <;> exact ⟨_, rfl⟩

end

/-! ### Memory stacks, links and rails (R304 to R306, R339 to R344, R352 to R356) -/

theorem exec_storageErrorKill_next (e : StorageErr) : ∃ t, exec (.storageErrorKill e) s = .next t := by
  rw [exec_storageErrorKill, execStorageErrorKill]
  dsimp only
  split
  · split <;> exact ⟨_, rfl⟩
  · exact ⟨_, rfl⟩

theorem exec_rfmCommand_due {bank o n : Nat} (hn : Config.rfmThreshold (bank / 512) / 2 ^ s.dev.fabric.flen ≤ n)
    (ha : tblGet 0 s.dev.acts (bank * 64 + if o = 63 ∨ s.untimed o = true then 63 else o) ≤ n) (hr : s.released ≠ 0) :
    ∃ t, exec (.rfmCommand bank o n) s = .next t := by
  have htail : (o = 63 ∨ s.untimed o = true) ↔ s.tailOwner o = true := by simp [State.tailOwner]
  simp only [htail] at ha
  simp only [exec_rfmCommand, execRfmCommand, Nat.not_lt.2 hn, Nat.not_lt.2 ha, hr, and_false, or_self, if_false]
  exact ⟨_, rfl⟩

theorem exec_coreRailOvercurrent_due {amps : Nat} (ha : 6000 < amps) (hon : s.dev.on = true) : ∃ t, exec (.coreRailOvercurrent amps) s = .next t := by
  simp only [exec_coreRailOvercurrent, execCoreRailOvercurrent, Nat.not_le.2 ha, hon, not_true, or_self, if_false]
  exact ⟨_, rfl⟩

theorem exec_tailwaterWithholdEnd_due {amps : Nat} (ha : amps ≤ 6000) (hw : s.dev.withheld ≠ none) (hp : s.dev.powerOff = false) :
    ∃ t, exec (.tailwaterWithholdEnd amps) s = .next t := by
  have hw : s.dev.withheld.isNone = false := Option.isNone_eq_false_iff.2 (Option.isSome_iff_ne_none.2 hw)
  simp only [exec_tailwaterWithholdEnd, execTailwaterWithholdEnd, Nat.not_lt.2 ha, hw, hp, Bool.false_eq_true, or_self, if_false]
  exact ⟨_, rfl⟩

theorem exec_powerFault_due {d : Nat} (hw : s.dev.withheld = some d) (hd : d + 850000 ≤ s.dcyc) (ha : 6000 < s.dev.amps)
    (hp : s.dev.powerOff = false) : ∃ t, exec .powerFault s = .next t := by
  simp only [exec_powerFault, execPowerFault, hw, Nat.not_lt.2 hd, Nat.not_le.2 ha, hp, Bool.false_eq_true, or_self, if_false]
  exact ⟨_, rfl⟩

theorem exec_powerRecover_due {amps : Nat} (ha : amps < 5400) (hp : s.dev.powerOff = true) : ∃ t, exec (.powerRecover amps) s = .next t := by
  simp only [exec_powerRecover, execPowerRecover, Nat.not_le.2 ha, hp, not_true, or_self, if_false]
  exact ⟨_, rfl⟩

/-! ### Commands (R324 to R333) -/

theorem exec_enqueue_on {asid q : Nat} {c : Command} (hon : s.dev.on = true) : ∃ t, exec (.enqueue asid q c) s = .next t := by
  simp only [exec_enqueue, execEnqueue, hon, if_true]
  exact ⟨_, rfl⟩

theorem exec_commandTake_due {o : Nat} {w : Owner} {x : Queue} (hw : s.owner? o = some w) (hx : s.nextQueue w = some x)
    (hm : s.mayTake w = true) : ∃ t, exec (.commandTake o) s = .next t := by
  simp only [exec_commandTake, execCommandTake, hw, hx, hm, not_true, if_false]
  exact ⟨_, rfl⟩

/-- A command that was taken acts and ends in one step (R328, R330). -/
theorem hostStep_taken {o op q : Nat} {c : Command} {w : Owner} (hq : s.taken? o op c = some q) (hw : s.owner? o = some w)
    (f : Owner → State × Nat) : ∃ t, hostStep o op c f s = .next t := by
  simp only [hostStep, hq, hw]
  exact ⟨_, rfl⟩

theorem zeroStep_taken {op q : Nat} {c : Command} {w : Owner} (hq : s.taken? 0 op c = some q) (hw : s.owner? 0 = some w) (f : State × Nat) :
    ∃ t, zeroStep op c f s = .next t :=
  hostStep_taken hq hw _

theorem exec_swap_taken {q : Nat} {c : Command} (hq : s.taken? 0 0x16 c = some q)
    (hc : ∀ k ∈ s.cores, ∀ w, k.2.swap = some w → w.queue ≠ some q) : ∃ t, exec (.swap c) s = .next t := by
  have hnone : (s.cores.any fun k => k.2.swap.any fun w => w.queue == some q) = false :=
    List.any_eq_false.2 fun k hk => by
      rw [Bool.not_eq_true]
      exact (Option.any_eq_false _ _).2 fun w hw => by simpa using hc k hk w hw
  simp only [exec_swap, execSwap, hq, hnone, Bool.false_eq_true, if_false]
  exact ⟨_, rfl⟩

theorem exec_oreset_taken {q : Nat} {c : Command} {w : Owner} (hq : s.taken? 0 0x11 c = some q) (hw : s.owner? (cmdNum c 8 1) = some w)
    (hp : w.preempt = none) (hr : w.reset = false) (hc : ∀ p ∈ s.coresOf (cmdNum c 8 1), (s.core p).swap = none ∧ (s.core p).pend = none) :
    ∃ t, exec (.oreset c) s = .next t := by
  have hnone : ((s.coresOf (cmdNum c 8 1)).any fun p => (s.core p).swap.isSome || (s.core p).pend.isSome) = false :=
    List.any_eq_false.2 fun p hm => by simp [hc p hm]
  simp only [exec_oreset, execOreset, hq, hw, hp, hr, hnone, Option.isSome_none, Bool.false_eq_true, or_self, if_false]
  exact ⟨_, rfl⟩

theorem exec_preempt_taken {q : Nat} {c : Command} {w : Owner} (hq : s.taken? 0 0x14 c = some q) (hw : s.owner? (cmdNum c 8 1) = some w)
    (hp : w.preempt = none) (hr : w.reset = false) : ∃ t, exec (.preempt c) s = .next t := by
  simp only [exec_preempt, execPreempt, hq, hw, hp, hr, Option.any_none, Option.isSome_none, Bool.false_eq_true, or_self, if_false]
  split
  · exact ⟨_, rfl⟩
  · split <;> exact ⟨_, rfl⟩

theorem exec_rotafStage_due {v : DWord} (hv : v.getLsbD 63 = false) : ∃ t, exec (.rotafStage v) s = .next t := by
  rw [exec_rotafStage, execRotafStage, hv]
  exact ⟨_, rfl⟩

theorem exec_rotafCommit_due {v : DWord} (hv : v.getLsbD 63 = true) : ∃ t, exec (.rotafCommit v) s = .next t := by
  rw [exec_rotafCommit, execRotafCommit, hv]
  exact ⟨_, rfl⟩

theorem exec_refreshSkip_next (grp : Nat) : ∃ t, exec (.refreshSkip grp (BitVec.allOnes 64)) s = .next t := by
  rw [exec_refreshSkip, execRefreshSkip, if_neg (not_not_intro rfl)]
  exact ⟨_, rfl⟩

theorem exec_recoveryImageReceive_due {ok : Bool} (hl : s.dev.loader = true) : ∃ t, exec (.recoveryImageReceive ok) s = .next t :=
  ⟨_, if_pos hl⟩

end

/-! ### The obligation -/

/-- Settles O60: one named lemma to a row. -/
theorem engineEventAndCommandStepsComplete : Obligations.EngineEventAndCommandStepsComplete := by
  unfold Obligations.EngineEventAndCommandStepsComplete
  refine ⟨?tileDrain, ?talloc, ?copies, ?mats, ?waits, ?gsync, ?accesses, ?clauses, ?distributor, ?join, ?cancel, ?trapRecord, ?intrRecord,
    ?preemption, ?transfers, ?packets, ?storage, ?rfm, ?power, ?registers, ?enqueue, ?ownerCommands, ?zeroCommands⟩
  case tileDrain =>
    exact fun s o lc h l hl hst hu => ⟨_, exec_tileDrainComplete_due hl hst hu⟩
  case talloc =>
    intro s i u l w g x level id n a b hwait hu hl hw hg hd
    obtain ⟨⟨l', v⟩, hd⟩ := Option.isSome_iff_exists.1 hd
    exact ⟨_, exec_tallocPickGrant_granted hwait hu hl hw hg hd⟩
  case copies =>
    refine fun s id l c hc => ⟨?_, ?_, ?_⟩
    · exact fun due s' hsend hland hdue he hw hn hok => ⟨_, exec_copyUnitLands_due hc hsend hland hdue he hw hn hok⟩
    · exact fun he hw hp => ⟨_, exec_copyPageGranted_due hc he hw hp⟩
    · exact fun he => ⟨_, exec_copyComplete_ended hc he⟩
  case mats =>
    refine fun s id l k ks hl hm hid htag => ⟨?_, ?_⟩
    · exact fun hout hdue => ⟨_, exec_matCommandStart_due hl hm hid hout htag hdue⟩
    · intro out hout hdue hmac
      have hk : (l.mats.find? fun m => m.id == id) = some k := by
        rw [hm, List.find?_cons_of_pos (by simp [hid])]
      exact ⟨_, exec_matCommandEnd_due hl hk hout hdue hmac htag⟩
  case waits =>
    refine fun s i u l x id n m hu hl => ⟨?_, ?_, ?_, ?_⟩
    · exact fun hwait hr => ⟨_, exec_twanyReturn_ready hwait hl (.inl hr)⟩
    · exact fun hwait hr => ⟨_, exec_twallReturn_ready hwait hl hr⟩
    · exact fun hwait hp => ⟨_, exec_swaitComplete_ready hwait hu hp⟩
    · exact fun hwait hr => ⟨_, exec_bwaitRelease_ready hwait hl (.inl hr)⟩
  case gsync =>
    intro s h due g hg hgs hdue
    obtain ⟨ts, hts⟩ := exec_gsyncComplete_due hg hgs hdue
    exact ⟨_, hts⟩
  case accesses =>
    refine fun s id lane a l ha => ⟨exec_memoryAccessAct_due ha, fun hl => ⟨?_, ?_, ?_⟩, ?_, ?_, fun w hw hd => ⟨?_, ?_⟩⟩
    · exact fun due k => exec_feRetryAttempt_due ha hl
    · exact fun due n b => exec_wokenRetry_due ha hl
    · exact fun due => exec_waitaSpuriousReturn_due ha hl
    · exact fun x p q => exec_xlatAct_due ha
    · exact fun x pa => exec_launchAct_due ha
    · exact fun x hi hf => exec_wlputAct_due ha hw hd hi hf
    · exact fun x hi hl hf => exec_wlgetAttempt_due ha hw hd hi hl hf
  case clauses =>
    refine fun s o k now st e a m l hf => ⟨exec_clauseCommandStart_due hf, ?_, ?_, exec_clauseCommandEnd_due hf⟩
    · exact fun b => exec_capropRound_due hf
    · exact fun d f n => exec_caloadColumnWrite_due hf
  case distributor =>
    refine fun s o now w hw hn => ⟨?_, ?_, ?_⟩
    · exact fun act => exec_distributorStep_due hw hn
    · exact fun addr due => exec_overflowRecordRead_due hw hn
    · exact fun comp l due => exec_strandedDetect_due hw hn
  case join =>
    exact fun s i u w x id since now k hu hj hw =>
      ⟨exec_joinObserveZero_due hu hj hw, exec_joinSwapOut_due hu hj hw, exec_joinSwapIn_due hu hj hw⟩
  case cancel =>
    refine fun s i u due hu hb hk hc => ⟨exec_cancelStrandStop_due hu hb hk hc, exec_cancelQtimeoutKill_due hu hb hk hc⟩
  case trapRecord =>
    exact fun s id pa l r w => exec_trapRecordStore_due
  case intrRecord =>
    exact fun s id q => exec_intrRecordStore_due
  case preemption =>
    refine fun s o w p hw hp => ⟨?_, exec_preemptDrainEnd_due hw hp, ?_⟩
    · exact fun till => exec_preemptQuietEnd_quiet hw hp
    · exact fun left => exec_preemptSaveEnd_due hw hp
  case transfers =>
    exact fun s n d v hv hs hr => ⟨exec_transferResend_due hv hs hr, fun w => exec_remoteTimeout_due hv hs hr⟩
  case packets =>
    exact fun s p => ⟨exec_remoteRequestReceive_due, exec_remoteReplyReceive_due, exec_nackReceive_due⟩
  case storage =>
    exact fun s e banks ws up grp => ⟨⟨_, rfl⟩, exec_storageErrorKill_next e, ⟨_, rfl⟩, ⟨_, rfl⟩, exec_refreshSkip_next grp⟩
  case rfm =>
    exact fun s bank o n => exec_rfmCommand_due
  case power =>
    exact fun s r ok amps d => ⟨⟨_, rfl⟩, exec_recoveryImageReceive_due, exec_coreRailOvercurrent_due, exec_tailwaterWithholdEnd_due,
      exec_powerFault_due, exec_powerRecover_due⟩
  case registers =>
    exact fun s p o v a => ⟨⟨_, rfl⟩, exec_rotafStage_due, exec_rotafCommit_due, ⟨_, rfl⟩, ⟨_, rfl⟩,
      fun ho => ⟨⟨_, if_pos ho⟩, ⟨_, if_pos ho⟩, ⟨_, if_pos ho⟩, ⟨_, if_pos ho⟩⟩⟩
  case enqueue =>
    exact fun s q asid c => exec_enqueue_on
  case ownerCommands =>
    exact fun s o q c w x hw => ⟨exec_commandTake_due hw, fun hq => hostStep_taken hq hw _, fun hq => hostStep_taken hq hw _,
      fun hq => hostStep_taken hq hw _, fun hq => hostStep_taken hq hw _⟩
  case zeroCommands =>
    intro s q c w w0 hw0
    simp only [exec_ocreate, exec_odestroy, exec_load, exec_restore, exec_pause, exec_resume, exec_rota, exec_resolve, exec_unmap, exec_stats,
      exec_clearboot, execOcreate, execOdestroy, execLoad, execRestore, execPause, execResume, execRota, execResolve, execUnmap, execStats,
      execClearboot]
    refine ⟨?_, ?_, ?_, ?_, exec_swap_taken, ?_, ?_, ?_, ?_, ?_, ?_, ?_, fun hw hp hr =>
      ⟨fun hq hc => exec_oreset_taken hq hw hp hr hc, fun hq => exec_preempt_taken hq hw hp hr⟩⟩
    all_goals exact fun hq => zeroStep_taken hq hw0 _

end Sys2Proof.Machine
end

section
/-!
THEOREM. The instructions of a stream that need nothing of the machine but their issue, and TRAP (R249, R294, R424, R457, R475).
-/

namespace Sys2Proof.Machine

/-- An instruction whose effect only updates the state goes on at the next instruction and writes no register. -/
theorem completes_of_plain {i : Instr} {P : Ctx → State → Prop} {f : Ctx → State → State} {k : Ctx → State → Eff}
    (hx : ∀ s, exec i s = issueWith i 1 k s) (hk : ∀ c s, P c s → k c s = .plain (f c s)) :
    Completes i 1 P fun c s => (f c s).issuedPlain c i :=
  fun s c hi hp => exec_of_effect (hx s) hi (hk c s hp)

/-- Settles O10: the effect of NOP, LCSYNC and FENCE is the state as it is, that of YIELD is its mark in the logical core, and that of
TRAP is its trap. -/
theorem plainStreamInstructionsComplete : Obligations.PlainStreamInstructionsComplete := by
  unfold Obligations.PlainStreamInstructionsComplete
  refine fun x m code => ⟨?nop, ?lcsync, ?fence, ?yield, ?trap⟩
  case nop => exact completes_of_plain (fun _ => exec_nop) fun _ _ _ => rfl
  case lcsync => exact completes_of_plain (fun _ => exec_lcsync) fun _ _ _ => rfl
  case fence => exact completes_of_plain (fun _ => exec_fence) fun _ _ _ => rfl
  case yield => exact completes_of_plain (fun _ => exec_yield) fun _ _ _ => rfl
  case trap => exact fun s c hi _ => exec_of_effect exec_trap hi rfl

end Sys2Proof.Machine
end

section
/-!
THEOREM. The steps of a clause array's commands: start, round, column and end (R256 to R268).
-/

namespace Sys2Proof.Machine

/-! ### The first command -/

/-- A round assigns variables; the array's commands stay (R256). -/
theorem ClauseArray.round_cmds (a : ClauseArray) : a.round.1.cmds = a.cmds := by
  simp only [ClauseArray.round]
  split
  · rfl
  · refine List.foldlRecOn (motive := fun b : ClauseArray => b.cmds = a.cmds) _ _ rfl fun b hb x _ => ?_
    split
    · split <;> exact hb
    · exact hb

/-- A change of the first command is the change of the command that stands first. -/
theorem ClauseArray.modFirst_congr {a : ClauseArray} {m : ClauseCmd} {ms : List ClauseCmd} {f g : ClauseCmd → ClauseCmd}
    (hm : a.cmds = m :: ms) (h : f m = g m) : a.modFirst f = a.modFirst g := by
  simp [ClauseArray.modFirst, hm, h]

theorem firstClause_cmds {s : State} {o k now : Nat} {a : ClauseArray} {m : ClauseCmd} {l : LCore}
    (h : firstClause s o k = some (a, m, l, now)) : ∃ ms, a.cmds = m :: ms := by
  unfold firstClause at h
  dsimp only at h
  split at h
  · simp at h
  · rename_i ms hm
    obtain ⟨l, -, he⟩ := Option.map_eq_some_iff.1 h
    obtain ⟨rfl, rfl, -⟩ := he
    exact ⟨ms, hm⟩

/-! ### The steps of an array's first command (R257, R258, R261, R265) -/

section
variable {s : State} {o k now : Nat} {a : ClauseArray} {m : ClauseCmd} {l : LCore} (hf : firstClause s o k = some (a, m, l, now))
include hf

/-- The start of the first command changes that command only; one whose occupancy is fixed, and that is no CALOAD or CALEARN, takes its S
and E and has nothing to report yet (R257, R258). -/
theorem exec_clauseCommandStart_first (hs : m.start = none) (hd : max m.issued a.lastEnd ≤ now) :
    ∃ f, exec (.clauseCommandStart o k) s = .next (s.setClause o k (a.modFirst f)) ∧
      ((∃ e, m.op.occupancy = some e) → (∀ d f n, m.op ≠ .load d f n) → (∀ d, m.op ≠ .learn d) → f m = { m with
        start := some (max m.issued a.lastEnd), ends := m.op.occupancy.map (max m.issued a.lastEnd + ·), out := [], row := 0 }) := by
  simp only [exec_clauseCommandStart, execClauseCommandStart, hf, hs, Nat.not_lt.2 hd, Option.isSome_none, Bool.false_eq_true, or_self, if_false]
  refine ⟨_, rfl, ?_⟩
  rintro ⟨e, he⟩ hload hlearn
  cases hop : m.op with
  | load d f n => exact absurd hop (hload d f n)
  | learn d => exact absurd hop (hlearn d)
  | prop b => simp [hop, ClauseOp.occupancy] at he
  | open_ | close | dec | back | val | trail | del => rfl

theorem exec_capropRound_first {b st : Nat} (ho : m.op = .prop b) (hs : m.start = some st) (he : m.ends = none)
    (hd : st + 8 * (m.step + 1) ≤ now) : exec (.capropRound o k) s = .next (s.setClause o k (a.propRound m b st)) := by
  simp only [exec_capropRound, execCapropRound, hf, ho, hs, he, Nat.not_lt.2 hd, if_false]

theorem exec_caloadColumnWrite_first {d : Desc} {f n st : Nat} (ho : m.op = .load d f n) (hs : m.start = some st) (hn : m.step < n)
    (hd : st + 18 + 2 * m.step ≤ now) : exec (.caloadColumnWrite o k) s = .next (s.setClause o k (a.loadColumn m l d f)) := by
  simp only [exec_caloadColumnWrite, execCaloadColumnWrite, hf, ho, hs, Nat.not_le.2 hn, Nat.not_lt.2 hd, or_self, if_false]

theorem exec_clauseCommandEnd_first {e : Nat} (he : m.ends = some e) (hd : e ≤ now) (ho : ∀ d f n, m.op = .load d f n → n ≤ m.step) :
    exec (.clauseCommandEnd o k) s = .next (((s.setClause o k { (a.finish m).1 with cmds := (a.finish m).1.cmds.drop 1, lastEnd := e }).modLcore
      o m.strand.lcore fun l => l.dropAll m.op.tiles).clauseResult m (a.finish m).2) := by
  simp only [exec_clauseCommandEnd, execClauseCommandEnd, hf, he, Nat.not_lt.2 hd, or_false]
  refine if_neg ?_
  split
  · simpa using ho _ _ _ ‹_›
  · exact Bool.false_ne_true

end

/-- A column with no malformed cell is written and enabled, and CALOAD goes on to the next (R261). -/
theorem ClauseArray.loadColumn_wellFormed {a : ClauseArray} {m : ClauseCmd} {l : LCore} {d : Desc} {f : Nat}
    (h : malformed (columnOf l d m.step) = false) : a.loadColumn m l d f =
      (a.putColumn (f + m.step) (columnOf l d m.step) true).modFirst fun m => { m with step := m.step + 1 } := by
  simp [ClauseArray.loadColumn, h]

/-- Settles O39, from the outcome of each step; what a step leaves of the array keeps its first command first. -/
theorem clauseArraySteps : Obligations.ClauseArraySteps := by
  unfold Obligations.ClauseArraySteps
  intro o k n b f now st e a m l d
  refine ⟨?start, fun p => ?otherStart, ?round, ?column, ?ends⟩
  case start =>
    rintro s ⟨hf, hs, hd, hocc, hload, hlearn⟩
    obtain ⟨ms, hm⟩ := firstClause_cmds hf
    obtain ⟨g, hx, hg⟩ := exec_clauseCommandStart_first hf hs hd
    refine hx.trans (congrArg Host.Outcome.next (congrArg (s.setClause o k) ?_))
    exact ClauseArray.modFirst_congr hm (hg ⟨e, hocc⟩ hload hlearn)
  case otherStart =>
    rintro s ⟨hf, hs, hd, -⟩
    obtain ⟨g, hx, -⟩ := exec_clauseCommandStart_first hf hs hd
    exact ⟨_, hx, rfl, rfl⟩
  case round =>
    rintro s ⟨hf, ho, hs, he, hd⟩
    obtain ⟨ms, hm⟩ := firstClause_cmds hf
    have hround := a.round_cmds.trans hm
    refine ⟨_, exec_capropRound_first hf ho hs he hd, congrArg (s.setClause o k) ?_⟩
    unfold ClauseArray.propRound
    generalize a.round = r at hround ⊢
    obtain ⟨a', res⟩ := r
    exact ClauseArray.modFirst_congr hround (by cases res <;> rfl)
  case column =>
    rintro s ⟨hf, ho, hs, hn, hd, hw⟩
    rw [exec_caloadColumnWrite_first hf ho hs hn hd, ClauseArray.loadColumn_wellFormed hw]
    rfl
  case ends => exact fun s ⟨hf, he, hd, ho⟩ => exec_clauseCommandEnd_first hf he hd ho

end Sys2Proof.Machine
end

section
/-!
THEOREM. What a CLAUSE command does to the assignment, the trail and the columns at its end (R263, R264, R266, R267, R270).
-/

namespace Sys2Proof.Machine

/-! ### Back to a level (R266) -/

/-- Undoing drops the trail's end above the level; the trail is given last entry first (R266). -/
theorem undo_trail (level : Nat) (t : List (Nat × Word)) (rows : Tbl Word) :
    (undo level t rows).1 = t.dropWhile fun e => decide (level < recordLevel e.2) := by
  induction t generalizing rows with
  | nil => rfl
  | cons e t ih =>
    rw [undo, List.dropWhile_cons]
    by_cases h : level < recordLevel e.2 <;> simp [h, ih]

theorem ClauseArray.backTo_stays {a : ClauseArray} {level : Nat} (h : a.level ≤ level) : a.backTo level = a := if_neg (Nat.not_lt.2 h)

section
variable {a : ClauseArray} {level : Nat} (h : level < a.level)
include h

theorem ClauseArray.backTo_level : (a.backTo level).level = level := by
  rw [ClauseArray.backTo, if_pos h]

theorem ClauseArray.backTo_trail : (a.backTo level).trail = a.trail.rdropWhile fun e => decide (level < recordLevel e.2) := by
  rw [ClauseArray.backTo, if_pos h, List.rdropWhile, ← undo_trail level _ a.rows]

end

/-! ### Each command at its end (R263, R264, R266, R267) -/

section
variable {a : ClauseArray} {m : ClauseCmd}

/-- A command that a drain brought to its end has done what it does, and keeps its words (R270). -/
theorem ClauseArray.finish_done (hd : m.done = true) : a.finish m = (a, m.out) := if_pos hd

variable (hd : m.done = false)
include hd

theorem ClauseArray.finish_dec_free {w : Word} (ho : m.op = .dec w) (hv : recordVal (a.rowOf (field w 9 0)) = 0) (hl : a.level < 1023) :
    a.finish m = ({ a with level := a.level + 1 }.assign (field w 9 0) (if w.getLsbD 10 then 2 else 1) 0x1000,
      [BitVec.ofNat 32 ((a.level + 1) * 2 ^ 16)]) := by
  simp [ClauseArray.finish, hd, ho, hv, hl.ne]

theorem ClauseArray.finish_dec_assigned {w : Word} (ho : m.op = .dec w) (hv : recordVal (a.rowOf (field w 9 0)) ≠ 0) :
    a.finish m = (a, [BitVec.ofNat 32 (1 + a.level * 2 ^ 16)]) := by
  simp [ClauseArray.finish, hd, ho, hv]

theorem ClauseArray.finish_back {l : Nat} (ho : m.op = .back l) :
    a.finish m = (a.backTo l, [BitVec.ofNat 32 (a.backTo l).trail.length]) := by
  simp [ClauseArray.finish, hd, ho]

theorem ClauseArray.finish_val {v : Nat} (ho : m.op = .val v) : a.finish m = (a, [a.rowOf v]) := by
  simp [ClauseArray.finish, hd, ho]

theorem ClauseArray.finish_trail_entry {i v : Nat} {w : Word} (ho : m.op = .trail i) (ht : a.trail[i]? = some (v, w)) :
    a.finish m = (a, [w, BitVec.ofNat 32 v]) := by
  simp [ClauseArray.finish, hd, ho, ht]

theorem ClauseArray.finish_trail_beyond {i : Nat} (ho : m.op = .trail i) (ht : a.trail.length ≤ i) :
    a.finish m = (a, [0xFFFFFFFF, 0xFFFFFFFF]) := by
  simp [ClauseArray.finish, hd, ho, ht]

theorem ClauseArray.finish_del {c : Nat} (ho : m.op = .del c) : a.finish m = ({ a with enabled := natErase a.enabled c }, []) := by
  simp [ClauseArray.finish, hd, ho]

end

theorem not_mem_natErase (l : List Nat) (k : Nat) : k ∉ natErase l k := by
  simp [natErase]

/-- Settles O40, from what each command does at its end; CABACK cuts the entries above its level off the trail's end. -/
theorem clauseCommandEffects : Obligations.ClauseCommandEffects := by
  unfold Obligations.ClauseCommandEffects
  refine fun a m w v i c l => ⟨ClauseArray.finish_done, fun hd => ⟨?decFree, ?decAssigned, ?back, ?backStays, ?val, ?trailEntry, ?trailBeyond, ?del⟩⟩
  case decFree =>
    intro ho hv hl
    rw [ClauseArray.finish_dec_free hd ho hv hl]
    exact ⟨rfl, rfl, rfl⟩
  case decAssigned =>
    intro ho hv
    rw [ClauseArray.finish_dec_assigned hd ho hv]
    exact ⟨rfl, rfl⟩
  case back =>
    intro ho hl
    rw [ClauseArray.finish_back hd ho, ClauseArray.backTo_trail hl]
    refine ⟨ClauseArray.backTo_level hl, _, List.rdropWhile_append_rtakeWhile.symm, fun e he => by simpa using List.mem_rtakeWhile_imp he, ?_⟩
    intro e he
    obtain ⟨hne, rfl⟩ := List.mem_getLast?_eq_getLast he
    simpa using List.rdropWhile_last_not _ _ hne
  case backStays =>
    intro ho hl
    rw [ClauseArray.finish_back hd ho, ClauseArray.backTo_stays hl]
  case val => exact ClauseArray.finish_val hd
  case trailEntry => exact fun v w => ClauseArray.finish_trail_entry hd
  case trailBeyond => exact ClauseArray.finish_trail_beyond hd
  case del =>
    intro ho
    rw [ClauseArray.finish_del hd ho]
    exact ⟨not_mem_natErase _ _, rfl, rfl⟩

end Sys2Proof.Machine
end

section
/-!
THEOREM. The CLAUSE instructions at issue (R255, R258 to R260).
-/

namespace Sys2Proof.Machine

/-! ### The shared issue of a CLAUSE command (R259) -/

section
variable {s : State} {c : Ctx} {i : Instr} {d : Dst} {op : Ctx → ClauseOp} (hi : issuing s i 1 = some c)
include hi

theorem issueClause_noArray (hk : s.heldArray c.cur.strand.owner c.t.grp = none) :
    issueClause i d op s = effOutcome i 1 c s (.trapAll 0x10 0 0) := by
  simp only [issueClause, issueWith_issuing _ hi, hk]

variable {k : Nat} {l : LCore} (hk : s.heldArray c.cur.strand.owner c.t.grp = some k)
  (hl : s.lcore? c.cur.strand.owner c.cur.strand.lcore = some l)
include hk hl

theorem issueClause_checkFault {e : Nat × Nat × DWord} (hc : clauseCheck l c.t.grp c.now (op c) = some e) :
    issueClause i d op s = effOutcome i 1 c s (.trapAll e.1 e.2.1 e.2.2) := by
  simp only [issueClause, issueWith_issuing _ hi, hk, hl, hc]

theorem issueClause_enters (hc : clauseCheck l c.t.grp c.now (op c) = none) :
    issueClause i d op s = effOutcome i 1 c s (.later (s.enterClause k (c.clauseCmd s.nextId (op c) d))) := by
  simp only [issueClause, issueWith_issuing _ hi, hk, hl, hc]

end

/-! ### CAOPEN (R255, R260) -/

theorem arrayThere_iff (s : State) (o k : Nat) : s.arrayThere o k = true ↔
    ∃ w, s.owner? o = some w ∧ k < w.orec.caq ∧ ∀ y, w.clusters[k]? = some y → y ∉ s.dev.noArrays := by
  cases ho : s.owner? o with
  | none => simp [State.arrayThere, ho]
  | some w => cases hy : w.clusters[k]? <;> simp [State.arrayThere, ho, hy]

section
variable {s : State} {c : Ctx} {x : XOps} (hi : issuing s (.caopen x) 1 = some c)
include hi

theorem exec_caopen_untimed (hu : s.untimed c.cur.strand.owner = true) :
    exec (.caopen x) s = effOutcome (.caopen x) 1 c s (.trapAll 0x10 0 0) := by
  simp only [exec_caopen, execCaopen, issueWith_issuing _ hi, hu, if_true]

variable (hu : s.untimed c.cur.strand.owner = false)
include hu

theorem exec_caopen_badClear (hb : 1 < (c.lane0 x.b).toNat) :
    exec (.caopen x) s = effOutcome (.caopen x) 1 c s (.trapAll 0x0F 9 0) := by
  have hb : 1 < c.n0 x.b := hb
  simp only [exec_caopen, execCaopen, issueWith_issuing _ hi, hu, hb, Bool.false_eq_true, if_true, if_false]

variable (hb : (c.lane0 x.b).toNat ≤ 1)
include hb

/-- HELD before ABSENT: both are reported at once (R260). -/
theorem exec_caopen_refused (h : (s.heldArray c.cur.strand.owner c.t.grp).isSome ∨ ¬ s.arrayThere c.cur.strand.owner (c.n0 x.a)) :
    exec (.caopen x) s = effOutcome (.caopen x) 1 c s
      (.result (s.modStrand c.cur.strand fun t => t.noteRefusal c.t.batch.toNat c.now) 4
        (c.fill x.d [if (s.heldArray c.cur.strand.owner c.t.grp).isSome then 3 else 2])) := by
  have hb : ¬ 1 < c.n0 x.b := Nat.not_lt.2 hb
  simp only [exec_caopen, execCaopen, issueWith_issuing _ hi, hu, hb, if_pos h, Bool.false_eq_true, if_false]

theorem exec_caopen_asks (hk : s.heldArray c.cur.strand.owner c.t.grp = none) (ha : s.arrayThere c.cur.strand.owner (c.n0 x.a) = true) :
    exec (.caopen x) s = effOutcome (.caopen x) 1 c s (.later (s.modOwner c.cur.strand.owner fun w => { w with
      opens := w.opens ++ [⟨c.n0 x.a, c.clauseCmd s.nextId (.open_ (c.n0 x.b == 1)) x.d, c.str, c.t.lclk⟩] })) := by
  have hb : ¬ 1 < c.n0 x.b := Nat.not_lt.2 hb
  simp only [exec_caopen, execCaopen, issueWith_issuing _ hi, hu, hb, hk, ha, Option.isSome_none, Bool.false_eq_true, not_true, or_self,
    if_false]

end

/-- Settles O27, from the cases of the shared issue and those of CAOPEN. -/
theorem clauseInstructionsComplete : Obligations.ClauseInstructionsComplete := by
  unfold Obligations.ClauseInstructionsComplete
  refine fun x k l e => ⟨fun r hr => ?commands, ?asks, ?absent, ?held, ?untimed, ?badClear⟩
  case commands =>
    have hx : ∀ s, exec r.1 s = issueClause r.1 r.2.1 r.2.2 s := by
      simp only [List.mem_cons, List.not_mem_nil, or_false] at hr
      rcases hr with rfl | rfl | rfl | rfl | rfl | rfl | rfl | rfl | rfl <;> exact fun _ => rfl
    exact ⟨fun s c hi ⟨⟨hk, hl⟩, hc⟩ => (hx s).trans (issueClause_enters hi hk hl hc),
      fun s c hi ⟨⟨hk, hl⟩, hc⟩ => (hx s).trans (issueClause_checkFault hi hk hl hc),
      fun s c hi hk => (hx s).trans (issueClause_noArray hi hk)⟩
  case asks =>
    rintro s c hi ⟨⟨⟨hu, hb⟩, hk⟩, hthere⟩
    exact exec_caopen_asks hi hu hb hk ((arrayThere_iff ..).2 (hthere.2 rfl))
  case absent =>
    rintro s c hi ⟨⟨⟨hu, hb⟩, hk⟩, hthere⟩
    have ha : ¬ s.arrayThere c.cur.strand.owner (c.n0 x.a) = true := fun h => Bool.false_ne_true (hthere.1 ((arrayThere_iff ..).1 h))
    rw [exec_caopen_refused hi hu hb (.inr ha), hk]
    rfl
  case held =>
    rintro s c hi ⟨⟨hu, hb⟩, hk⟩
    have hk := Option.isSome_iff_ne_none.2 hk
    rw [exec_caopen_refused hi hu hb (.inl hk), if_pos hk]
    rfl
  case untimed => exact fun s c hi hu => exec_caopen_untimed hi hu
  case badClear => exact fun s c hi ⟨hu, hb⟩ => exec_caopen_badClear hi hu hb

end Sys2Proof.Machine
end

section
/-!
SUPPORT. What the hardware's own stores, the interrupt log and a kill leave of host memory and of the accesses in flight (R39, R222 to R225,
R334, R470).
-/

namespace Sys2Proof.Machine

/-- No WLGET waits between two attempts. -/
def State.NoGets (s : State) : Prop := ∀ a ∈ s.accs, a.betweenGets = false

/-- Host memory is as it was, and so is the number of accesses in flight, unless a WLGET waits between two attempts: a kill ends it (R470). -/
structure State.KeepsAccs (s t : State) : Prop where
  hostMem : t.hostMem = s.hostMem
  accs : s.NoGets → t.NoGets ∧ t.accs.length = s.accs.length

/-- An access waits between two attempts by a lane of its own that does. -/
theorem betweenGets_of_lanes {a b : Acc} (hi : b.instr = a.instr) (hl : ∀ q ∈ b.lanes, ∀ d k, q.st = .retry d k → q ∈ a.lanes)
    (h : a.betweenGets = false) : b.betweenGets = false := by
  unfold Acc.betweenGets at h ⊢
  rw [hi]
  split at h
  · rw [List.any_eq_false] at h ⊢
    intro q hq
    cases hst : q.st with
    | retry d k => simpa [hst] using h q (hl q hq d k hst)
    | _ => exact Bool.false_ne_true
  · rfl

namespace State.KeepsAccs

theorem of_eq {s t : State} (hm : t.hostMem = s.hostMem) (ha : t.accs = s.accs) : s.KeepsAccs t :=
  ⟨hm, fun h => ⟨fun a m => h a (ha ▸ m), congrArg _ ha⟩⟩

theorem refl (s : State) : s.KeepsAccs s := of_eq rfl rfl

theorem trans {s t u : State} (h : s.KeepsAccs t) (k : t.KeepsAccs u) : s.KeepsAccs u where
  hostMem := k.hostMem.trans h.hostMem
  accs hs :=
    have ⟨ht, hn⟩ := h.accs hs
    have ⟨hu, hm⟩ := k.accs ht
    ⟨hu, hm.trans hn⟩

theorem ite {s t u : State} {p : Prop} [Decidable p] (h : s.KeepsAccs t) (k : s.KeepsAccs u) : s.KeepsAccs (if p then t else u) := by
  split
  · exact h
  · exact k

theorem foldl {α : Type} {f : State → α → State} (hf : ∀ (s : State) a, s.KeepsAccs (f s a)) (l : List α) (s : State) :
    s.KeepsAccs (l.foldl f s) := by
  induction l generalizing s with
  | nil => exact refl s
  | cons a l ih => exact (hf s a).trans (ih (f s a))

theorem modOwner {s : State} {o : Nat} {f : Owner → Owner} : s.KeepsAccs (s.modOwner o f) := of_eq rfl rfl

/-! ### Wakes (R222 to R225) -/

/-- Woken lanes leave an access that waits between no attempts as one that does not. -/
theorem betweenGets_wakeIn {ts : List Strand} {o lane due seq : Nat} {r : ParkRec} {b : Bool} {l : List Acc}
    (h : ∀ a ∈ l, a.betweenGets = false) : ∀ a ∈ wakeIn ts o r lane due seq b l, a.betweenGets = false := by
  intro a ha
  obtain ⟨a, hm, rfl⟩ := List.mem_map.1 ha
  refine betweenGets_of_lanes (a := a) rfl (fun q hq d k hst => ?_) (h a hm)
  obtain ⟨p, hp, rfl⟩ := List.mem_map.1 hq
  split at hst
  · cases hst
  · next hc => rwa [if_neg hc]

theorem wakeLane {s : State} {o lane : Nat} {r : ParkRec} {b : Bool} : s.KeepsAccs (s.wakeLane o r lane b) := by
  have hwoken {t : State} (hm : t.hostMem = s.hostMem) (ha : t.accs = wakeIn s.strands o r lane (s.lcNow o r.lcore + 64) s.nextId b s.accs) :
      s.KeepsAccs t :=
    ⟨hm, fun h => ⟨fun a => ha ▸ betweenGets_wakeIn h a, by rw [ha, wakeIn, List.length_map]⟩⟩
  unfold State.wakeLane
  dsimp only
  split
  · unfold State.wakeClock
    split <;> exact hwoken rfl rfl
  · exact hwoken rfl rfl

theorem wakeLanes {s : State} {o : Nat} {r : ParkRec} {ls : List Nat} {b : Bool} : s.KeepsAccs (s.wakeLanes o r ls b) :=
  foldl (fun _ _ => wakeLane) ls s

theorem wakeAllOf {s : State} {o va kind : Nat} {rs : List ParkRec} : s.KeepsAccs (wakeAllOf s o va kind rs).1 := by
  induction rs generalizing s with
  | nil => exact refl s
  | cons r rs ih =>
    unfold Machine.wakeAllOf
    split
    · exact wakeLanes.trans ih
    · exact ih

theorem wakeFirstOf {s : State} {o va kind : Nat} {rs : List ParkRec} : s.KeepsAccs (wakeFirstOf s o va kind rs).1 := by
  unfold Machine.wakeFirstOf
  split
  · exact refl s
  · split
    · exact refl s
    · exact wakeLanes

theorem wakeOf {s : State} {o va : Nat} {was now wrote : Bool} {rs : List ParkRec} : s.KeepsAccs (wakeOf s o va was now wrote rs).1 := by
  have hbit : s.KeepsAccs (if !was && now then Machine.wakeFirstOf (Machine.wakeAllOf s o va 0 rs).1 o va 1 (Machine.wakeAllOf s o va 0 rs).2
      else if was && !now then Machine.wakeFirstOf s o va 2 rs else (s, rs)).1 := by
    split
    · exact wakeAllOf.trans wakeFirstOf
    · split
      · exact wakeFirstOf
      · exact refl s
  unfold Machine.wakeOf
  dsimp only
  split
  · exact hbit.trans wakeAllOf
  · exact hbit

theorem wakeWord {s : State} {o va : Nat} {was now wrote : Bool} : s.KeepsAccs (s.wakeWord o va was now wrote) := by
  unfold State.wakeWord
  split
  · exact refl s
  · exact ite wakeOf (wakeOf.trans (of_eq rfl rfl))
  · exact wakeOf

/-! ### Stores of the hardware -/

theorem setBit {s : State} {o va pa : Nat} {full wrote commons : Bool} : s.KeepsAccs (s.setBit o va pa full wrote commons) := by
  have hbit : s.KeepsAccs (if s.isFull (pa / 4) = full then s else s.setFull (pa / 4) full) := ite (refl s) (of_eq rfl rfl)
  exact ite hbit (hbit.trans wakeWord)

theorem store {s : State} {o va pa : Nat} {bs : List Byte} {full : Option Bool} {commons : Bool} {hz : Option Hz} :
    s.KeepsAccs (s.store o va pa bs full commons hz) := by
  have hput : s.KeepsAccs (s.putBytes pa bs) := of_eq rfl rfl
  have hstale (t : State) : t.KeepsAccs (t.staleWindows pa bs.length) := of_eq rfl rfl
  refine (hput.trans (foldl (fun t i => ?_) (wordsIn va bs.length) _)).trans (hstale _)
  have hhz : t.KeepsAccs (if full.getD (t.isFull ((pa / 4 * 4 + i) / 4)) then
    { t with feHz := tblSet none t.feHz ((pa / 4 * 4 + i) / 4) hz } else t) := ite (of_eq rfl rfl) (refl t)
  exact hhz.trans setBit

theorem hwStore {s t : State} {o va : Nat} {bs : List Byte} (h : s.hwStore o va bs = some t) : s.KeepsAccs t := by
  obtain ⟨r, -, rfl⟩ := Option.map_eq_some_iff.1 h
  exact foldl (fun _ _ => store) r s

theorem tryStore {s t : State} {o va : Nat} {bs : List Byte} (h : s.tryStore o va bs = .ok t) : s.KeepsAccs t := by
  unfold State.tryStore at h
  split at h
  · next hs =>
    cases h
    exact hwStore hs
  · cases h

/-! ### The interrupt log (R334 to R337) -/

theorem message {s : State} {o : Nat} : s.KeepsAccs (s.message o) := by
  unfold State.message
  split
  · exact refl s
  · exact ite modOwner (ite (of_eq rfl rfl) (refl s))

/-- What a successful store is followed by. -/
theorem of_map_tryStore {α : Type} {s : State} {o va : Nat} {bs : List Byte} {f : State → α} {v : α}
    (h : (s.tryStore o va bs).map f = .ok v) : ∃ t, s.KeepsAccs t ∧ v = f t := by
  cases hs : s.tryStore o va bs with
  | error e =>
    rw [hs] at h
    cases h
  | ok t =>
    rw [hs] at h
    cases h
    exact ⟨t, tryStore hs, rfl⟩

theorem logPlace {s : State} {r : LogRec} {v : State × Bool} (h : s.logPlace r = .ok v) : s.KeepsAccs v.1 := by
  cases hw : s.owner? r.owner with
  | none =>
    simp only [State.logPlace, hw] at h
    cases h
    exact refl s
  | some w =>
    simp only [State.logPlace, hw] at h
    split at h
    · cases h
      exact of_eq rfl rfl
    · split at h
      · cases h
      · split at h
        all_goals
          obtain ⟨t, ht, rfl⟩ := of_map_tryStore h
          exact ht.trans modOwner

theorem logPublish {s t : State} {o : Nat} (h : s.logPublish o = .ok t) : s.KeepsAccs t := by
  unfold State.logPublish at h
  split at h
  · cases h
    exact refl s
  · obtain ⟨u, hu, rfl⟩ := of_map_tryStore h
    exact hu.trans message

theorem logStore {s t : State} {r : LogRec} (h : s.logStore r = .ok t) : s.KeepsAccs t := by
  unfold State.logStore at h
  split at h
  · next hp => exact (logPlace hp).trans (logPublish h)
  · next hp =>
    cases h
    exact logPlace hp
  · cases h

theorem logKeep {s : State} {r : LogRec} : s.KeepsAccs (s.logKeep r).1 := by
  have hkept : s.KeepsAccs { s.freeze r.owner (.record 0) with log := s.log ++ [r] } := of_eq rfl rfl
  unfold State.logKeep
  dsimp only
  split
  · exact hkept
  · split
    · next hs => exact logStore hs
    · exact hkept

theorem storeFault {s : State} {o id va : Nat} : s.KeepsAccs (s.storeFault o id va) := by
  unfold State.storeFault
  split
  · exact refl s
  · next w _ =>
    have hfrozen : s.KeepsAccs ({ s with freeN := s.freeN + 1 }.freeze o (.record id)) := of_eq rfl rfl
    exact hfrozen.trans logKeep

theorem logEvent {s : State} {r : LogRec} : s.KeepsAccs (s.logEvent r) := by
  have hk := logKeep (s := s) (r := r)
  unfold State.logEvent
  split
  · exact refl s
  · split
    · next h =>
      rw [h] at hk
      exact ite hk (hk.trans storeFault)
    · next h =>
      rw [h] at hk
      exact hk

theorem logRecord {s : State} {o type aux stamp : Nat} {par : List Nat} : s.KeepsAccs (s.logRecord o type aux stamp par) := by
  unfold State.logRecord
  split
  · exact refl s
  · exact logEvent

/-! ### A kill (R39) -/

theorem betweenGets_kill {now : Nat} {a : Acc} (h : a.betweenGets = false) : (a.kill now).betweenGets = false := by
  refine betweenGets_of_lanes (a := a) rfl (fun q hq d k hst => ?_) h
  obtain ⟨p, hp, rfl⟩ := List.mem_map.1 hq
  split at hst
  · next hc => rwa [if_pos hc]
  · cases hst

/-- The accesses that a kill leaves. -/
theorem killStrand_accs (s : State) (i : StrandId) : ∃ now, (s.killStrand i).accs =
    modWhere (s.accs.filter fun a => !(a.strand == i && a.betweenGets)) (fun a => a.strand == i) (Acc.kill now) := by
  unfold State.killStrand
  dsimp only
  split
  · exact ⟨_, by rw [gsyncCheck_accs, modLcore_accs, modStrand_accs, undoDispose_accs]⟩
  · exact ⟨_, by rw [modLcore_accs, modStrand_accs, undoDispose_accs]⟩

theorem killStrand {s : State} {i : StrandId} : s.KeepsAccs (s.killStrand i) where
  hostMem := killStrand_hostMem s i
  accs h := by
    have hall : (s.accs.filter fun a => !(a.strand == i && a.betweenGets)) = s.accs :=
      List.filter_eq_self.2 fun a ha => by simp [h a ha]
    obtain ⟨now, hk⟩ := killStrand_accs s i
    rw [State.NoGets, hk, hall]
    refine ⟨fun b hb => ?_, List.length_map _⟩
    obtain ⟨a, ha, rfl⟩ := List.mem_map.1 hb
    split
    · exact betweenGets_kill (h a ha)
    · exact h a ha

end State.KeepsAccs

end Sys2Proof.Machine
end

section
/-!
THEOREM. The distributor, JOIN, cancellation and stranding (R276 to R280, R283, R286, R291).
-/

namespace Sys2Proof.Machine

/-! ### The distributor (R277 to R280) -/

/-- Memory, the logical cores and the accesses in flight are as they were: the distributor changes owners, groups and strands only. -/
structure State.KeepsEngines (s t : State) : Prop where
  mem : t.mem = s.mem
  lcores : t.lcores = s.lcores
  accs : t.accs = s.accs

namespace State.KeepsEngines

theorem refl (s : State) : s.KeepsEngines s := ⟨rfl, rfl, rfl⟩

theorem trans {s t u : State} (h : s.KeepsEngines t) (k : t.KeepsEngines u) : s.KeepsEngines u :=
  ⟨k.mem.trans h.mem, k.lcores.trans h.lcores, k.accs.trans h.accs⟩

theorem modOwner {s : State} {o : Nat} {f : Owner → Owner} : s.KeepsEngines (s.modOwner o f) := ⟨rfl, rfl, rfl⟩

theorem fresh {s : State} : s.KeepsEngines s.fresh := ⟨rfl, rfl, rfl⟩

theorem ite {s t u : State} {p : Prop} [Decidable p] (h : s.KeepsEngines t) (k : s.KeepsEngines u) :
    s.KeepsEngines (if p then t else u) := by
  split
  · exact h
  · exact k

theorem placeGroup {s : State} {o lc now n : Nat} {l : Launch} : s.KeepsEngines (s.placeGroup o lc now l n) := ⟨rfl, rfl, rfl⟩

theorem placeNext {s : State} {o now id : Nat} : s.KeepsEngines (s.placeNext o now id) := by
  unfold State.placeNext
  split
  · exact refl s
  · split
    · exact refl s
    · exact placeGroup.trans modOwner

end State.KeepsEngines

section
variable {s : State} {o now : Nat} {w : Owner} (hw : s.owner? o = some w) (hn : s.ownerNow o = some now)
include hw hn

theorem exec_distributorStep_frame {act : DistAct} (hd : w.dist.next ≤ now) (ha : s.distAct w now = some act) :
    ∃ t, exec (.distributorStep o) s = .next t ∧ s.KeepsEngines t := by
  simp only [exec_distributorStep, execDistributorStep, hw, hn, Nat.not_lt.2 hd, ha, if_false]
  refine ⟨_, rfl, ?_⟩
  cases act with
  | discard id => exact .modOwner
  | again id number lc =>
    dsimp only
    split
    · exact (State.KeepsEngines.modOwner.trans .placeGroup).trans .modOwner
    · exact .modOwner
  | place id lc => exact .trans .modOwner .placeNext
  | choose id =>
    dsimp only
    split
    · exact .ite .modOwner ((State.KeepsEngines.modOwner.trans .modOwner).trans .placeNext)
    · exact .modOwner
  | read a => exact .trans .modOwner .modOwner

theorem exec_distributorStep_read {addr : Nat} (hd : w.dist.next ≤ now) (ha : s.distAct w now = some (.read addr)) :
    exec (.distributorStep o) s = .next ((s.modOwner o (·.stepTaken now)).modOwner o fun w => { w with
      dist := { w.dist with read := some (addr, now + 400) } }) := by
  simp only [exec_distributorStep, execDistributorStep, hw, hn, Nat.not_lt.2 hd, ha, if_false]

omit hw hn in
/-- A test goes on to a state of which `Q` holds where both its branches do. -/
theorem reaches_ite {p : Prop} [Decidable p] {a b : Host.Outcome State Fault Refusal} {Q : State → Prop} (ha : ∃ t, a = .next t ∧ Q t)
    (hb : ∃ t, b = .next t ∧ Q t) : ∃ t, (if p then a else b) = .next t ∧ Q t := by
  split
  · exact ha
  · exact hb

theorem exec_overflowRecordRead_frame {addr due : Nat} (hr : w.dist.read = some (addr, due)) (hd : due ≤ now) :
    ∃ t, exec (.overflowRecordRead o) s = .next t ∧ s.KeepsEngines t := by
  simp -zeta only [exec_overflowRecordRead, execOverflowRecordRead, hw, hn, hr, Nat.not_lt.2 hd, if_false]
  refine reaches_ite ⟨_, rfl, .modOwner⟩ ?_
  cases s.overflowHead w with
  | none => exact ⟨_, rfl, .trans .modOwner .modOwner⟩
  | some bs =>
    have htaken {f g : Owner → Owner} : s.KeepsEngines ((s.modOwner o f).modOwner o g) := .trans .modOwner .modOwner
    have hstep {p : Prop} [Decidable p] {f g h : Owner → Owner} : s.KeepsEngines
        (if p then ((s.modOwner o f).modOwner o g).modOwner o h else (s.modOwner o f).modOwner o g) := .ite (htaken.trans .modOwner) htaken
    exact reaches_ite ⟨_, rfl, htaken⟩ (reaches_ite ⟨_, rfl, .ite (hstep.trans .modOwner) hstep⟩ (reaches_ite ⟨_, rfl, hstep⟩
      (reaches_ite ⟨_, rfl, htaken.trans .modOwner⟩ ⟨_, rfl, .ite (((hstep.trans .fresh).trans .modOwner).trans .placeNext)
        ((hstep.trans .fresh).trans .modOwner)⟩)))

end

/-! ### JOIN (R283) -/

section
variable {s : State} {i : StrandId} {t : Strand} {w : Owner} {x : XOps} {id since : Nat} {k : DWord} (ht : s.strand? i = some t)
  (hj : t.ctl.wait = some ⟨.join x, id, [k], since⟩) (hw : s.owner? i.owner = some w)
include ht hj hw

theorem exec_joinObserveZero_zero (hr : t.res = .here) (hc : (w.before k.toNat).count = 0) : exec (.joinObserveZero i) s =
    .next (s.complete ⟨i, none⟩ (some 4) fun c => c.fill x.d [(w.before k.toNat).word false]) := by
  have hwait : waitOf s ⟨i, none⟩ = some ⟨.join x, id, [k], since⟩ := by
    rw [waitOf_eq, ht]
    exact hj
  simp only [exec_joinObserveZero, execJoinObserveZero, ht, hwait, hw, hr, hc, ne_eq, not_true, or_self, if_false]

theorem exec_joinSwapOut_pending (hs : w.jswap ≠ 0) (hr : t.res = .here) (hd : since + w.jswap.toNat ≤ s.lcNow i.owner i.lcore)
    (hc : (w.before k.toNat).count ≠ 0) (hn : s.swapped i.owner i.lcore < 32) (hq : s.quietAt t (some id) = true) (hb : t.quietBy = none)
    (ha : w.jswapAt = none ∨ w.jswapAt ≠ s.ownerNow i.owner) : exec (.joinSwapOut i) s = .next (s.beginLeave t true) := by
  have hat : ¬ (w.jswapAt.isSome = true ∧ w.jswapAt = s.ownerNow i.owner) := by
    rintro ⟨hsome, heq⟩
    exact ha.elim (Option.isSome_iff_ne_none.1 hsome) (· heq)
  simp only [exec_joinSwapOut, execJoinSwapOut, ht, hw, join?_eq hj, hr, hs, Nat.not_lt.2 hd, hc, Nat.not_le.2 hn, hq, hb, hat, ne_eq, not_true,
    Option.isSome_none, Bool.false_eq_true, or_self, if_false]

end

/-- Bringing back what lies in the spill area reads memory, and asks the owner's own fabric provision for it (R324). -/
theorem spillRead_mem_accs (s : State) (o lc off n k : Nat) :
    (s.spillRead o lc off n k).1.mem = s.mem ∧ (s.spillRead o lc off n k).1.accs = s.accs := by
  unfold State.spillRead
  split
  · exact ⟨rfl, rfl⟩
  · dsimp only
    split
    · exact ⟨rfl, rfl⟩
    · exact ⟨bindFor_mem .., bindFor_accs ..⟩

theorem spillIn_mem_accs (s : State) (t : Strand) : (s.spillIn t).mem = s.mem ∧ (s.spillIn t).accs = s.accs := by
  unfold State.spillIn
  split
  · exact ⟨rfl, rfl⟩
  · exact spillRead_mem_accs ..

theorem beginReturn_mem_accs (s : State) (t : Strand) : (s.beginReturn t).mem = s.mem ∧ (s.beginReturn t).accs = s.accs := by
  unfold State.beginReturn
  split
  · exact spillIn_mem_accs s t
  · exact ⟨rfl, rfl⟩

theorem exec_joinSwapIn_frame {s : State} {i : StrandId} {t : Strand} {w : Owner} {x : XOps} {id since now : Nat} {k : DWord}
    (ht : s.strand? i = some t) (hj : t.ctl.wait = some ⟨.join x, id, [k], since⟩) (hw : s.owner? i.owner = some w)
    (hn : s.ownerNow i.owner = some now) (hr : t.res = .out) (ho : t.joinOut = true) (hc : (w.before k.toNat).count = 0)
    (hd : w.dist.next ≤ now) (hm : s.roomFor t = true) : ∃ u, exec (.joinSwapIn i) s = .next u ∧ u.mem = s.mem ∧ u.accs = s.accs := by
  simp only [exec_joinSwapIn, execJoinSwapIn, ht, hw, hn, join?_eq hj, hr, ho, hc, Nat.not_lt.2 hd, hm, ne_eq, not_true, or_self, if_false]
  exact ⟨_, rfl, (beginReturn_mem_accs _ t).1, (beginReturn_mem_accs _ t).2⟩

/-! ### Cancelled strands (R286) -/

section
variable {s : State} {i : StrandId} {t : Strand} (ht : s.strand? i = some t) (hk : t.killed = false)
include ht hk

theorem exec_cancelStrandStop_quiet (hb : t.quietBy ≠ none) (hc : t.cst = .run) (hr : t.res = .here) (hq : s.quietAt t none = true) :
    exec (.cancelStrandStop i) s = .next (s.stopStrand i) := by
  simp only [exec_cancelStrandStop, execCancelStrandStop, ht, Option.isSome_iff_ne_none.2 hb, hk, hc, hr, hq, Bool.false_eq_true,
    not_false_eq_true, and_self, if_true]

theorem exec_cancelQtimeoutKill_over {due : Nat} (hb : t.quietBy = some due) (hd : due ≤ s.lcNow i.owner i.lcore)
    (hl : t.cst ≠ .exited ∨ ∃ g ∈ t.sets, g.st ≠ .stopped) : exec (.cancelQtimeoutKill i) s = .next (s.killStrand i) := by
  have hlive : ¬ (t.cst = .exited ∧ t.sets.all (·.st == .stopped) = true) := by
    rintro ⟨hexit, hall⟩
    obtain hc | ⟨g, hg, hst⟩ := hl
    · exact hc hexit
    · exact hst (beq_iff_eq.1 (List.all_eq_true.1 hall g hg))
  simp only [exec_cancelQtimeoutKill, execCancelQtimeoutKill, ht, hb, Nat.not_lt.2 hd, hk, hlive, Bool.false_eq_true, or_self, if_false]

end

/-! ### Stranded launches (R291) -/

theorem exec_strandedDetect_frame {s : State} {o comp now due : Nat} {w : Owner} {l : Launch} (hw : s.owner? o = some w)
    (hn : s.ownerNow o = some now) (hl : (w.launches.find? fun l => l.lrec.comp == comp && l.parked.isSome) = some l)
    (hp : l.parked = some due) (hd : due + 65536 ≤ now) : ∃ t, exec (.strandedDetect o comp) s = .next t ∧ s.KeepsAccs t := by
  simp only [exec_strandedDetect, execStrandedDetect, hw, hn, hl, hp, Option.getD_some, Nat.not_lt.2 hd, if_false]
  exact ⟨_, rfl, (State.KeepsAccs.foldl (fun _ _ => .trans .logRecord .killStrand) _ s).trans .modOwner⟩

/-- Settles O41: one lemma to a row; a stranded launch's records and kills keep what `State.KeepsAccs` says. -/
theorem distributorJoinAndCancelSteps : Obligations.DistributorJoinAndCancelSteps := by
  unfold Obligations.DistributorJoinAndCancelSteps
  refine fun o comp now addr due i t w x id since k act l => ⟨?step, ?read, ?record, ⟨?zero, ?out, ?back⟩, ?stop, ?kill, ?stranded⟩
  case step =>
    rintro s ⟨⟨hw, hn⟩, hd, ha⟩
    obtain ⟨u, hu, hk⟩ := exec_distributorStep_frame hw hn hd ha
    exact ⟨u, hu, hk.mem, hk.lcores, hk.accs⟩
  case read => exact fun s ⟨⟨hw, hn⟩, hd, ha⟩ => exec_distributorStep_read hw hn hd ha
  case record =>
    rintro s ⟨⟨hw, hn⟩, hr, hd⟩
    obtain ⟨u, hu, hk⟩ := exec_overflowRecordRead_frame hw hn hr hd
    exact ⟨u, hu, hk.mem, hk.lcores⟩
  case zero => exact fun s ⟨⟨ht, hj, hw⟩, hr, hc⟩ => exec_joinObserveZero_zero ht hj hw hr hc
  case out =>
    exact fun s ⟨⟨ht, hj, hw⟩, hs, hr, hd, hc, hn, hq, hb, ha⟩ => exec_joinSwapOut_pending ht hj hw hs hr hd hc hn hq hb ha
  case back => exact fun s ⟨⟨ht, hj, hw⟩, hn, hr, ho, hc, hd, hm⟩ => exec_joinSwapIn_frame ht hj hw hn hr ho hc hd hm
  case stop => exact fun s ⟨ht, hb, hk, hc, hr, hq⟩ => exec_cancelStrandStop_quiet ht hk hb hc hr hq
  case kill => exact fun s ⟨ht, hb, hd, hk, hl⟩ => exec_cancelQtimeoutKill_over ht hk hb hd hl
  case stranded =>
    rintro s ⟨⟨hw, hn⟩, hl, hp, hd⟩
    obtain ⟨u, hu, hk⟩ := exec_strandedDetect_frame hw hn hl hp hd
    exact ⟨u, hu, fun h => (hk.accs h).2, hk.hostMem⟩

end Sys2Proof.Machine
end

section
/-!
THEOREM. JOIN, CNTRD and CANCEL at issue (R271 to R273, R282 to R286).
-/

namespace Sys2Proof.Machine

section
variable {s : State} {c : Ctx} {x : XOps} {w : Owner} (hw : s.owner? c.cur.strand.owner = some w)
include hw

theorem badCounter_within (h : (c.lane0 x.a).toNat ≤ 4095 ∧ (c.lane0 x.a).toNat < w.orec.ctrq) :
    badCounter s c.cur.strand.owner (c.n0 x.a) = false := by
  have hin : ¬ (4095 < c.n0 x.a ∨ w.orec.ctrq ≤ c.n0 x.a) := not_or.2 ⟨Nat.not_lt.2 h.1, Nat.not_le.2 h.2⟩
  simp only [badCounter, hw, hin, decide_false]

theorem badCounter_beyond (h : 4095 < (c.lane0 x.a).toNat ∨ w.orec.ctrq ≤ (c.lane0 x.a).toNat) :
    badCounter s c.cur.strand.owner (c.n0 x.a) = true := by
  simp only [badCounter, hw]
  exact decide_eq_true h

end

/-- A counter number beyond the table or the owner's quota is a trap of each of the three (R271, R324). -/
theorem exec_counter_beyond {s : State} {c : Ctx} {x : XOps} {level : CLevel} {i : Instr} (hi : issuing s i 1 = some c)
    (hb : badCounter s c.cur.strand.owner (c.n0 x.a) = true) (hm : i ∈ ([.join x, .cntrd x level, .cancel x level] : List Instr)) :
    exec i s = effOutcome i 1 c s (.trapAll 0x08 0 (BitVec.ofNat 64 (c.n0 x.a))) := by
  simp only [List.mem_cons, List.not_mem_nil, or_false] at hm
  obtain rfl | rfl | rfl := hm
  · exact exec_of_effect exec_join hi (if_pos hb)
  · exact exec_of_effect exec_cntrd hi (if_pos hb)
  · exact exec_of_effect exec_cancel hi (if_pos hb)

/-- The word of a counter's parent: bit 12 says that there is one (R284). -/
def Counter.parentWord (y : Counter) : Word :=
  match y.parent with
  | some p => BitVec.ofNat 32 (p + 4096)
  | none => 0

/-- A counter in use that stands at another level than the instruction names (R284). -/
theorem Counter.decide_misses (y : Counter) (n : Nat) : decide (y.count ≠ 0 ∧ y.level ≠ n) = (y.count != 0 && y.level != n) := by
  rw [Bool.decide_and, decide_not, decide_not]
  rfl

section
variable {s : State} {c : Ctx} {x : XOps} (hb : badCounter s c.cur.strand.owner (c.n0 x.a) = false)
include hb

section
variable (hi : issuing s (.join x) 1 = some c) {w : Owner} {g : Group} (hw : s.owner? c.cur.strand.owner = some w)
  (hg : s.group? c.t.grp = some g)
include hi hw hg

theorem exec_join_own (hr : reaches w (c.n0 x.a) chainFuel g.comp = true) :
    exec (.join x) s = effOutcome (.join x) 1 c s (.trapAll 0x09 0 (BitVec.ofNat 64 (c.n0 x.a))) :=
  exec_of_effect exec_join hi <| by simp only [hb, hw, hg, hr, Bool.false_eq_true, if_false, if_true]

variable (hr : reaches w (c.n0 x.a) chainFuel g.comp = false)
include hr

theorem exec_join_zero (hc : (w.before (c.n0 x.a)).count = 0) : exec (.join x) s =
    effOutcome (.join x) 1 c s (.result s 4 (c.fill x.d [(w.before (c.n0 x.a)).word false])) :=
  exec_of_effect exec_join hi <| by simp only [hb, hw, hg, hr, hc, Bool.false_eq_true, if_false, if_true]

theorem exec_join_pending (hc : (w.before (c.n0 x.a)).count ≠ 0) : exec (.join x) s =
    effOutcome (.join x) 1 c s (.wait s [BitVec.ofNat 64 (c.n0 x.a)]) :=
  exec_of_effect exec_join hi <| by simp only [hb, hw, hg, hr, hc, Bool.false_eq_true, if_false]

end

theorem exec_cntrd_word {level : CLevel} (hi : issuing s (.cntrd x level) 1 = some c) {w : Owner}
    (hw : s.owner? c.cur.strand.owner = some w) : exec (.cntrd x level) s = effOutcome (.cntrd x level) 1 c s (.result s 4 (c.fill x.d
      [(w.before (c.n0 x.a)).word (decide ((w.before (c.n0 x.a)).count ≠ 0 ∧ (w.before (c.n0 x.a)).level ≠ level.code)),
        (w.before (c.n0 x.a)).parentWord])) := by
  rw [Counter.decide_misses]
  refine exec_of_effect exec_cntrd hi ?_
  simp only [hb, hw, Bool.false_eq_true, if_false]
  rfl

theorem exec_cancel_status {level : CLevel} (hi : issuing s (.cancel x level) 1 = some c) : exec (.cancel x level) s =
    effOutcome (.cancel x level) 1 c s (.result (s.cancel c.cur.strand.owner level.code (c.n0 x.a)).1 4
      (c.fill x.d [BitVec.ofNat 32 (s.cancel c.cur.strand.owner level.code (c.n0 x.a)).2])) :=
  exec_of_effect exec_cancel hi <| by simp only [hb, Bool.false_eq_true, if_false]

end

/-- Settles O28, from the cases of each effect: a number beyond the quota, JOIN's three answers, CNTRD's words and CANCEL's status. -/
theorem counterInstructionsComplete : Obligations.CounterInstructionsComplete := by
  unfold Obligations.CounterInstructionsComplete
  refine fun x level w g => ⟨?zero, ?pending, ?own, ?cntrd, ?cancel, ?beyond⟩
  case zero => exact fun s c hi ⟨⟨hw, hg, hk⟩, hr, hc⟩ => exec_join_zero (badCounter_within hw hk) hi hw hg hr hc
  case pending => exact fun s c hi ⟨⟨hw, hg, hk⟩, hr, hc⟩ => exec_join_pending (badCounter_within hw hk) hi hw hg hr hc
  case own => exact fun s c hi ⟨⟨hw, hg, hk⟩, hr⟩ => exec_join_own (badCounter_within hw hk) hi hw hg hr
  case cntrd => exact fun s c hi ⟨hw, _, hk⟩ => exec_cntrd_word (badCounter_within hw hk) hi hw
  case cancel => exact fun s c hi ⟨hw, _, hk⟩ => exec_cancel_status (badCounter_within hw hk) hi
  case beyond => exact fun i hm s c hi ⟨hw, hk⟩ => exec_counter_beyond hi (badCounter_beyond hw hk) hm

end Sys2Proof.Machine
end

section
/-!
THEOREM. LAUNCH, WLPUT and WLGET at issue (R276, R287 to R289, R470).
-/

namespace Sys2Proof.Machine

/-! ### The act cycle of an access that acts as a whole (R213, R247) -/

theorem le_foldl_max (l : List Nat) (d : Nat) : d ≤ l.foldl max d := by
  induction l generalizing d with
  | nil => exact le_rfl
  | cons x l ih => exact (le_max_left d x).trans (ih _)

theorem foldl_max_of_le {l : List Nat} {d : Nat} (h : ∀ x ∈ l, x ≤ d) : l.foldl max d = d := by
  induction l with
  | nil => rfl
  | cons x l ih =>
    obtain ⟨hx, hl⟩ := List.forall_mem_cons.1 h
    rw [List.foldl_cons, max_eq_left hx, ih hl]

/-- An access with one act cycle for all its lanes. -/
def Acc.actsAt (a : Acc) (d : Nat) : Acc := { a with due := d, lanes := a.lanes.map fun l => { l with due := d } }

/-- An access that acts as a whole does so no earlier than when it is due, and then where its strand has none in flight before it. -/
theorem ordered_whole {s : State} {a : Acc} (hw : actsWhole a.instr = true) :
    ∃ d, s.ordered a = a.actsAt d ∧ a.due ≤ d ∧ ((∀ b ∈ s.accs, b.strand ≠ a.strand) → d = a.due) := by
  simp only [State.ordered, Acc.level, hw, if_true, List.map_map]
  refine ⟨_, rfl, le_foldl_max _ _, fun hn => ?_⟩
  have hnone : s.accs.filter (·.precedes a) = [] := List.filter_eq_nil_iff.2 fun b hb => by simp [Acc.precedes, hn b hb]
  rw [hnone]
  refine foldl_max_of_le fun x hx => ?_
  obtain ⟨l, -, rfl⟩ := List.mem_map.1 hx
  exact le_rfl

/-! ### LAUNCH (R276) -/

/-- The access of a LAUNCH is due 400 owner cycles after its issue, or 2,000 where the record ends beyond its window (R213, R276). -/
def launchDue (s : State) (c : Ctx) (x : XOps) (w : WinSlot) : Nat :=
  c.now + (if c.n0 x.b + 64 ≤ w.limit then 400 else 2000) + (if s.untimed c.cur.strand.owner then Config.untimedDelay s.freeN else 0)

/-- The access of a LAUNCH: the record's 64 bytes, as one lane of the control slice. -/
def launchAcc (s : State) (c : Ctx) (x : XOps) (w : WinSlot) : Acc :=
  ⟨s.nextId, c.cur.strand, none, c.t.grp, c.str.pc, 0, .launch x,
    [⟨0, w.base + c.n0 x.b, [BitVec.ofNat 32 (maskOf c.lanes)], .todo, [], 0, launchDue s c x w, 0, []⟩], some w, decide (1 ≤ c.t.priv),
    launchDue s c x w, if s.untimed c.cur.strand.owner then 1 else 0, false, false, false, c.now⟩

section
variable {s : State} {c : Ctx} {x : XOps} (hi : issuing s (.launch x) 1 = some c)
include hi

theorem exec_launch_stale (hw : windowOf s c.t.grp c.now (c.lane0 x.a) = none) :
    exec (.launch x) s = effOutcome (.launch x) 1 c s (.trapAll 0x07 0 ((c.lane0 x.a).setWidth 64)) :=
  exec_of_effect exec_launch hi <| by simp only [hw]

variable {w : WinSlot} (hw : windowOf s c.t.grp c.now (c.lane0 x.a) = some w)
include hw

theorem exec_launch_misaligned (ha : c.n0 x.b % 64 ≠ 0) :
    exec (.launch x) s = effOutcome (.launch x) 1 c s (.trapAll 0x06 0 (BitVec.ofNat 64 (w.base + c.n0 x.b))) :=
  exec_of_effect exec_launch hi <| by simp only [hw, ne_eq, ha, not_false_eq_true, if_true]

variable (ha : c.n0 x.b % 64 = 0)
include ha

theorem exec_launch_beyond (hb : 2 ^ 56 < w.base + c.n0 x.b + 64) :
    exec (.launch x) s = effOutcome (.launch x) 1 c s (.trapAll 0x08 0 (BitVec.ofNat 64 (w.base + c.n0 x.b))) :=
  exec_of_effect exec_launch hi <| by simp only [hw, ne_eq, ha, not_true, if_false, gt_iff_lt, hb, if_true]

theorem exec_launch_enters (hb : w.base + c.n0 x.b + 64 ≤ 2 ^ 56) : ∃ (d : Nat) (u : State),
    exec (.launch x) s = .next (u.issuedPlain c (.launch x)) ∧ u.mem = s.mem ∧
    u.accs = s.accs ++ [(launchAcc s c x w).actsAt d] ∧ launchDue s c x w ≤ d ∧
    ((∀ b ∈ s.accs, b.strand ≠ c.cur.strand) → d = launchDue s c x w) := by
  obtain ⟨u, hu⟩ : ∃ u, s.bindFor c.cur.strand.owner c.cur.strand.lcore c.now 64 = u := ⟨_, rfl⟩
  have hmem : u.mem = s.mem := hu ▸ bindFor_mem ..
  have haccs : u.accs = s.accs := hu ▸ bindFor_accs ..
  obtain ⟨d, hd, hle, heq⟩ := ordered_whole (s := u) (a := launchAcc s c x w) rfl
  rw [haccs] at heq
  refine ⟨d, { u with
      accs := u.accs ++ [(launchAcc s c x w).actsAt d]
      freeN := if s.untimed c.cur.strand.owner then u.freeN + 1 else u.freeN },
    exec_of_effect (e := .later _) exec_launch hi ?_, hmem, congrArg (· ++ _) haccs, hle, heq⟩
  rw [← hd]
  simp only [hw, ne_eq, ha, not_true, gt_iff_lt, Nat.not_lt.2 hb, hu, if_false]
  rfl

end

section
variable {s : State} {c : Ctx} {x : XOps} {w : WinSlot}

theorem le_launchDue : c.now + 400 ≤ launchDue s c x w := by
  unfold launchDue
  split <;> omega

theorem launchDue_timed (hu : s.untimed c.cur.strand.owner = false) :
    launchDue s c x w = c.now + if c.n0 x.b + 64 ≤ w.limit then 400 else 2000 := by
  simp only [launchDue, hu, Bool.false_eq_true, if_false, Nat.add_zero]

end

/-! ### WLPUT and WLGET (R287 to R289, R470) -/

/-- An access to a work list is due 480 owner cycles after its issue (R213, R287). -/
def listDue (s : State) (c : Ctx) : Nat := c.now + 480 + (if s.untimed c.cur.strand.owner then Config.untimedDelay s.freeN else 0)

/-- The access of an instruction to the work list `k`, with the items `data` of its lanes; `code` names a WLGET's set. -/
def listAcc (s : State) (c : Ctx) (i : Instr) (k code : Nat) (data : Nat → List Word) : Acc :=
  ⟨s.nextId, c.cur.strand, c.cur.set, c.t.grp, c.str.pc, (s.turn.map (·.slot)).getD 0, i,
    c.lanes.map fun l => ⟨l, k, data l, .todo, [], code, listDue s c, 0, []⟩, none, decide (1 ≤ c.t.priv), listDue s c, 0, false, false,
    false, c.now⟩

theorem listAcc_lanes (s : State) (c : Ctx) (i : Instr) (k code : Nat) (data : Nat → List Word) (d : Nat) :
    ((listAcc s c i k code data).actsAt d).lanes.map (·.lane) = c.lanes ∧
    ∀ l ∈ ((listAcc s c i k code data).actsAt d).lanes, l.va = k ∧ l.data = data l.lane := by
  simp [listAcc, Acc.actsAt, Function.comp_def]

section
variable {s : State} {c : Ctx} {i : Instr} {list code : Ctx → Nat} {data : Ctx → Nat → List Word} {f : Ctx → State → State}
  (hx : exec i s = issueWl i list code data f s) (hi : issuing s i 1 = some c)
include hx hi

theorem exec_list_noLanes (hl : c.lanes = []) : exec i s = effOutcome i 1 c s (.result (f c s) 480 []) :=
  exec_of_effect hx hi <| by simp only [hl, List.isEmpty_nil, if_true]

variable (hl : c.lanes ≠ [])
include hl

theorem exec_list_badList (hk : 1023 < list c) : exec i s = effOutcome i 1 c s (.trapAll 0x08 0 (BitVec.ofNat 64 (list c))) :=
  exec_of_effect hx hi <| by simp only [List.isEmpty_iff, hl, hk, if_false, if_true]

variable (hk : list c ≤ 1023)
include hk

theorem exec_list_badSet (hc : 10 < code c) : exec i s = effOutcome i 1 c s (.trapAll 0x08 0 (BitVec.ofNat 64 (code c))) :=
  exec_of_effect hx hi <| by simp only [List.isEmpty_iff, hl, Nat.not_lt.2 hk, hc, if_false, if_true]

theorem exec_list_enters (hc : code c ≤ 10) (hw : actsWhole i = true) : ∃ (v : State) (a : Acc),
    exec i s = .next ((f c v).issuedPlain c i) ∧ v.mem = s.mem ∧ v.accs = s.accs ++ [a] ∧ a.id = s.nextId ∧ a.instr = i ∧
    a.lanes.map (·.lane) = c.lanes ∧ (∀ l ∈ a.lanes, l.va = list c ∧ l.data = data c l.lane) ∧ c.now + 480 ≤ a.due ∧
    (s.untimed c.cur.strand.owner = false → (∀ b ∈ s.accs, b.strand ≠ c.cur.strand) → a.due = c.now + 480) := by
  obtain ⟨d, hd, hle, heq⟩ := ordered_whole (s := s) (a := listAcc s c i (list c) (code c) (data c)) hw
  obtain ⟨hlanes, hitems⟩ := listAcc_lanes s c i (list c) (code c) (data c) d
  refine ⟨{ s with
      accs := s.accs ++ [(listAcc s c i (list c) (code c) (data c)).actsAt d]
      freeN := if s.untimed c.cur.strand.owner then s.freeN + 1 else s.freeN }, _,
    exec_of_effect (e := .later _) hx hi ?_, rfl, rfl, rfl, rfl, hlanes, hitems, (Nat.le_add_right ..).trans hle,
    fun hu hn => (heq hn).trans ?_⟩
  · rw [← hd]
    simp only [List.isEmpty_iff, hl, Nat.not_lt.2 hk, Nat.not_lt.2 hc, if_false]
    rfl
  · simp only [listAcc, listDue, hu, Bool.false_eq_true, if_false, Nat.add_zero]

end

theorem exec_wlput_issueWl (s : State) (x : XOps) : exec (.wlput x) s =
    issueWl (.wlput x) (fun c => (c.low x.a).toNat) (fun _ => 0) (fun c l => [c.src x.b l]) (fun _ s => s) s := rfl

theorem exec_wlget_issueWl (s : State) (x : XOps) : exec (.wlget x) s =
    issueWl (.wlget x) (fun c => (c.low x.a).toNat) (fun c => (c.low x.b).toNat) (fun _ _ => [])
      (fun c s => s.modStrand c.cur.strand fun t => { t with wlset := [] }) s := rfl

/-- An issue leaves what a strand holds of work lists. -/
theorem wlset_issuedPlain {s : State} {c : Ctx} {i : Instr} {j : StrandId} {ws : List (Nat × Nat)}
    (h : ∀ t, s.strand? j = some t → t.wlset = ws) : ∀ t, (s.issuedPlain c i).strand? j = some t → t.wlset = ws := by
  obtain ⟨r, -, hs⟩ := issued_strands s c i 1 none [] false none
  intro t ht
  rw [State.issuedPlain, State.strand?, hs, ← State.strand?, strand?_modStrand fun _ => retireStrand_id] at ht
  obtain ⟨u, hu, rfl⟩ := Option.map_eq_some_iff.1 ht
  have hkeep : (s.retireStrand c i s.nextId none [] false none r u).wlset = u.wlset := retireStrand_keeps Strand.wlset fun _ _ _ _ _ => rfl
  split
  · exact hkeep.trans (h u hu)
  · exact h u hu

/-- At its issue a WLGET's strand stops holding its set (R289). -/
theorem wlset_released {s : State} {j : StrandId} : ∀ t, (s.modStrand j fun t => { t with wlset := [] }).strand? j = some t → t.wlset = [] := by
  intro t ht
  obtain ⟨u, hu, rfl⟩ := Option.map_eq_some_iff.1 ((strand?_modStrand (f := fun t => { t with wlset := [] }) fun _ => rfl).symm.trans ht)
  rw [if_pos (beq_iff_eq.2 (strand?_id hu))]

/-- Settles O29: the access that an issue leaves, and when it acts (`ordered_whole`). -/
theorem launchAndWorkListInstructionsComplete : Obligations.LaunchAndWorkListInstructionsComplete := by
  unfold Obligations.LaunchAndWorkListInstructionsComplete
  refine fun x w => ⟨?launch, ?stale, ?misaligned, ?beyond, ?lists, ?putNoLanes, ?getNoLanes, ?badSet⟩
  case launch =>
    rintro s c hi ⟨hw, ha, hb⟩
    obtain ⟨d, u, hx, hm, haccs, hle, heq⟩ := exec_launch_enters hi hw ha hb
    refine ⟨_, hx, (issued_mem ..).trans hm, _, (issued_accs ..).trans haccs, rfl, rfl, rfl, le_launchDue.trans hle, ?_, ?_⟩
    · rintro ⟨hu, hn⟩ hnear
      exact (heq hn).trans ((launchDue_timed hu).trans (congrArg _ (if_pos hnear)))
    · rintro ⟨hu, hn⟩ hfar
      exact (heq hn).trans ((launchDue_timed hu).trans (congrArg _ (if_neg (Nat.not_le.2 hfar))))
  case stale => exact fun s c hi hw => exec_launch_stale hi hw
  case misaligned => exact fun s c hi ⟨hw, ha⟩ => exec_launch_misaligned hi hw ha
  case beyond => exact fun s c hi ⟨hw, ha, hb⟩ => exec_launch_beyond hi hw ha hb
  case lists =>
    rintro i (rfl | rfl)
    · refine ⟨fun s c hi ⟨hk, _, hl⟩ => ?_, fun s c hi ⟨hl, hk⟩ =>
        exec_list_badList (list := fun c => (c.low x.a).toNat) (exec_wlput_issueWl s x) hi hl hk⟩
      obtain ⟨v, a, hx, hm, ha, hid, hinstr, hlanes, hitems, hle, heq⟩ := exec_list_enters (exec_wlput_issueWl s x) hi hl hk (Nat.zero_le 10) rfl
      exact ⟨_, hx, (issued_mem ..).trans hm, a, (issued_accs ..).trans ha, hid, hinstr, hlanes,
        fun l hl => ⟨(hitems l hl).1, (hitems l hl).2.trans (if_pos rfl).symm⟩, hle, fun ⟨hu, hn⟩ => heq hu hn, nofun⟩
    · refine ⟨fun s c hi ⟨hk, hc, hl⟩ => ?_, fun s c hi ⟨hl, hk⟩ =>
        exec_list_badList (list := fun c => (c.low x.a).toNat) (exec_wlget_issueWl s x) hi hl hk⟩
      obtain ⟨v, a, hx, hm, ha, hid, hinstr, hlanes, hitems, hle, heq⟩ := exec_list_enters (exec_wlget_issueWl s x) hi hl hk (hc rfl) rfl
      exact ⟨_, hx, (issued_mem ..).trans hm, a, (issued_accs ..).trans ha, hid, hinstr, hlanes,
        fun l hl => ⟨(hitems l hl).1, (hitems l hl).2.trans (if_neg nofun).symm⟩, hle, fun ⟨hu, hn⟩ => heq hu hn,
        fun _ => wlset_issuedPlain wlset_released⟩
  case putNoLanes => exact fun s c hi hl => exec_list_noLanes (exec_wlput_issueWl s x) hi hl
  case getNoLanes => exact fun s c hi hl => exec_list_noLanes (exec_wlget_issueWl s x) hi hl
  case badSet =>
    exact fun s c hi ⟨hl, hk, hc⟩ => exec_list_badSet (list := fun c => (c.low x.a).toNat) (code := fun c => (c.low x.b).toNat)
      (exec_wlget_issueWl s x) hi hl hk hc

end Sys2Proof.Machine
end

section
/-!
THEOREM. ERET in place, and its dispose form (R302, R303).
-/

namespace Sys2Proof.Machine

/-! ### The in-place form (R302) -/

theorem eretInPlace_inHandler {t : Strand} (now : Nat) (h : t.depth ≠ 0) : t.eretInPlace now = { t with
    priv := t.tpriv, depth := 0
    ctl := { t.ctl with
      pc := t.tpc, ready := now + 2, stood := now + 2
      replay := if t.tpc = t.entryPc then some (t.tmask &&& 0xF) else none } } := if_neg h

/-! ### The dispose form (R302, R303) -/

section
variable {s : State} {i : StrandId} {tstrand tpc action : Word}

theorem dispose_noMatch (h : awaiting s i.owner tstrand tpc = none) : dispose s i tstrand tpc action = (s, 1) := by
  simp only [dispose, h]

variable {q : Cur} {tr : Trap} (h : awaiting s i.owner tstrand tpc = some (q, tr))
include h

theorem dispose_retry : dispose s i tstrand tpc 0 = (noteDispose (disposeRetry s q tr) q.strand i, 0) := by
  simp only [dispose, h, if_true]

theorem dispose_next : dispose s i tstrand tpc 1 = (noteDispose (disposeNext s q) q.strand i, 0) := by
  simp only [dispose, h, show (1 : Word) ≠ 0 by decide, if_false, if_true]

theorem dispose_kill : dispose s i tstrand tpc 2 = (disposeKill s q, 0) := by
  simp only [dispose, h, show (2 : Word) ≠ 0 by decide, show (2 : Word) ≠ 1 by decide, if_false, if_true]

theorem dispose_badAction (ha : 2 < action.toNat) : dispose s i tstrand tpc action = (s, 2) := by
  have hne (k : Word) (hk : k.toNat ≤ 2) : action ≠ k := fun he => absurd (he ▸ ha) (Nat.not_lt.2 hk)
  simp only [dispose, h, hne 0 (by decide), hne 1 (by decide), hne 2 (by decide), if_false]

end

/-- The dispose form writes the status of what it disposed of 4 owner cycles later. -/
theorem exec_eretDispose_status {s u : State} {c : Ctx} {x : XOps} {v : Word} (hi : issuing s (.eretDispose x) 1 = some c)
    (h : dispose s c.cur.strand (c.lane0 x.a) (c.lane0 x.b) (c.lane0 x.c) = (u, v)) :
    exec (.eretDispose x) s = .next (u.issuedFill c (.eretDispose x) x.d [v]) :=
  exec_of_effect (e := .result u 4 (c.fill x.d [v])) exec_eretDispose hi <| by simp only [h]

/-- Settles O17: DEPTH decides the in-place form, and the action what the dispose form does with the stream that waits. -/
theorem trapReturnsComplete : Obligations.TrapReturnsComplete := by
  unfold Obligations.TrapReturnsComplete
  refine fun x => ⟨?handler, ?outside, ?back, ?noMatch, fun q tr => ⟨?retry, ?next, ?kill, ?badAction⟩⟩
  case handler => exact fun s c hi hd => exec_of_effect exec_eret hi (if_neg hd)
  case outside => exact fun s c hi hd => exec_of_effect exec_eret hi (if_pos hd)
  case back =>
    intro t now hd
    rw [eretInPlace_inHandler now hd]
    exact ⟨rfl, rfl, rfl, rfl⟩
  case noMatch => exact fun s c hi h => exec_eretDispose_status hi (dispose_noMatch h)
  case retry => exact fun s c hi ⟨h, ha⟩ => exec_eretDispose_status hi (ha ▸ dispose_retry h)
  case next => exact fun s c hi ⟨h, ha⟩ => exec_eretDispose_status hi (ha ▸ dispose_next h)
  case kill => exact fun s c hi ⟨h, ha⟩ => exec_eretDispose_status hi (ha ▸ dispose_kill h)
  case badAction => exact fun s c hi ⟨h, ha⟩ => exec_eretDispose_status hi (dispose_badAction h ha)

end Sys2Proof.Machine
end

section
/-!
SUPPORT. What a kill (R39), a fault of a group and the taking of a record's place (R300) leave of the strand, the group, the logical core
and its clock.
-/

namespace Sys2Proof.Machine

/-! ### The clock (R115) -/

section
variable {s t : State}

theorem lcNow_congr (hd : t.dcyc = s.dcyc) (ho : t.owners = s.owners) (hl : t.lcores = s.lcores) (o n : Nat) : t.lcNow o n = s.lcNow o n := by
  unfold State.lcNow State.untimed State.owner? State.lcore?
  rw [hd, ho, hl]

/-- The clock reads of the logical cores their owner, number, residence and completed owner cycles. -/
theorem lcNow_modLcore {p m : Nat} {f : LCore → LCore}
    (hf : ∀ l, (f l).owner = l.owner ∧ (f l).num = l.num ∧ (f l).resident = l.resident ∧ (f l).ocyc = l.ocyc) (o n : Nat) :
    (s.modLcore p m f).lcNow o n = s.lcNow o n := by
  have hview (l : LCore) (b : Bool) (k : Nat) : ((if b then f l else l).owner == o && (if b then f l else l).resident &&
      decide ((if b then f l else l).ocyc < k)) = (l.owner == o && l.resident && decide (l.ocyc < k)) := by
    obtain ⟨ho, -, hr, hc⟩ := hf l
    cases b
    · rfl
    · simp only [if_true, ho, hr, hc]
  have hocyc (l : LCore) (b : Bool) : (if b then f l else l).ocyc = l.ocyc := by
    obtain ⟨-, -, -, hc⟩ := hf l
    cases b
    · rfl
    · exact hc
  have hfind : (s.modLcore p m f).lcore? o n = (s.lcore? o n).map fun l => if l.owner == p && l.num == m then f l else l :=
    find?_modWhere fun l => by
      obtain ⟨ho, hn, -, -⟩ := hf l
      rw [ho, hn]
  have huntimed : (s.modLcore p m f).untimed o = s.untimed o := rfl
  have hany (k : Nat) : ((s.modLcore p m f).lcores.any fun q => q.owner == o && q.resident && decide (q.ocyc < k)) =
      s.lcores.any fun q => q.owner == o && q.resident && decide (q.ocyc < k) := by
    rw [modLcore_lcores, modWhere, List.any_map]
    simp only [Function.comp_def, hview]
  unfold State.lcNow
  rw [hfind, huntimed, modLcore_dcyc]
  cases s.lcore? o n with
  | none => rfl
  | some l => simp only [Option.map_some, hany, hocyc]

end

/-! ### Groups -/

section
variable {s : State} {g : Nat} {x : Group}

theorem group?_modGroup {h : Nat} {f : Group → Group} (hf : ∀ x, (f x).id = x.id) (hg : s.group? g = some x) :
    (s.modGroup h f).group? g = some (if x.id == h then f x else x) := by
  have hfind := find?_modWhere (l := s.groups) (p := fun x => x.id == h) (q := fun x => x.id == g) (f := f) fun x => by rw [hf]
  rw [State.group?, modGroup_groups, hfind, ← State.group?, hg, Option.map_some]

theorem group?_faultGroup (hg : s.group? g = some x) : (s.faultGroup g).group? g = some { x with fault := true } := by
  have hid : (x.id == g) = true := by simpa using List.find?_some hg
  rw [State.faultGroup, group?_modGroup (by intro; rfl) hg, if_pos hid]

/-- GSYNC's check changes of a group only when its strands go on (R191). -/
theorem group?_gsyncCheck (h : Nat) (hg : s.group? g = some x) : ∃ d, (s.gsyncCheck h).group? g = some { x with gsDue := d } := by
  unfold State.gsyncCheck
  split
  · dsimp only
    split
    · rw [group?_modGroup (by intro; rfl) hg]
      split
      · exact ⟨_, rfl⟩
      · exact ⟨x.gsDue, rfl⟩
    · exact ⟨x.gsDue, hg⟩
  · exact ⟨x.gsDue, hg⟩

end

/-! ### A kill (R39) -/

/-- A strand once it is killed (R39). -/
def Strand.dead (t : Strand) : Strand := { t with
  killed := true, cst := .exited, ctl := t.ctl.stopped, sets := t.sets.map fun g => { g with st := .stopped, str := g.str.stopped, loops := [] }
  flume := [], rq := [], pends := [] }

/-- A logical core whose copies of a strand stop by R185. -/
def LCore.stopsCopies (l : LCore) (i : StrandId) (now : Nat) : LCore := { l with
  copies := modWhere l.copies (fun c => c.strand == i) (Copy.killed l now) }

section
variable {s : State} {i : StrandId}

theorem killStrand_strands : (s.killStrand i).strands = ((s.undoDispose i).modStrand i Strand.dead).strands := by
  unfold State.killStrand
  dsimp only
  split
  · rw [gsyncCheck_strands]
    rfl
  · rfl

theorem killStrand_lcores :
    (s.killStrand i).lcores = (s.modLcore i.owner i.lcore (·.stopsCopies i (s.lcNow i.owner i.lcore))).lcores := by
  have hnow : ((s.undoDispose i).modStrand i Strand.dead).lcNow i.owner i.lcore = s.lcNow i.owner i.lcore :=
    lcNow_congr (undoDispose_dcyc s i) (undoDispose_owners s i) (undoDispose_lcores s i) _ _
  have hlcores : ((s.undoDispose i).modStrand i Strand.dead).lcores = s.lcores := undoDispose_lcores s i
  rw [← hnow, modLcore_lcores, ← hlcores]
  unfold State.killStrand
  dsimp only
  split
  · rw [gsyncCheck_lcores]
    rfl
  · rfl

theorem lcNow_killStrand (o n : Nat) : (s.killStrand i).lcNow o n = s.lcNow o n :=
  calc (s.killStrand i).lcNow o n
    _ = (s.modLcore i.owner i.lcore (·.stopsCopies i (s.lcNow i.owner i.lcore))).lcNow o n :=
      lcNow_congr (s := s.modLcore i.owner i.lcore _) (killStrand_dcyc s i) (killStrand_owners s i) killStrand_lcores o n
    _ = s.lcNow o n := lcNow_modLcore (f := (·.stopsCopies i _)) (fun _ => ⟨rfl, rfl, rfl, rfl⟩) o n

theorem lcore?_killStrand {l : LCore} (h : s.lcore? i.owner i.lcore = some l) :
    (s.killStrand i).lcore? i.owner i.lcore = some (l.stopsCopies i (s.lcNow i.owner i.lcore)) := by
  rw [State.lcore?, killStrand_lcores]
  exact lcore?_modLcore_same (f := (·.stopsCopies i _)) (fun _ => ⟨rfl, rfl⟩) h

theorem group?_killStrand {g : Nat} {x : Group} (h : s.group? g = some x) : ∃ d, (s.killStrand i).group? g = some { x with gsDue := d } := by
  have hundo : (s.undoDispose i).group? g = some x := by rw [State.group?, undoDispose_groups, ← State.group?, h]
  unfold State.killStrand
  dsimp only
  split
  · exact group?_gsyncCheck _ hundo
  · exact ⟨x.gsDue, hundo⟩

/-- Undoing the disposes of a killed strand changes only results in flight of a strand (R323). -/
theorem strand?_undoDispose {j : StrandId} {t : Strand} (h : s.strand? j = some t) :
    ∃ ps, (s.undoDispose i).strand? j = some { t with pends := ps } := by
  have one (now : Nat) (d : StrandId × Nat × Nat) {s : State} {t : Strand} (h : s.strand? j = some t) :
      ∃ ps, (State.undoOne now s d).strand? j = some { t with pends := ps } := by
    unfold State.undoOne
    split
    · rw [strand?_modStrand (by intro t; rfl), h, Option.map_some]
      split
      · exact ⟨_, rfl⟩
      · exact ⟨t.pends, rfl⟩
    · exact ⟨t.pends, h⟩
  unfold State.undoDispose
  generalize List.filter _ _ = l
  generalize s.lcNow _ _ = now
  induction l generalizing s t with
  | nil => exact ⟨t.pends, h⟩
  | cons d l ih =>
    obtain ⟨ps, h⟩ := one now d h
    exact ih (t := { t with pends := ps }) h

theorem strand?_killStrand {t : Strand} (h : s.strand? i = some t) : (s.killStrand i).strand? i = some t.dead := by
  obtain ⟨ps, h⟩ := strand?_undoDispose (i := i) h
  rw [State.strand?, killStrand_strands]
  exact strand?_modStrand_same (f := Strand.dead) (t := { t with pends := ps }) (fun _ => rfl) h

end

/-! ### A record takes its place (R300) -/

theorem lcore?_addRecord {s : State} {i : StrandId} {g : Nat} {ws : List Word} {l : LCore} (h : s.lcore? i.owner i.lcore = some l) :
    (s.addRecord i g ws).lcore? i.owner i.lcore = some { l with
      trecs := l.trecs ++ [⟨s.nextId, i, g, ws, s.lcNow i.owner i.lcore + 400, false⟩] } :=
  lcore?_modLcore_same (f := fun l => { l with trecs := l.trecs ++ [_] }) (fun _ => ⟨rfl, rfl⟩) h

/-- The record of a strand that is killed as its trap is delivered is stored 400 owner cycles later (R300, R301). -/
theorem lcore?_killStrand_addRecord {s : State} {i : StrandId} {g : Nat} {ws : List Word} {l : LCore}
    (h : s.lcore? i.owner i.lcore = some l) : ∃ l' r, ((s.killStrand i).addRecord i g ws).lcore? i.owner i.lcore = some l' ∧
      l'.trecs = l.trecs ++ [r] ∧ r.put = false ∧ r.due = s.lcNow i.owner i.lcore + 400 ∧ r.words = ws :=
  ⟨_, _, lcore?_addRecord (lcore?_killStrand h), rfl, rfl, congrArg (· + 400) (lcNow_killStrand ..), rfl⟩

end Sys2Proof.Machine
end

section
/-!
THEOREM. In-place trap entry (R299 to R301).
-/

namespace Sys2Proof.Machine

/-- May the owner's handler be entered at its TVEC (R299)? -/
abbrev Owner.goodVec (w : Owner) : Prop := w.tvec ≠ 0 ∧ w.tvec.toNat % 4 = 0 ∧ w.tvec.toNat < 0x40000

theorem not_goodVec_iff {w : Owner} : ¬ w.goodVec ↔ w.tvec = 0 ∨ w.tvec.toNat % 4 ≠ 0 ∨ w.tvec.toNat ≥ 0x40000 := by
  simp only [Owner.goodVec, not_and_or, not_not, Nat.not_lt, ge_iff_le, ne_eq]

/-- A strand at the first instruction of its handler, entered in the owner cycle `now` (R299). -/
def Strand.enters (t : Strand) (tr : Trap) (tvec : Word) (now : Nat) : Strand := { t with
  tcause := BitVec.ofNat 32 (tr.sub * 2 ^ 8 + tr.cause), tpc := t.ctl.pc, entryPc := t.ctl.pc, tmask := tr.mask, taddr := tr.addr
  tstrand := t.tstrandOf none, tpriv := t.priv, priv := 1, depth := 1
  ctl := { t.ctl with pc := tvec, ready := now + 2, stood := now + 2, res := [], trap := none, wait := none, replay := none } }

/-- The words of the record of a strand that cannot enter its handler (R300, R301). -/
def killedWords (s : State) (t : Strand) (w : Owner) (tr : Trap) : List Word :=
  trapWords tr (5 + (if t.depth = 1 then 8 else 0) + if w.goodVec then 0 else 16) t.ctl.pc (t.tstrandOf none)
    ((s.group? t.grp).map (·.number) |>.getD 0) ((s.group? t.grp).map (·.comp) |>.getD 0)

theorem take_killedWords {s : State} {t : Strand} {w : Owner} {tr : Trap} : (killedWords s t w tr).take 6 =
    [BitVec.ofNat 32 ((5 + (if t.depth = 1 then 8 else 0) + if w.goodVec then 0 else 16) * 2 ^ 16 + tr.sub * 2 ^ 8 + tr.cause), t.ctl.pc,
      t.tstrandOf none, tr.mask, tr.addr.lo, tr.addr.hi] := rfl

section
variable {s : State} {i : StrandId} {tr : Trap} {t : Strand} {w : Owner} (ht : s.strand? i = some t) (hw : s.owner? i.owner = some w)
include ht hw

theorem trapEntry_enters (hv : w.goodVec) (hd : t.depth ≠ 1) :
    s.trapEntry i tr = s.modStrand i fun t => t.enters tr w.tvec (s.lcNow i.owner i.lcore) := by
  have hbad : ¬ ((w.tvec = 0 ∨ w.tvec.toNat % 4 ≠ 0 ∨ w.tvec.toNat ≥ 0x40000) ∨ t.depth = 1) := by
    rw [← not_goodVec_iff]
    exact fun h => h.elim (· hv) hd
  simp only [State.trapEntry, ht, hw]
  rw [if_neg hbad]
  rfl

theorem trapEntry_kills (hb : ¬ w.goodVec ∨ t.depth = 1) :
    s.trapEntry i tr = if w.parkbase = 0 then (s.faultGroup t.grp).killStrand i
      else ((s.faultGroup t.grp).killStrand i).addRecord i t.grp (killedWords s t w tr) := by
  have hflags : flagKilled + flagCtl + (if t.depth = 1 then flagNested else 0) +
      (if w.tvec = 0 ∨ w.tvec.toNat % 4 ≠ 0 ∨ w.tvec.toNat ≥ 0x40000 then flagNovec else 0) =
      5 + (if t.depth = 1 then 8 else 0) + if w.goodVec then 0 else 16 :=
    congrArg _ ((if_congr not_goodVec_iff.symm rfl rfl).trans (ite_not ..))
  rw [not_goodVec_iff] at hb
  simp only [State.trapEntry, ht, hw]
  rw [if_pos hb, hflags]
  rfl

end

section
variable {s : State} {i : StrandId} {t : Strand}

theorem exec_trapInPlaceEntry_pending {tr : Trap} {since port : Nat} (ht : s.strand? i = some t)
    (htr : t.ctl.trap = some ⟨tr, .entry, since, port⟩) (hr : ∃ r ∈ t.ctl.res, r.written = false) :
    exec (.trapInPlaceEntry i) s = .fault .notEnabled := by
  have hall : t.ctl.res.all (·.written) = false := List.all_eq_false.2 (hr.imp fun r h => ⟨h.1, by simp [h.2]⟩)
  simp only [exec_trapInPlaceEntry, execTrapInPlaceEntry, ht, htr, hall, Bool.false_eq_true, if_false]

theorem tstrandOf_none : t.tstrandOf none = BitVec.ofNat 32 (t.id.lcore * 2 ^ 23 + t.id.slot * 2 ^ 18 + 2 ^ 17) := by
  have hslices (n : Nat) : n + 0 * 2 ^ 9 + 2 ^ 17 = n + 2 ^ 17 := by omega
  rw [Strand.tstrandOf, tstrandWord, if_pos rfl, hslices]

end

/-- Settles O50: the two outcomes of `trapEntry`, and what a kill leaves. -/
theorem trapEntrySavesAndRedirects : Obligations.TrapEntrySavesAndRedirects := by
  unfold Obligations.TrapEntrySavesAndRedirects
  refine fun i tr t w since port => ⟨fun s ⟨ht, _, htr⟩ hr => exec_trapInPlaceEntry_pending ht htr hr, ?entered, ?killed⟩
  case entered =>
    rintro s ⟨⟨ht, hw, htr⟩, hr, hv, hd⟩
    refine ⟨_, exec_trapInPlaceEntry_due ht htr hr, t.enters tr w.tvec (s.lcNow i.owner i.lcore), ?_⟩
    rw [trapEntry_enters ht hw hv hd]
    exact ⟨strand?_modStrand_same (fun _ => rfl) ht, rfl, rfl, rfl, rfl, tstrandOf_none, rfl, rfl, rfl, rfl, rfl, rfl, rfl, rfl, rfl, rfl,
      fun _ => modStrand_mem_of_ne, rfl⟩
  case killed =>
    rintro s ⟨⟨ht, hw, htr⟩, hr, hb⟩
    have hdead : ((s.faultGroup t.grp).killStrand i).strand? i = some t.dead := strand?_killStrand ht
    have hmem : ((s.faultGroup t.grp).killStrand i).mem = s.mem := killStrand_mem ..
    have howners : ((s.faultGroup t.grp).killStrand i).owners = s.owners := killStrand_owners ..
    have hgroup (g : Group) (hg : s.group? t.grp = some g) :
        ∃ g', ((s.faultGroup t.grp).killStrand i).group? t.grp = some g' ∧ g'.fault = true := by
      obtain ⟨d, h⟩ := group?_killStrand (i := i) (group?_faultGroup hg)
      exact ⟨_, h, rfl⟩
    have hlcore (l : LCore) (hl : s.lcore? i.owner i.lcore = some l) : ∃ l',
        ((s.faultGroup t.grp).killStrand i).lcore? i.owner i.lcore = some l' ∧ l'.trecs = l.trecs :=
      ⟨_, lcore?_killStrand (s := s.faultGroup t.grp) hl, rfl⟩
    have hrecord (l : LCore) (hl : s.lcore? i.owner i.lcore = some l) :=
      lcore?_killStrand_addRecord (s := s.faultGroup t.grp) (g := t.grp) (ws := killedWords s t w tr) hl
    refine ⟨_, exec_trapInPlaceEntry_due ht htr hr, ?_⟩
    rw [trapEntry_kills ht hw hb]
    generalize (s.faultGroup t.grp).killStrand i = u at hdead hmem howners hgroup hlcore hrecord ⊢
    split
    · next hp =>
      refine ⟨⟨_, hdead, rfl, rfl, rfl⟩, hmem, howners, hgroup, fun l hl => ?_⟩
      obtain ⟨l', hl', hrecs⟩ := hlcore l hl
      exact ⟨l', hl', fun _ => hrecs, fun hn => absurd hp hn⟩
    · next hp =>
      refine ⟨⟨_, hdead, rfl, rfl, rfl⟩, hmem, howners, hgroup, fun l hl => ?_⟩
      obtain ⟨l', r, hl', hrecs, hput, hdue, hwords⟩ := hrecord l hl
      exact ⟨l', hl', fun h => absurd h hp, fun _ => ⟨r, hrecs, hput, hdue, hwords ▸ take_killedWords⟩⟩

end Sys2Proof.Machine
end

section
/-!
THEOREM. What reaches the part from its memory stacks, links, fabric and rails (R304 to R306, R339 to R349, R352 to R356).
-/

namespace Sys2Proof.Machine

/-! ### Memory stacks (R305, R339, R343) -/

section
variable {s : State}

section
variable {e : StorageErr} {g : Group} {x : Nat × DWord}

theorem exec_storageErrorKill_live (hc : s.chargedTo e = (some g.id, x.1, x.2)) (hg : s.group? g.id = some g) (hk : g.killed = false) :
    exec (.storageErrorKill e) s = .next { s.killGroup g x.1 x.2 with freeN := s.freeN + 1 } := by
  simp only [exec_storageErrorKill, execStorageErrorKill, hc, Option.bind_some, hg, hk, Bool.false_eq_true, if_false]

theorem exec_storageErrorKill_nobody (hc : (s.chargedTo e).1 = none) : exec (.storageErrorKill e) s = .next s := by
  simp only [exec_storageErrorKill, execStorageErrorKill, hc, Option.bind_none]

end

theorem tailOwner_iff (o : Nat) : s.tailOwner o = true ↔ o = 63 ∨ s.untimed o = true := by
  simp only [State.tailOwner, Bool.or_eq_true, beq_iff_eq]

theorem exec_rfmCommand_share {bank o n : Nat} (hn : Config.rfmThreshold (bank / 512) / 2 ^ s.dev.fabric.flen ≤ n)
    (ha : tblGet 0 s.dev.acts (bank * 64 + if o = 63 ∨ s.untimed o = true then 63 else o) ≤ n)
    (hr : (o = 63 ∨ s.untimed o = true) → s.released ≠ 0) : exec (.rfmCommand bank o n) s = .next { s with
      dev := { s.dev with
        acts := tblSet 0 s.dev.acts (bank * 64 + if o = 63 ∨ s.untimed o = true then 63 else o)
          (n - Config.rfmThreshold (bank / 512) / 2 ^ s.dev.fabric.flen) }
      released := if o = 63 ∨ s.untimed o = true then s.released - 1 else s.released } := by
  simp only [← tailOwner_iff] at ha hr ⊢
  have hwindow : ¬ (s.tailOwner o = true ∧ s.released = 0) := fun h => hr h.1 h.2
  simp only [exec_rfmCommand, execRfmCommand, Nat.not_lt.2 hn, Nat.not_lt.2 ha, hwindow, or_self, if_false]

end

/-! ### Requests of a peer (R345, R347) -/

section
variable {s : State} {p : Packet} {w : Owner}

section
variable (hk : p.kind = 1 ∨ p.kind = 2) (hon : s.dev.on = true)
include hk hon

/-- A READ or WRITE is not refused as a packet of another kind. -/
theorem request_not_refused : ¬ ((p.kind ≠ 1 ∧ p.kind ≠ 2) ∨ ¬ s.dev.on = true) := by
  rintro (⟨h1, h2⟩ | h)
  · exact hk.elim h1 h2
  · exact h hon

theorem exec_remoteRequestReceive_badCrc (hg : packetGood p = false) : exec (.remoteRequestReceive p) s = .next s := by
  rw [exec_remoteRequestReceive, execRemoteRequestReceive, if_neg (request_not_refused hk hon), if_pos (by simp [hg])]

variable (hg : packetGood p = true)
include hg

theorem exec_remoteRequestReceive_noOwner (ho : s.owner? p.down = none) :
    exec (.remoteRequestReceive p) s = .next (s.answer p 5 6 []) := by
  rw [exec_remoteRequestReceive, execRemoteRequestReceive, if_neg (request_not_refused hk hon), if_neg (by simp [hg]), if_pos (by simp [ho])]

theorem exec_remoteRequestReceive_waits (ho : s.owner? p.down = some w) : exec (.remoteRequestReceive p) s =
    .next ({ s.fresh with remotes := s.remotes ++ [⟨s.nextId, p.down, packetWindows p, p⟩] } : State).serveReleased := by
  rw [exec_remoteRequestReceive, execRemoteRequestReceive, if_neg (request_not_refused hk hon), if_neg (by simp [hg]), if_neg (by simp [ho])]

end

theorem windowRemote_last {n : Nat} {q : Remote} (hq : (s.remotes.find? fun q => q.id == n) = some q) (hn : q.need ≤ 1) :
    s.windowRemote n = ({ s with remotes := s.remotes.filter fun q => q.id != n } : State).serveRemote q.pkt := by
  simp only [State.windowRemote, hq, hn, if_true]

theorem serveRemote_read {qs : List (Nat × Place)} {k : Nat} (hk : p.kind = 1) (hw : s.owner? p.down = some w)
    (hp : s.peerOf w p.peer p.sown = some k) (ha : p.addr.toNat % 4 = 0) (hl : p.addr.toNat + p.len ≤ 2 ^ 56)
    (hq : s.remotePlaces w false ((List.range ((p.len + 3) / 4)).map fun i => p.addr.toNat + 4 * i) = .ok qs) :
    s.serveRemote p = s.answer p 3 0 ((qs.flatMap fun x => placeBytes s x.2 4).take p.len) := by
  have hread : (p.kind == 2) = false := by rw [hk]; rfl
  have hplace : ¬ (p.addr.toNat % 4 ≠ 0 ∨ 2 ^ 56 < p.addr.toNat + p.len) := by omega
  simp only [State.serveRemote, hw, hp, hread, Bool.false_eq_true, if_false, hq]
  rw [if_neg hplace]

/-! ### Replies (R345, R348, R349) -/

/-- A DATA, ACK or NACK that fails its CRC is dropped. -/
theorem exec_reply_badCrc {i : Instr} (hi : (i = .remoteReplyReceive p ∧ (p.kind = 3 ∨ p.kind = 4)) ∨ (i = .nackReceive p ∧ p.kind = 5))
    (hg : packetGood p = false) : exec i s = .next (s.dropReply p) := by
  rcases hi with ⟨rfl, hk⟩ | ⟨rfl, hk⟩
  · rw [exec_remoteReplyReceive, execRemoteReplyReceive, if_neg (by omega), if_pos (by simp [hg])]
  · rw [exec_nackReceive, execNackReceive, if_neg (by omega), if_pos (by simp [hg])]

theorem dropReply_noTransfer (h : s.replyTo p = none) : s.dropReply p = s := by
  rw [State.dropReply, h, Option.map_none, Option.getD_none]

variable {t : Transfer}

theorem dropReply_transfer (h : s.replyTo p = some t) : s.dropReply p = s.sendAgain t := by
  rw [State.dropReply, h, Option.map_some, Option.getD_some]

theorem exec_remoteReplyReceive_completes (hk : p.kind = 3 ∨ p.kind = 4) (hg : packetGood p = true) (h : s.replyTo p = some t) :
    exec (.remoteReplyReceive p) s =
      .next (s.modTransfer t.id fun t => { t with reply := some 0, data := if t.write then t.data else p.data }) := by
  rw [exec_remoteReplyReceive, execRemoteReplyReceive, if_neg (by omega), if_neg (by simp [hg]), h]

theorem exec_nackReceive_completes (hk : p.kind = 5) (hg : packetGood p = true) (h : s.replyTo p = some t) :
    exec (.nackReceive p) s = .next (s.modTransfer t.id fun t => { t with reply := some (max 1 (min 6 p.cause)) }) := by
  rw [exec_nackReceive, execNackReceive, if_neg (by omega), if_neg (by simp [hg]), h]

section
variable {n d : Nat} (ht : (s.transfers.find? fun t => t.id == n) = some t) (hs : t.sentAt = some d) (hr : t.reply = none)
include ht hs hr

theorem exec_transferResend_sends : exec (.transferResend n) s = .next (s.sendAgain t) := by
  simp only [exec_transferResend, execTransferResend, ht, hs, hr]

theorem exec_remoteTimeout_over (hw : s.owner? t.owner = some w) (hd : d + w.rtmo.toNat ≤ s.dcyc) :
    exec (.remoteTimeout n) s = .next (s.modTransfer n fun t => { t with reply := some 7 }) := by
  simp only [exec_remoteTimeout, execRemoteTimeout, ht, hs, hr, hw, Nat.not_lt.2 hd, if_false]

end

/-! ### Power (R355, R356) -/

variable {amps : Nat}

theorem exec_coreRailOvercurrent_withholds (ha : 6000 < amps) (hon : s.dev.on = true) : exec (.coreRailOvercurrent amps) s =
    .next { s with dev := { s.dev with amps := amps, withheld := some (s.dev.withheld.getD s.dcyc) } } := by
  simp only [exec_coreRailOvercurrent, execCoreRailOvercurrent, Nat.not_le.2 ha, hon, not_true, or_self, if_false]

theorem exec_tailwaterWithholdEnd_ends (ha : amps ≤ 6000) (hw : s.dev.withheld ≠ none) (hp : s.dev.powerOff = false) :
    exec (.tailwaterWithholdEnd amps) s = .next { s with dev := { s.dev with amps := amps, withheld := none } } := by
  have hsome : s.dev.withheld.isNone = false := Option.isNone_eq_false_iff.2 (Option.isSome_iff_ne_none.2 hw)
  simp only [exec_tailwaterWithholdEnd, execTailwaterWithholdEnd, Nat.not_lt.2 ha, hsome, hp, Bool.false_eq_true, or_self, if_false]

theorem foldl_freeze_dev (f : Freeze) (l : List Nat) (s : State) : (l.foldl (fun s o => s.freeze o f) s).dev = s.dev := by
  induction l generalizing s with
  | nil => rfl
  | cons o l ih => exact ih (s.freeze o f)

theorem foldl_freeze_hostMem (f : Freeze) (l : List Nat) (s : State) : (l.foldl (fun s o => s.freeze o f) s).hostMem = s.hostMem :=
  (State.KeepsAccs.foldl (fun _ _ => .modOwner) l s).hostMem

/-- A power fault switches the rail off, and its records and freezes leave host memory (R356). -/
theorem exec_powerFault_off {d : Nat} (hw : s.dev.withheld = some d) (hd : d + 850000 ≤ s.dcyc) (ha : 6000 < s.dev.amps)
    (hp : s.dev.powerOff = false) : ∃ u, exec .powerFault s = .next u ∧ u.dev.powerOff = true ∧ u.hostMem = s.hostMem := by
  simp only [exec_powerFault, execPowerFault, hw, Nat.not_lt.2 hd, Nat.not_le.2 ha, hp, Bool.false_eq_true, or_self, if_false]
  refine ⟨_, rfl, ?_, ?_⟩
  · rw [foldl_freeze_dev]
  · rw [foldl_freeze_hostMem]
    exact State.KeepsAccs.logRecord.hostMem

theorem exec_powerRecover_thaws (ha : amps < 5400) (hp : s.dev.powerOff = true) : exec (.powerRecover amps) s =
    .next (s.owners.foldl (fun s w => s.thaw w.id .power) { s with dev := { s.dev with powerOff := false, withheld := none, amps := amps } }) := by
  simp only [exec_powerRecover, execPowerRecover, Nat.not_le.2 ha, hp, not_true, or_self, if_false]

end

/-- Settles O44: one named lemma to an event. -/
theorem deviceEventSteps : Obligations.DeviceEventSteps := by
  unfold Obligations.DeviceEventSteps
  refine fun e banks ws bank o n amps d up ok p g x t w r => ⟨fun _ _ => rfl,
    fun s ⟨hc, hg, hk⟩ => exec_storageErrorKill_live hc hg hk, fun s => exec_storageErrorKill_nobody, fun _ _ => rfl,
    fun s ⟨hn, ha, hr⟩ => exec_rfmCommand_share hn ha hr, fun _ _ => exec_refreshSkip.trans (if_neg (not_not_intro rfl)), fun _ _ => rfl,
    fun s ⟨hon, hg, hk⟩ => exec_remoteRequestReceive_badCrc hk hon hg, fun i hi => ⟨?dropped, ?resent⟩, ⟨?noOwner, ?request⟩,
    fun s q => windowRemote_last, fun s qs k => serveRemote_read,
    fun s ⟨hk, hg, ht⟩ => exec_remoteReplyReceive_completes hk hg ht, fun s ⟨hk, hg, ht⟩ => exec_nackReceive_completes hk hg ht,
    fun s ⟨ht, hs, hr, hw, hd⟩ => exec_remoteTimeout_over ht hs hr hw hd, fun s ⟨ht, hs, hr⟩ => exec_transferResend_sends ht hs hr,
    fun _ _ => rfl, fun _ hl => exec_recoveryImageReceive.trans (if_pos hl), fun s ⟨ha, hon⟩ => exec_coreRailOvercurrent_withholds ha hon,
    fun s ⟨ha, hw, hp⟩ => exec_tailwaterWithholdEnd_ends ha hw hp, fun s ⟨hw, hd, ha, hp⟩ => exec_powerFault_off hw hd ha hp,
    fun s ⟨ha, hp⟩ => exec_powerRecover_thaws ha hp⟩
  case dropped =>
    rintro s ⟨hg, ht⟩
    rw [exec_reply_badCrc hi hg, dropReply_noTransfer ht]
    rfl
  case resent =>
    rintro s ⟨hg, ht⟩
    rw [exec_reply_badCrc hi hg, dropReply_transfer ht]
    rfl
  case noOwner => exact fun s ⟨⟨hk, hon, hg⟩, ho⟩ => exec_remoteRequestReceive_noOwner hk hon hg ho
  case request => exact fun s ⟨⟨hk, hon, hg⟩, ho⟩ => exec_remoteRequestReceive_waits hk hon hg ho

end Sys2Proof.Machine
end

section
/-!
SUPPORT. What wakes, the hardware's own stores and the interrupt log leave of the count of device cycles (R222 to R225, R334 to R337).
-/

namespace Sys2Proof.Machine

theorem foldl_dcyc {α : Type} {f : State → α → State} (hf : ∀ (s : State) a, (f s a).dcyc = s.dcyc) (l : List α) (s : State) :
    (l.foldl f s).dcyc = s.dcyc := by
  induction l generalizing s with
  | nil => rfl
  | cons a l ih => exact (ih (f s a)).trans (hf s a)

/-! ### Wakes (R222 to R225) -/

@[simp] theorem wakeClock_dcyc (s : State) (i : StrandId) (set : Option Nat) : (s.wakeClock i set).dcyc = s.dcyc := by
  unfold State.wakeClock
  split <;> rfl

@[simp] theorem wakeLane_dcyc (s : State) (o : Nat) (r : ParkRec) (lane : Nat) (b : Bool) : (s.wakeLane o r lane b).dcyc = s.dcyc := by
  unfold State.wakeLane
  dsimp only
  split
  · rw [fresh_dcyc, wakeClock_dcyc]
  · rfl

@[simp] theorem wakeLanes_dcyc (s : State) (o : Nat) (r : ParkRec) (ls : List Nat) (b : Bool) : (s.wakeLanes o r ls b).dcyc = s.dcyc :=
  foldl_dcyc (fun s l => wakeLane_dcyc s o r l b) ls s

@[simp] theorem wakeAllOf_dcyc (s : State) (o va kind : Nat) (rs : List ParkRec) : (wakeAllOf s o va kind rs).1.dcyc = s.dcyc := by
  induction rs generalizing s with
  | nil => rfl
  | cons r rs ih =>
    unfold wakeAllOf
    split
    · rw [ih, wakeLanes_dcyc]
    · exact ih s

@[simp] theorem wakeFirstOf_dcyc (s : State) (o va kind : Nat) (rs : List ParkRec) : (wakeFirstOf s o va kind rs).1.dcyc = s.dcyc := by
  unfold wakeFirstOf
  split
  · rfl
  · split
    · rfl
    · exact wakeLanes_dcyc ..

@[simp] theorem wakeOf_dcyc (s : State) (o va : Nat) (was now wrote : Bool) (rs : List ParkRec) :
    (wakeOf s o va was now wrote rs).1.dcyc = s.dcyc := by
  unfold wakeOf
  dsimp only
  split_ifs <;> simp only [wakeAllOf_dcyc, wakeFirstOf_dcyc]

@[simp] theorem wakeWord_dcyc (s : State) (o va : Nat) (was now wrote : Bool) : (s.wakeWord o va was now wrote).dcyc = s.dcyc := by
  unfold State.wakeWord
  split
  · rfl
  · dsimp only
    split
    · exact wakeOf_dcyc ..
    · rw [State.putBucket, putBytes_dcyc, wakeOf_dcyc]
  · exact wakeOf_dcyc ..

/-! ### Stores of the hardware -/

@[simp] theorem setBit_dcyc (s : State) (o va pa : Nat) (full wrote commons : Bool) : (s.setBit o va pa full wrote commons).dcyc = s.dcyc := by
  have hbit : (if s.isFull (pa / 4) = full then s else s.setFull (pa / 4) full).dcyc = s.dcyc := by split <;> rfl
  unfold State.setBit
  dsimp only
  split
  · exact hbit
  · rw [wakeWord_dcyc, hbit]

@[simp] theorem store_dcyc (s : State) (o va pa : Nat) (bs : List Byte) (full : Option Bool) (commons : Bool) (hz : Option Hz) :
    (s.store o va pa bs full commons hz).dcyc = s.dcyc := by
  refine foldl_dcyc (fun t i => ?_) (wordsIn va bs.length) (s.putBytes pa bs)
  dsimp only
  rw [setBit_dcyc]
  split <;> rfl

theorem hwStore_dcyc {s t : State} {o va : Nat} {bs : List Byte} (h : s.hwStore o va bs = some t) : t.dcyc = s.dcyc := by
  obtain ⟨r, -, rfl⟩ := Option.map_eq_some_iff.1 h
  exact foldl_dcyc (fun t x => store_dcyc t ..) r s

/-! ### The interrupt log (R334 to R337) -/

theorem tryStore_dcyc {s t : State} {o va : Nat} {bs : List Byte} (h : s.tryStore o va bs = .ok t) : t.dcyc = s.dcyc := by
  unfold State.tryStore at h
  split at h
  · next hs =>
    cases h
    exact hwStore_dcyc hs
  · cases h

@[simp] theorem message_dcyc (s : State) (o : Nat) : (s.message o).dcyc = s.dcyc := by
  unfold State.message
  split
  · rfl
  · split
    · rfl
    · split <;> rfl

/-- What follows a store of the hardware follows the state that the store leaves. -/
theorem map_tryStore_dcyc {α : Type} {s : State} {o va : Nat} {bs : List Byte} {f : State → α} {g : α → State} {v : α}
    (h : (s.tryStore o va bs).map f = .ok v) (hf : ∀ t, (g (f t)).dcyc = t.dcyc) : (g v).dcyc = s.dcyc := by
  cases hs : s.tryStore o va bs with
  | error e =>
    rw [hs] at h
    cases h
  | ok t =>
    rw [hs] at h
    cases h
    exact (hf t).trans (tryStore_dcyc hs)

theorem logPlace_dcyc {s : State} {r : LogRec} {v : State × Bool} (h : s.logPlace r = .ok v) : v.1.dcyc = s.dcyc := by
  cases hw : s.owner? r.owner with
  | none =>
    simp only [State.logPlace, hw] at h
    cases h
    rfl
  | some w =>
    simp only [State.logPlace, hw] at h
    split at h
    · cases h
      rfl
    · split at h
      · cases h
      · split at h
        all_goals exact map_tryStore_dcyc (g := Prod.fst) h fun _ => rfl

theorem logPublish_dcyc {s t : State} {o : Nat} (h : s.logPublish o = .ok t) : t.dcyc = s.dcyc := by
  unfold State.logPublish at h
  split at h
  · cases h
    rfl
  · exact map_tryStore_dcyc (g := id) h fun t => message_dcyc t o

theorem logStore_dcyc {s t : State} {r : LogRec} (h : s.logStore r = .ok t) : t.dcyc = s.dcyc := by
  unfold State.logStore at h
  split at h
  · next hp => exact (logPublish_dcyc h).trans (logPlace_dcyc hp)
  · next hp =>
    cases h
    exact logPlace_dcyc hp
  · cases h

@[simp] theorem logKeep_dcyc (s : State) (r : LogRec) : (s.logKeep r).1.dcyc = s.dcyc := by
  unfold State.logKeep
  dsimp only
  split
  · rfl
  · split
    · next hs => exact logStore_dcyc hs
    · rfl

@[simp] theorem storeFault_dcyc (s : State) (o id va : Nat) : (s.storeFault o id va).dcyc = s.dcyc := by
  unfold State.storeFault
  split
  · rfl
  · dsimp only
    rw [logKeep_dcyc]
    rfl

@[simp] theorem logEvent_dcyc (s : State) (r : LogRec) : (s.logEvent r).dcyc = s.dcyc := by
  have hk := logKeep_dcyc s r
  unfold State.logEvent
  split
  · rfl
  · split
    · next h =>
      rw [h] at hk
      split
      · exact hk
      · rw [storeFault_dcyc, hk]
    · next h => rwa [h] at hk

@[simp] theorem logRecord_dcyc (s : State) (o type aux stamp : Nat) (par : List Nat) : (s.logRecord o type aux stamp par).dcyc = s.dcyc := by
  unfold State.logRecord
  split
  · rfl
  · exact logEvent_dcyc ..

end Sys2Proof.Machine
end

section
/-!
THEOREM. The host's commands: enqueued, taken, and what each does at its end (R324, R327 to R333, R336, R337, R342, R353).
-/

namespace Sys2Proof.Machine

/-! ### What a command leaves of host memory and of the count of device cycles -/

/-- Host memory and the count of device cycles are as they were. -/
structure State.KeepsHost (s t : State) : Prop where
  hostMem : t.hostMem = s.hostMem
  dcyc : t.dcyc = s.dcyc

namespace State.KeepsHost

theorem refl (s : State) : s.KeepsHost s := ⟨rfl, rfl⟩

theorem trans {s t u : State} (h : s.KeepsHost t) (k : t.KeepsHost u) : s.KeepsHost u :=
  ⟨k.hostMem.trans h.hostMem, k.dcyc.trans h.dcyc⟩

/-- `trans` with the last operation first, so that it is the goal's state that names it. -/
theorem after {s t u : State} (k : t.KeepsHost u) (h : s.KeepsHost t) : s.KeepsHost u := h.trans k

theorem ite {s t u : State} {p : Prop} [Decidable p] (h : s.KeepsHost t) (k : s.KeepsHost u) : s.KeepsHost (if p then t else u) := by
  split
  · exact h
  · exact k

theorem foldl {α : Type} {f : State → α → State} (hf : ∀ (s : State) a, s.KeepsHost (f s a)) (l : List α) (s : State) :
    s.KeepsHost (l.foldl f s) := by
  induction l generalizing s with
  | nil => exact refl s
  | cons a l ih => exact (hf s a).trans (ih (f s a))

theorem modOwner {s : State} {o : Nat} {f : Owner → Owner} : s.KeepsHost (s.modOwner o f) := ⟨rfl, rfl⟩

theorem store {s : State} {o va pa : Nat} {bs : List Byte} {full : Option Bool} {commons : Bool} {hz : Option Hz} :
    s.KeepsHost (s.store o va pa bs full commons hz) :=
  ⟨State.KeepsAccs.store.hostMem, store_dcyc ..⟩

theorem hwStore_getD {s : State} {o va : Nat} {bs : List Byte} : s.KeepsHost ((s.hwStore o va bs).getD s) := by
  cases h : s.hwStore o va bs with
  | none => exact refl s
  | some t => exact ⟨(State.KeepsAccs.hwStore h).hostMem, hwStore_dcyc h⟩

theorem logRecord {s : State} {o type aux stamp : Nat} {par : List Nat} : s.KeepsHost (s.logRecord o type aux stamp par) :=
  ⟨State.KeepsAccs.logRecord.hostMem, logRecord_dcyc ..⟩

theorem endCommand {s : State} {o q r : Nat} : s.KeepsHost (s.endCommand o q r) := by
  unfold State.endCommand
  split
  · exact refl s
  · have hend : s.KeepsHost (s.modQueue o q fun x => { x with taken := none }) := ⟨rfl, rfl⟩
    dsimp only
    split
    · exact ite (hend.trans logRecord) hend
    · exact hend

/-- A step that keeps both, as the statement of a row says it. -/
theorem outcome {s : State} {a : Host.Outcome State Fault Refusal} (h : ∃ t, a = .next t ∧ s.KeepsHost t) :
    ∃ t, a = .next t ∧ t.hostMem = s.hostMem ∧ t.dcyc = s.dcyc :=
  have ⟨t, ht, hk⟩ := h
  ⟨t, ht, hk.hostMem, hk.dcyc⟩

/-! ### The reset of an owner (R317, R337) -/

theorem unpark {s : State} {a : Acc} : s.KeepsHost (Machine.unpark s a) := by
  refine foldl (fun t l => ?_) a.lanes s
  split
  · split
    · exact ite (refl t) ⟨rfl, rfl⟩
    · exact refl t
  · exact refl t

theorem discardCore {s : State} {l : LCore} : s.KeepsHost (s.discardCore l) :=
  have hpark : s.KeepsHost ((s.accs.filter fun a => a.strand.owner == l.owner && a.strand.lcore == l.num).foldl Machine.unpark (s.keepOutside l)) :=
    (foldl (fun t a => unpark (s := t) (a := a)) _ _).after ⟨rfl, rfl⟩
  hpark.trans ⟨rfl, rfl⟩

theorem sendHeld {s : State} {o : Nat} : s.KeepsHost (s.sendHeld o) := by
  unfold State.sendHeld
  split
  · exact refl s
  · exact ite (ite ⟨rfl, rfl⟩ modOwner) (refl s)

theorem keepPort {s : State} : s.KeepsHost s.keepPort := ite (refl s) ⟨rfl, rfl⟩

theorem takeOutside {s : State} {o lc : Nat} : s.KeepsHost (s.takeOutside o lc) := ⟨rfl, rfl⟩

theorem installImage {s : State} {m : Image} {p : Nat} : s.KeepsHost (s.installImage m p) := by
  unfold State.installImage
  exact sendHeld.after (takeOutside.after (keepPort.after ⟨rfl, rfl⟩))

theorem resetCores {s : State} {o p : Nat} : s.KeepsHost (s.resetCores o p) := by
  unfold State.resetCores
  split
  · exact refl s
  · exact modOwner.trans (foldl (fun _ _ => installImage) _ _)

theorem resetCore {s : State} {o p : Nat} : s.KeepsHost (s.resetCore o p) :=
  ite ((foldl (fun _ _ => discardCore) _ s).trans resetCores) ⟨rfl, rfl⟩

theorem finishReset {s : State} {o : Nat} : s.KeepsHost (s.finishReset o) := by
  unfold State.finishReset
  split
  · exact refl s
  · next w _ =>
    have hzero (t : State) (off n : Nat) : t.KeepsHost ((t.hwStore o (w.orec.logbase + off) (numBytes n 0)).getD t) := hwStore_getD
    dsimp only
    split
    · exact endCommand.after (modOwner.after ((hzero _ 64 4).after ((hzero _ 0 8).after ⟨rfl, rfl⟩)))
    · exact modOwner.after ((hzero _ 64 4).after ((hzero _ 0 8).after ⟨rfl, rfl⟩))

end State.KeepsHost

/-! ### Commands that end in their step (R329, R330) -/

section
variable {s : State} {c : Command} {q : Nat}

theorem hostStep_ends {o op : Nat} {w : Owner} (hq : s.taken? o op c = some q) (hw : s.owner? o = some w) (f : Owner → State × Nat) :
    hostStep o op c f s = .next ((f w).1.endCommand o q (f w).2) := by
  simp only [hostStep, hq, hw]

/-- A row that is `hostStep` of a body ends with that body's state and result (R329, R330). -/
theorem steps_of_hostStep {i : Instr} {o op : Nat} {w : Owner} {f : Owner → State → State} {r : Owner → State → Nat}
    (hi : ∀ s, exec i s = hostStep o op c (fun w => (f w s, r w s)) s) :
    Steps i (fun s => s.taken? o op c = some q ∧ s.owner? o = some w) fun s => (f w s).endCommand o q (r w s) :=
  fun s ⟨hq, hw⟩ => (hi s).trans (hostStep_ends hq hw _)

theorem exec_unmap_eq_zeroStep : exec (.unmap c) s =
    zeroStep 0x1B c (if cmdNum c 8 1 ≠ 0 ∧ ((s.queue? (cmdNum c 8 1) (cmdNum c 9 1)).map (·.slot.isSome)).getD false = true
      then (s.unmapQueue (cmdNum c 8 1) (cmdNum c 9 1)).servePending else s, 0) s := by
  simp only [exec_unmap, execUnmap, Bool.and_eq_true, bne_iff_ne]

theorem exec_stats_frame {w : Owner} (hq : s.taken? 0 0x1C c = some q) (hw : s.owner? 0 = some w) :
    ∃ t, exec (.stats c) s = .next t ∧ s.KeepsHost t := by
  simp only [exec_stats, execStats]
  refine ⟨_, hostStep_ends hq hw _, State.KeepsHost.endCommand.after ?_⟩
  dsimp only
  exact .ite .store (.refl s)

/-! ### ORESET, PREEMPT and SWAP (R128, R308, R330, R337) -/

theorem exec_oreset_nobody (hq : s.taken? 0 0x11 c = some q) (hw : s.owner? (cmdNum c 8 1) = none) :
    exec (.oreset c) s = .next (s.endCommand 0 q 4) := by
  simp only [exec_oreset, execOreset, hq, hw]

theorem exec_oreset_frame {w : Owner} (hq : s.taken? 0 0x11 c = some q) (hw : s.owner? (cmdNum c 8 1) = some w) (hr : w.reset = false)
    (hp : w.preempt = none) (hc : ∀ p ∈ s.coresOf (cmdNum c 8 1), (s.core p).swap = none ∧ (s.core p).pend = none) :
    ∃ t, exec (.oreset c) s = .next t ∧ s.KeepsHost t := by
  have hnone : ((s.coresOf (cmdNum c 8 1)).any fun p => (s.core p).swap.isSome || (s.core p).pend.isSome) = false :=
    List.any_eq_false.2 fun p hm => by simp [hc p hm]
  simp only [exec_oreset, execOreset, hq, hw, hp, hr, hnone, Option.isSome_none, Bool.false_eq_true, or_self, if_false]
  refine ⟨_, rfl, ?_⟩
  generalize s.coresOf (cmdNum c 8 1) = ps
  have hcores {t : State} (ht : s.KeepsHost t) : s.KeepsHost (ps.foldl (fun s p => s.resetCore (cmdNum c 8 1) p) t) :=
    ht.trans (.foldl (fun _ _ => .resetCore) ps t)
  exact .ite (State.KeepsHost.finishReset.after (hcores ⟨rfl, rfl⟩)) (hcores ⟨rfl, rfl⟩)

theorem exec_preempt_nobody (hq : s.taken? 0 0x14 c = some q) (hw : s.owner? (cmdNum c 8 1) = none) :
    exec (.preempt c) s = .next (s.endCommand 0 q 4) := by
  simp only [exec_preempt, execPreempt, hq, hw]

theorem exec_preempt_frame {w : Owner} (hq : s.taken? 0 0x14 c = some q) (hw : s.owner? (cmdNum c 8 1) = some w) (hp : w.preempt = none)
    (hr : w.reset = false) : ∃ t, exec (.preempt c) s = .next t ∧ s.KeepsHost t := by
  simp only [exec_preempt, execPreempt, hq, hw, hp, hr, Option.any_none, Option.isSome_none, Bool.false_eq_true, or_self, if_false]
  split
  · exact ⟨_, rfl, .endCommand⟩
  · split
    · exact ⟨_, rfl, .endCommand⟩
    · exact ⟨_, rfl, .ite ⟨rfl, rfl⟩ ⟨rfl, rfl⟩⟩

/-- SWAP is checked, and then scheduled with its queue, or ended with its status (R128, R136). -/
theorem exec_swap_checked (hq : s.taken? 0 0x16 c = some q) (hc : ∀ k ∈ s.cores, ∀ w, k.2.swap = some w → w.queue ≠ some q) :
    exec (.swap c) s = .next (
      let st := s.hgateStatus none (BitVec.ofNat 32 (cmdNum c 8 4)) (BitVec.ofNat 64 (cmdNum c 16 8)) (BitVec.ofNat 64 (cmdNum c 24 8))
      if st = 0 then s.schedule (BitVec.ofNat 32 (cmdNum c 8 4)) (BitVec.ofNat 64 (cmdNum c 16 8)) (BitVec.ofNat 64 (cmdNum c 24 8)) (some q)
      else s.endCommand 0 q st) := by
  have hnone : (s.cores.any fun k => k.2.swap.any fun w => w.queue == some q) = false :=
    List.any_eq_false.2 fun k hk => by
      rw [Bool.not_eq_true]
      exact (Option.any_eq_false _ _).2 fun w hw => by simpa using hc k hk w hw
  simp only [exec_swap, execSwap, hq, hnone, Bool.false_eq_true, if_false]

/-! ### Enqueueing and taking (R328 to R332) -/

theorem exec_enqueue_rejected {asid : Nat} (hon : s.dev.on = true)
    (hr : enqueueRejects (s.owners.find? fun w => w.orec.asid == asid) q c = true) :
    exec (.enqueue asid q c) s = .next { s with dev := { s.dev with status := s.dev.status ++ [3] } } := by
  simp only [exec_enqueue, execEnqueue, hon, hr, if_true]

theorem exec_enqueue_answered {asid : Nat} {w : Owner} (hon : s.dev.on = true) (hw : (s.owners.find? fun w => w.orec.asid == asid) = some w)
    (hr : enqueueRejects (some w) q c = false) : exec (.enqueue asid q c) s = .next { (s.enqueueTo w q c).1 with
      dev := { (s.enqueueTo w q c).1.dev with status := (s.enqueueTo w q c).1.dev.status ++ [(s.enqueueTo w q c).2] } } := by
  simp only [exec_enqueue, execEnqueue, hon, hw, hr, Bool.false_eq_true, if_false, if_true]

theorem exec_commandTake_takes {o : Nat} {w : Owner} {x : Queue} (hw : s.owner? o = some w) (hx : s.nextQueue w = some x)
    (hm : s.mayTake w = true) : exec (.commandTake o) s = .next
      (let t := s.modQueue o x.num fun x => { x with taken := x.cmds.head?, cmds := x.cmds.tail }
       t.modOwner o fun w => { w with qcur := x.num, qdone := t.ownerNow o }) := by
  simp only [exec_commandTake, execCommandTake, hw, hx, hm, not_true, if_false]

end

/-- Settles O43: the rows that end in their step by `steps_of_hostStep`, each other row by a named lemma. -/
theorem commandsActAndEnd : Obligations.CommandsActAndEnd := by
  unfold Obligations.CommandsActAndEnd
  intro o q asid c w w0 x num ends owns
  exact ⟨steps_of_hostStep fun _ => exec_hostLaunch, steps_of_hostStep fun _ => exec_hostOpen, steps_of_hostStep fun _ => exec_hostClose,
    steps_of_hostStep fun _ => exec_hostCancel, steps_of_hostStep fun _ => exec_ocreate, steps_of_hostStep fun _ => exec_odestroy,
    steps_of_hostStep fun _ => exec_load, steps_of_hostStep fun _ => exec_restore, steps_of_hostStep fun _ => exec_pause,
    steps_of_hostStep fun _ => exec_resume, steps_of_hostStep fun _ => exec_rota, steps_of_hostStep fun _ => exec_resolve,
    steps_of_hostStep fun _ => exec_unmap_eq_zeroStep, steps_of_hostStep fun _ => exec_clearboot,
    fun _ ⟨hq, hw⟩ => State.KeepsHost.outcome (exec_stats_frame hq hw),
    fun _ ⟨hq, hw⟩ => exec_oreset_nobody hq hw,
    fun _ ⟨hq, hw, hr, hp, hc⟩ => State.KeepsHost.outcome (exec_oreset_frame hq hw hr hp hc),
    fun _ ⟨hq, hw⟩ => exec_preempt_nobody hq hw,
    fun _ ⟨hq, hw, hp, hr⟩ => State.KeepsHost.outcome (exec_preempt_frame hq hw hp hr),
    fun _ ⟨hq, hc⟩ => exec_swap_checked hq hc,
    fun _ ⟨hon, hr⟩ => exec_enqueue_rejected hon hr,
    fun _ ⟨hon, hw, hr⟩ => exec_enqueue_answered hon hw hr,
    fun _ ⟨hw, hx, hm⟩ => ⟨_, exec_commandTake_takes hw hx hm, rfl, rfl⟩⟩

end Sys2Proof.Machine
end

section
/-!
THEOREM. The operations of the base form (R358 to R360, R369, R377, R390, R397, R400, R416, R419, R421, R426, R428, R429, R434, R439, R441,
R447, R474): the words of their rows, and their results lane by lane.
-/

namespace Sys2Proof

/-! ### The words of a base row (R59, R64, R68) -/

theorem litOf_pair_eq_none_iff {a b : Src} : litOf [a, b] = none ↔ a.code ≠ 0x78 ∧ b.code ≠ 0x78 := by
  have h := litOf_isSome (l := [(Pos.src, a), (Pos.src, b)])
  rw [← Option.not_isSome_iff_eq_none, List.map_cons, List.map_singleton] at *
  simp [h]

theorem litsOk_of_no_literal {ext : Bool} {p q : Pos} {a b : Src} (ha : a.code ≠ 0x78) (hb : b.code ≠ 0x78) :
    litsOk ext [(p, a), (q, b)] = true := by
  rw [litsOk_pair_left hb]
  cases a with
  | lit v => exact absurd rfl ha
  | _ => simp [litsOk, ha]

/-- The words of a base row whose D and A may be any decode to it, when B and the literal are admitted and the row is the one that its
literal asks for. -/
theorem decode_baseRow {i : Instr} {op : Nat} {p : Pos} {o : BOps} (h : i.enc = .base op o) (hf : baseForm op = ⟨.dst, .src, p, .zero⟩)
    (hb : o.b.okAt p = true) (hl : litsOk false [(.src, o.a), (p, o.b)] = true) (hr : i.litRow = some (litOf [o.a, o.b]).isSome) :
    decode (withLit (firstWord ·.toNat op o.d.code o.a.code o.b.code) (litOf [o.a, o.b])) =
      .ok (i, (withLit (firstWord ·.toNat op o.d.code o.a.code o.b.code) (litOf [o.a, o.b])).length) := by
  have hw : WellFormed i = true := by
    simp only [WellFormed, h, hf, o.d.okAt_dst, o.a.okAt_src, hb, hl, hr, beq_self_eq_true, Bool.or_true, Bool.and_self]
  have hd := decode_encode_base [] h hw
  rwa [List.append_nil, Instr.words, encode_base h] at hd

/-- Position of B in a base form of one source or of two (R68). -/
def basePosB (unary : Bool) : Pos := if unary then .zero else .src

theorem basePosB_wide (unary : Bool) : (basePosB unary).wide = false := by cases unary <;> rfl

theorem Src.okAt_basePosB {unary : Bool} {b : Src} (h : unary = true → b = .zero) : b.okAt (basePosB unary) = true := by
  cases unary with
  | true => rw [h rfl]; rfl
  | false => exact b.okAt_src

end Sys2Proof

namespace Sys2Proof.Machine

/-- Two rows encoded by the operand fields of one opcode, the second the one with a literal, are the base forms of it. -/
theorem baseRow_of_enc {mk mkLit : BOps → Instr} {op : Nat} {unary : Bool} (h : ∀ o, (mk o).enc = .base op o ∧ (mk o).litRow = some false)
    (hlit : ∀ o, (mkLit o).enc = .base op o ∧ (mkLit o).litRow = some true)
    (hf : streamCls op 0 = .both ∧ baseForm op = ⟨.dst, .src, basePosB unary, .zero⟩) : BaseRow mk mkLit op unary := by
  have word (len a b : Nat) (d : Dst) :
      BitVec.ofNat 32 (len + 2 ^ 2 * op + 2 ^ 9 * d.code + 2 ^ 16 * a + 2 ^ 23 * b) = firstWord len op d.code a b := by
    simp only [firstWord, Nat.mul_comm]
  refine ⟨hf.1, fun d a b v hab hz => ?_⟩
  obtain ⟨ha, hb⟩ := litOf_pair_eq_none_iff.1 hab
  simp only [word]
  have hv : (v.setWidth 64).setWidth 32 = v := by simp
  refine ⟨?plain, ?litA, fun hu => ?litB⟩
  case plain =>
    have hd := decode_baseRow (h ⟨d, a, b⟩).1 hf.2 (Src.okAt_basePosB hz) (litsOk_of_no_literal ha hb) (by rw [(h _).2, hab]; rfl)
    rwa [hab] at hd
  case litA =>
    have hd := decode_baseRow (hlit ⟨d, .lit (v.setWidth 64), b⟩).1 hf.2 (Src.okAt_basePosB hz)
      ((litsOk_pair_left hb).trans (litsOk_word rfl v)) (hlit _).2
    simp only [litOf, withLit, hv] at hd
    exact hd
  case litB =>
    have hs : litOf [a, .lit (v.setWidth 64)] = some (v.setWidth 64) := by
      cases a with
      | lit w => exact absurd rfl ha
      | _ => rfl
    have hd := decode_baseRow (hlit ⟨d, a, .lit (v.setWidth 64)⟩).1 hf.2 (Src.okAt_basePosB (by simp [hu]))
      ((litsOk_pair_right ha).trans (litsOk_word (basePosB_wide _) v)) (by rw [(hlit _).2, hs]; rfl)
    simp only [hs] at hd
    simp only [withLit, hv] at hd
    exact hd

/-! ### Results of a base form, lane by lane -/

/-- A base form whose meaning is `execBase` of the words `v`, where `v` is the one word that `r.2` gives of a lane's A and B. -/
def BaseResult (lat : Nat) (o : BOps) (r : Instr × (Word → Word → Word)) : Prop :=
  ∃ v, (∀ s, exec r.1 s = execBase r.1 lat o v s) ∧ ∀ c l, v c l = [r.2 (c.src o.a l) (c.src o.b l)]

theorem BaseResult.computes {lat : Nat} {o : BOps} {r : Instr × (Word → Word → Word)} (h : BaseResult lat o r) :
    Computes r.1 1 lat o.d fun c l => [r.2 (c.src o.a l) (c.src o.b l)] := by
  obtain ⟨v, hx, hv⟩ := h
  rw [← funext fun c => funext (hv c)]
  exact computes_of_issueLanes hx

theorem ite_slt {α : Type} {a b : Word} {x y : α} : (if a.slt b then x else y) = if a.toInt < b.toInt then x else y := by
  simp only [BitVec.slt_iff_toInt_lt]

theorem ite_ult {α : Type} {a b : Word} {x y : α} : (if a.ult b then x else y) = if a.toNat < b.toNat then x else y := by
  simp only [BitVec.ult_iff_lt, BitVec.lt_def]

/-- Bit 31 is the sign (R3). -/
theorem ite_sign {α : Type} {a : Word} {x y : α} : (if a.getLsbD 31 then x else y) = if a.toInt < 0 then x else y :=
  if_congr (condHolds_neg_iff a) rfl rfl

/-- Settles O1: every row is an operation lane by lane, of which minima, maxima and ABS compare as integers; its words are those of its
opcode. -/
theorem integerOperationsComplete : Obligations.IntegerOperationsComplete := by
  unfold Obligations.IntegerOperationsComplete
  refine ⟨fun o r hr => BaseResult.computes ?results, ?words⟩
  case results =>
    revert r
    simp only [List.forall_mem_cons]
    exact ⟨⟨valMov o, fun _ => exec_mov, fun _ _ => rfl⟩, ⟨valMov o, fun _ => exec_movLit, fun _ _ => rfl⟩,
      ⟨valAdd o, fun _ => exec_add, fun _ _ => rfl⟩, ⟨valAdd o, fun _ => exec_addLit, fun _ _ => rfl⟩,
      ⟨valSub o, fun _ => exec_sub, fun _ _ => rfl⟩, ⟨valSub o, fun _ => exec_subLit, fun _ _ => rfl⟩,
      ⟨valMul o, fun _ => exec_mul, fun _ _ => rfl⟩, ⟨valMul o, fun _ => exec_mulLit, fun _ _ => rfl⟩,
      ⟨valMulhS32 o, fun _ => exec_mulhS32, fun _ _ => rfl⟩, ⟨valMulhS32 o, fun _ => exec_mulhS32Lit, fun _ _ => rfl⟩,
      ⟨valMulhN32 o, fun _ => exec_mulhN32, fun _ _ => rfl⟩, ⟨valMulhN32 o, fun _ => exec_mulhN32Lit, fun _ _ => rfl⟩,
      ⟨valMinS32 o, fun _ => exec_minS32, fun _ _ => congrArg ([·]) ite_slt⟩,
      ⟨valMinS32 o, fun _ => exec_minS32Lit, fun _ _ => congrArg ([·]) ite_slt⟩,
      ⟨valMinN32 o, fun _ => exec_minN32, fun _ _ => congrArg ([·]) ite_ult⟩,
      ⟨valMinN32 o, fun _ => exec_minN32Lit, fun _ _ => congrArg ([·]) ite_ult⟩,
      ⟨valMaxS32 o, fun _ => exec_maxS32, fun _ _ => congrArg ([·]) ite_slt⟩,
      ⟨valMaxS32 o, fun _ => exec_maxS32Lit, fun _ _ => congrArg ([·]) ite_slt⟩,
      ⟨valMaxN32 o, fun _ => exec_maxN32, fun _ _ => congrArg ([·]) ite_ult⟩,
      ⟨valMaxN32 o, fun _ => exec_maxN32Lit, fun _ _ => congrArg ([·]) ite_ult⟩,
      ⟨valAbs o, fun _ => exec_abs, fun _ _ => congrArg ([·]) ite_sign⟩,
      ⟨valAbs o, fun _ => exec_absLit, fun _ _ => congrArg ([·]) ite_sign⟩,
      ⟨valAnd o, fun _ => exec_and, fun _ _ => rfl⟩, ⟨valAnd o, fun _ => exec_andLit, fun _ _ => rfl⟩,
      ⟨valOr o, fun _ => exec_or, fun _ _ => rfl⟩, ⟨valOr o, fun _ => exec_orLit, fun _ _ => rfl⟩,
      ⟨valXor o, fun _ => exec_xor, fun _ _ => rfl⟩, ⟨valXor o, fun _ => exec_xorLit, fun _ _ => rfl⟩,
      ⟨valAndn o, fun _ => exec_andn, fun _ _ => rfl⟩, ⟨valAndn o, fun _ => exec_andnLit, fun _ _ => rfl⟩, List.forall_mem_nil _⟩
  case words =>
    simp only [List.forall_mem_cons]
    refine ⟨?_, ?_, ?_, ?_, ?_, ?_, ?_, ?_, ?_, ?_, ?_, ?_, ?_, ?_, ?_, List.forall_mem_nil _⟩ <;>
      exact baseRow_of_enc (fun _ => ⟨rfl, rfl⟩) (fun _ => ⟨rfl, rfl⟩) ⟨rfl, rfl⟩

/-! ### Shifts and bit operations as arithmetic (R369, R377, R429, R439, R441) -/

section
variable {a b : Word} {n : Nat}

theorem shiftLeft_eq_mul : (if 32 ≤ n then (0 : Word) else a <<< n) = BitVec.ofNat 32 (if 32 ≤ n then 0 else a.toNat * 2 ^ n) := by
  split
  · rfl
  · exact BitVec.eq_of_toNat_eq (by simp [Nat.shiftLeft_eq])

theorem shiftRight_eq_div : (if 32 ≤ n then (0 : Word) else a >>> n) = BitVec.ofNat 32 (if 32 ≤ n then 0 else a.toNat / 2 ^ n) := by
  split
  · rfl
  · have hlt : a.toNat / 2 ^ n < 2 ^ 32 := (Nat.div_le_self _ _).trans_lt a.isLt
    refine BitVec.eq_of_toNat_eq ?_
    rw [BitVec.toNat_ushiftRight, Nat.shiftRight_eq_div_pow, BitVec.toNat_ofNat, Nat.mod_eq_of_lt hlt]

theorem sshiftRight_eq_div : a.sshiftRight n = BitVec.ofInt 32 (a.toInt / 2 ^ n) := by
  rw [BitVec.sshiftRight_eq, Int.shiftRight_eq_div_pow, Nat.cast_pow, Nat.cast_ofNat]

/-- The bits of the mask of a list are its members. -/
theorem testBit_maskOf (l : List Nat) (k : Nat) : (maskOf l).testBit k = decide (k ∈ l) := by
  have key (m : Nat) : (l.foldl (fun m i => m ||| 1 <<< i) m).testBit k = (m.testBit k || decide (k ∈ l)) := by
    induction l generalizing m with
    | nil => simp
    | cons i l ih =>
      have hi : (1 <<< i).testBit k = decide (k = i) := by
        rw [Nat.one_shiftLeft, Nat.testBit_two_pow, decide_eq_decide, eq_comm]
      simp [ih, Nat.testBit_or, hi, Bool.or_assoc]
  exact (key 0).trans (by rw [Nat.zero_testBit, Bool.false_or])

theorem mem_bitsOf {m k : Nat} : k ∈ bitsOf n m ↔ k < n ∧ m.testBit k = true := by simp [bitsOf]

theorem getLsbD_bitReverse (a : Word) {k : Nat} (hk : k < 32) : (bitReverse a).getLsbD k = a.getLsbD (31 - k) := by
  have hmem : k ∈ (bitsOf 32 a.toNat).map (31 - ·) ↔ a.toNat.testBit (31 - k) = true := by
    simp only [List.mem_map, mem_bitsOf]
    constructor
    · rintro ⟨j, ⟨hj, hb⟩, rfl⟩
      rwa [show 31 - (31 - j) = j by omega]
    · exact fun hb => ⟨31 - k, ⟨by omega, hb⟩, by omega⟩
  rw [bitReverse, BitVec.getLsbD_ofNat, testBit_maskOf, decide_eq_true hk, Bool.true_and, ← BitVec.testBit_toNat, Bool.eq_iff_iff,
    decide_eq_true_iff, hmem]

/-- The leading zeros of a word other than 0 are counted from its highest bit. -/
theorem toNat_leadingZeros (ha : a ≠ 0) : (leadingZeros a).toNat = 31 - Nat.log2 a.toNat := by
  simp only [leadingZeros, if_neg ha, BitVec.toNat_ofNat]
  omega

theorem log2_lt_of_ne_zero (ha : a ≠ 0) : Nat.log2 a.toNat < 32 :=
  (Nat.log2_lt fun h => ha (BitVec.eq_of_toNat_eq h)).2 a.isLt

/-- The highest bit of a word other than 0 stands after its leading zeros (R377). -/
theorem leadingZeros_bounds (ha : a ≠ 0) : (leadingZeros a).toNat < 32 ∧ 2 ^ (31 - (leadingZeros a).toNat) ≤ a.toNat ∧
    a.toNat < 2 ^ (32 - (leadingZeros a).toNat) := by
  have hlog := log2_lt_of_ne_zero ha
  have hne : a.toNat ≠ 0 := fun h => ha (BitVec.eq_of_toNat_eq h)
  have hlow : 31 - (31 - Nat.log2 a.toNat) = Nat.log2 a.toNat := by omega
  have hhigh : 32 - (31 - Nat.log2 a.toNat) = Nat.log2 a.toNat + 1 := by omega
  rw [toNat_leadingZeros ha, hlow, hhigh]
  exact ⟨by omega, Nat.log2_self_le hne, Nat.lt_log2_self⟩

theorem permuteByte_lt (a : Word) (n : Nat) : permuteByte a n < 256 := by
  unfold permuteByte
  split
  · exact Nat.mod_lt _ (by decide)
  · split
    · split <;> decide
    · decide

/-- Byte k of PRMB is the one that nibble k of b selects (R429). -/
theorem permuteBytes_byte (a b : Word) {k : Nat} (hk : k < 4) :
    (permuteBytes a b).toNat / 2 ^ (8 * k) % 256 = permuteByte a (b.toNat / 2 ^ (4 * k) % 16) := by
  have h0 := permuteByte_lt a (field b 3 0)
  have h1 := permuteByte_lt a (field b 7 4)
  have h2 := permuteByte_lt a (field b 11 8)
  have h3 := permuteByte_lt a (field b 15 12)
  have hnib : permuteByte a (b.toNat / 2 ^ (4 * k) % 16) = permuteByte a (field b (4 * k + 3) (4 * k)) := by
    rw [field, Nat.shiftRight_eq_div_pow, show 4 * k + 3 + 1 - 4 * k = 4 by omega]
    rfl
  rw [hnib, permuteBytes, BitVec.toNat_ofNat]
  obtain rfl | rfl | rfl | rfl : k = 0 ∨ k = 1 ∨ k = 2 ∨ k = 3 := by omega
  all_goals
    simp only [Nat.reduceMul, Nat.reduceAdd]
    omega

end

/-- Settles O2: every row is an operation lane by lane, shifts by the arithmetic of their operands, the others bit by bit or byte by byte. -/
theorem shiftsAndBitOperationsComplete : Obligations.ShiftsAndBitOperationsComplete := by
  unfold Obligations.ShiftsAndBitOperationsComplete
  refine fun o => ⟨fun r hr => BaseResult.computes ?results, fun a k => getLsbD_bitReverse a, fun a => leadingZeros_bounds, rfl,
    fun a b k => permuteBytes_byte a b, ?words⟩
  case results =>
    revert r
    simp only [List.forall_mem_cons]
    exact ⟨⟨valShl o, fun _ => exec_shl, fun _ _ => congrArg ([·]) shiftLeft_eq_mul⟩,
      ⟨valShl o, fun _ => exec_shlLit, fun _ _ => congrArg ([·]) shiftLeft_eq_mul⟩,
      ⟨valShr o, fun _ => exec_shr, fun _ _ => congrArg ([·]) shiftRight_eq_div⟩,
      ⟨valShr o, fun _ => exec_shrLit, fun _ _ => congrArg ([·]) shiftRight_eq_div⟩,
      ⟨valSra o, fun _ => exec_sra, fun _ _ => congrArg ([·]) sshiftRight_eq_div⟩,
      ⟨valSra o, fun _ => exec_sraLit, fun _ _ => congrArg ([·]) sshiftRight_eq_div⟩,
      ⟨valRot o, fun _ => exec_rot, fun _ _ => rfl⟩, ⟨valRot o, fun _ => exec_rotLit, fun _ _ => rfl⟩,
      ⟨valPopc o, fun _ => exec_popc, fun _ _ => rfl⟩, ⟨valPopc o, fun _ => exec_popcLit, fun _ _ => rfl⟩,
      ⟨valClz o, fun _ => exec_clz, fun _ _ => rfl⟩, ⟨valClz o, fun _ => exec_clzLit, fun _ _ => rfl⟩,
      ⟨valBrev o, fun _ => exec_brev, fun _ _ => rfl⟩, ⟨valBrev o, fun _ => exec_brevLit, fun _ _ => rfl⟩,
      ⟨valPrmb o, fun _ => exec_prmb, fun _ _ => rfl⟩, ⟨valPrmb o, fun _ => exec_prmbLit, fun _ _ => rfl⟩, List.forall_mem_nil _⟩
  case words =>
    simp only [List.forall_mem_cons]
    refine ⟨?_, ?_, ?_, ?_, ?_, ?_, ?_, ?_, List.forall_mem_nil _⟩ <;>
      exact baseRow_of_enc (fun _ => ⟨rfl, rfl⟩) (fun _ => ⟨rfl, rfl⟩) ⟨rfl, rfl⟩

end Sys2Proof.Machine
end

section
/-!
THEOREM. Pairs, indexed register moves and division (R359, R387, R406, R421); float operations (R384, R390, R391, R395, R397, R398, R400,
R427); comparison, selection and bit fields (R365, R378, R379, R415, R437); the cross-lane class and RND (R413, R414, R433, R436, R438, R463).
-/

namespace Sys2Proof.Machine

/-! ### Float operations -/

/-- Settles O3: every row is an operation lane by lane, its value the definition's own. -/
theorem floatOperationsComplete : Obligations.FloatOperationsComplete := by
  unfold Obligations.FloatOperationsComplete
  refine ⟨fun o r hr => BaseResult.computes ?base, fun x rm ty sty sat => ⟨computes_of_issueLanes fun _ => exec_ffma,
    computes_of_issueLanes fun _ => exec_frnd, computes_of_issueLanes fun _ => exec_fcls, computes_of_issueLanes fun _ => exec_pfma,
    computes_of_issueLanes fun _ => exec_cvt⟩⟩
  case base =>
    revert r
    simp only [List.forall_mem_cons]
    exact ⟨⟨valFadd o, fun _ => exec_fadd, fun _ _ => rfl⟩, ⟨valFadd o, fun _ => exec_faddLit, fun _ _ => rfl⟩,
      ⟨valFsub o, fun _ => exec_fsub, fun _ _ => rfl⟩, ⟨valFsub o, fun _ => exec_fsubLit, fun _ _ => rfl⟩,
      ⟨valFmul o, fun _ => exec_fmul, fun _ _ => rfl⟩, ⟨valFmul o, fun _ => exec_fmulLit, fun _ _ => rfl⟩,
      ⟨valFmin o, fun _ => exec_fmin, fun _ _ => rfl⟩, ⟨valFmin o, fun _ => exec_fminLit, fun _ _ => rfl⟩,
      ⟨valFmax o, fun _ => exec_fmax, fun _ _ => rfl⟩, ⟨valFmax o, fun _ => exec_fmaxLit, fun _ _ => rfl⟩, List.forall_mem_nil _⟩

/-! ### Pairs and indexed register moves -/

section
variable {a : Src} {c : Ctx} {s : State} {ws : Ctx → List (Nat × Nat × Word)}

theorem badIndex_eq_none (h : ∀ l ∈ c.lanes, (c.src a l).toNat < c.t.n) : badIndex c a = none :=
  List.find?_eq_none.2 fun l hl => by simpa using h l hl

/-- An indexed move whose lanes all name registers of the strand has its result (R406). -/
theorem indexedEff_good (h : ∀ l ∈ c.lanes, (c.src a l).toNat < c.t.n) : indexedEff a ws c s = .result s 4 (ws c) := by
  rw [indexedEff, badIndex_eq_none h]

/-- An indexed move traps at the first active lane whose number is no register of the strand (R406). -/
theorem indexedEff_bad {l : Nat} (h : badIndex c a = some l) : indexedEff a ws c s = .trapAll 0x02 0 ((c.src a l).setWidth 64) := by
  rw [indexedEff, h]

end

/-- IXRD: each active lane reads the register that it names (R406). -/
def ixrdWrites (o : BOps) (c : Ctx) : List (Nat × Nat × Word) := c.lanes.flatMap fun l => dstOuts o.d l [c.reg (c.src o.a l).toNat l]

/-- IXWR: each active lane writes the register that it names (R406). -/
def ixwrWrites (o : BOps) (c : Ctx) : List (Nat × Nat × Word) := c.lanes.map fun l => ((c.src o.a l).toNat, l, c.src o.b l)

theorem exec_ixrd_forms {o : BOps} {i : Instr} (h : i = .ixrd o ∨ i = .ixrdLit o) (s : State) :
    exec i s = issueWith i 1 (indexedEff o.a (ixrdWrites o)) s := by
  rcases h with rfl | rfl
  · exact exec_ixrd
  · exact exec_ixrdLit

theorem exec_ixwr_forms {o : BOps} {i : Instr} (h : i = .ixwr o ∨ i = .ixwrLit o) (s : State) :
    exec i s = issueWith i 1 (indexedEff o.a (ixwrWrites o)) s := by
  rcases h with rfl | rfl
  · exact exec_ixwr
  · exact exec_ixwrLit

theorem exec_indexed_forms {o : BOps} {i : Instr} (h : i = .ixrd o ∨ i = .ixrdLit o ∨ i = .ixwr o ∨ i = .ixwrLit o) :
    ∃ ws, ∀ s, exec i s = issueWith i 1 (indexedEff o.a ws) s := by
  rcases h with h | h | h | h
  · exact ⟨_, exec_ixrd_forms (.inl h)⟩
  · exact ⟨_, exec_ixrd_forms (.inr h)⟩
  · exact ⟨_, exec_ixwr_forms (.inl h)⟩
  · exact ⟨_, exec_ixwr_forms (.inr h)⟩

/-- Settles O5: the pair operations lane by lane, the indexed moves by whether a lane's number is bad. -/
theorem pairAndIndexedOperationsComplete : Obligations.PairAndIndexedOperationsComplete := by
  unfold Obligations.PairAndIndexedOperationsComplete
  refine ⟨fun o r hr => computes_of_issueLanes ?pairs, fun o i h s c hi hn => exec_of_effect (exec_ixrd_forms h s) hi (indexedEff_good hn),
    fun o i h s c hi hn => exec_of_effect (exec_ixwr_forms h s) hi (indexedEff_good hn), fun o i l h s c hi hl => ?bad,
    fun x ty s c hi _ => exec_div.trans (issueWith_issuing _ hi)⟩
  case pairs =>
    revert r
    simp only [List.forall_mem_cons]
    exact ⟨fun _ => exec_addw, fun _ => exec_addwLit, fun _ => exec_mulwN32, fun _ => exec_mulwN32Lit, fun _ => exec_mulwS32,
      fun _ => exec_mulwS32Lit, List.forall_mem_nil _⟩
  case bad =>
    obtain ⟨ws, hx⟩ := exec_indexed_forms h
    exact exec_of_effect (hx s) hi (indexedEff_bad hl)

/-! ### Division -/

section
variable (x y : Word)

/-- What the quotient leaves of the dividend is the remainder, unsigned. -/
theorem sub_mul_udiv : x - y * x.udiv y = x.umod y := by
  rw [sub_eq_iff_eq_add]
  refine BitVec.eq_of_toNat_eq ?_
  have hu : (x.udiv y).toNat = x.toNat / y.toNat := BitVec.toNat_udiv
  have hm : (x.umod y).toNat = x.toNat % y.toNat := BitVec.toNat_umod
  rw [BitVec.toNat_add, BitVec.toNat_mul, hu, hm, Nat.add_mod_mod, Nat.mod_add_div, Nat.mod_eq_of_lt x.isLt]

/-- What the quotient leaves of the dividend is the remainder, signed. -/
theorem sub_mul_sdiv : x - y * x.sdiv y = x.srem y := by
  refine BitVec.eq_of_toInt_eq ?_
  have hr : x.toInt - y.toInt * x.toInt.tdiv y.toInt = (x.srem y).toInt := by rw [BitVec.toInt_srem, Int.tmod_def]
  rw [BitVec.toInt_sub, BitVec.toInt_mul, BitVec.toInt_sdiv, Int.mul_bmod_bmod, Int.sub_bmod_bmod, hr, BitVec.toInt_bmod_cancel]

variable {x y}

theorem divide_zero (ty : Ty) : divide ty x 0 = (0xFFFFFFFF, x) := rfl

theorem divide_n32 (hy : y ≠ 0) : divide .n32 x y = (x.udiv y, x.umod y) := by
  rw [divide, if_neg hy, if_neg (by decide), sub_mul_udiv]

theorem divide_s32 (hy : y ≠ 0) (ho : ¬ (x = 0x80000000 ∧ y = 0xFFFFFFFF)) : divide .s32 x y = (x.sdiv y, x.srem y) := by
  rw [divide, if_neg hy, if_pos rfl, if_neg ho, sub_mul_sdiv]

end

/-- Settles O6: apart from the zero divisor and the overflow, the quotient and the remainder are those of the integers. -/
theorem divisionQuotientAndRemainder : Obligations.DivisionQuotientAndRemainder := by
  unfold Obligations.DivisionQuotientAndRemainder
  refine fun x y => ⟨divide_zero, rfl, fun hy => ?unsigned, fun hy ho => ?signed⟩
  case unsigned =>
    rw [divide_n32 hy]
    exact ⟨BitVec.toNat_udiv, BitVec.toNat_umod⟩
  case signed =>
    rw [divide_s32 hy ho]
    exact ⟨BitVec.toInt_sdiv_of_ne_or_ne x y (not_and_or.1 ho), BitVec.toInt_srem x y⟩

/-! ### Comparison, selection and bit fields -/

theorem cmpHolds_s32_lt_iff (a b : DWord) : cmpHolds .s32 .lt a b = true ↔ a.lo.toInt < b.lo.toInt := BitVec.slt_iff_toInt_lt

theorem cmpHolds_s64_lt_iff (a b : DWord) : cmpHolds .s64 .lt a b = true ↔ a.toInt < b.toInt := BitVec.slt_iff_toInt_lt

theorem cmpHolds_n32_lt_iff (a b : DWord) : cmpHolds .n32 .lt a b = true ↔ a.lo.toNat < b.lo.toNat := BitVec.ult_iff_lt

theorem cmpHolds_n64_lt_iff (a b : DWord) : cmpHolds .n64 .lt a b = true ↔ a.toNat < b.toNat := BitVec.ult_iff_lt

theorem cmpHolds_f32_un_iff (a b : DWord) : cmpHolds .f32 .un a b = true ↔ (f32 a.lo).isNan = true ∨ (f32 b.lo).isNan = true :=
  Bool.or_eq_true_iff ..

/-- Settles O7: every row is an operation lane by lane, and the relations of CMP are those of the operands' values. -/
theorem compareSelectAndFieldOperationsComplete : Obligations.CompareSelectAndFieldOperationsComplete := by
  unfold Obligations.CompareSelectAndFieldOperationsComplete
  exact fun x ty => ⟨fun rel => computes_of_issueLanes fun _ => exec_cmp, computes_of_issueLanes fun _ => exec_sel,
    computes_of_issueLanes fun _ => exec_mad, computes_of_issueLanes fun _ => exec_bfx, computes_of_issueLanes fun _ => exec_bfi,
    fun a b => ⟨cmpHolds_s32_lt_iff a b, cmpHolds_n32_lt_iff a b, cmpHolds_s64_lt_iff a b, cmpHolds_n64_lt_iff a b, cmpHolds_f32_un_iff a b⟩⟩

/-! ### The cross-lane class and RND -/

/-- What SHFL gives a lane: A of its source lane where that is active, else its own A (R438). -/
def Ctx.shuffled (c : Ctx) (a : Src) (m : ShflMode) (l b : Nat) : Word :=
  match shflLane m l b with
  | some k => if k ∈ c.lanes then c.src a k else c.src a l
  | none => c.src a l

theorem exec_shfl_shuffled {x : XOps} {m : ShflMode} {s : State} : exec (.shfl x m) s =
    issueLanes (.shfl x m) 1 6 x.d (fun c l => [c.shuffled x.a m l (c.src x.b l).toNat]) s := by
  refine exec_shfl.trans (congrFun (congrArg (issueLanes (.shfl x m) 1 6 x.d) (funext fun c => funext fun l => congrArg ([·]) ?_)) s)
  rw [Ctx.shuffled]
  cases shflLane m l (c.src x.b l).toNat with
  | none => rfl
  | some k => simp only [List.contains_iff_mem]

theorem map_snd_values (c : Ctx) (a : Src) : (c.values a).map (·.2) = c.lanes.map (c.src a) := by
  rw [Ctx.values, List.map_map]
  rfl

theorem exec_lred_lanes {x : XOps} {ty : Ty} {m : RedMode} {s : State} : exec (.lred x ty m) s =
    issueLanes (.lred x ty m) 1 10 x.d (fun c _ => [reduceWords ty m (c.lanes.map (c.src x.a))]) s := by
  simp only [exec_lred, execLred, map_snd_values]

/-- What SCAN writes: each active lane what is reduced up to it (R436). -/
def scanWrites (x : XOps) (ty : Ty) (m : RedMode) (excl : Bool) (c : Ctx) : List (Nat × Nat × Word) :=
  (c.lanes.zip (scanWords ty m excl (redIdentity ty m) (c.lanes.map (c.src x.a)))).flatMap fun p => dstOuts x.d p.1 [p.2]

theorem exec_scan_lanes {x : XOps} {ty : Ty} {m : RedMode} {excl : Bool} {s : State} : exec (.scan x ty m excl) s =
    issueWith (.scan x ty m excl) 1 (fun c s => .result s 12 (scanWrites x ty m excl c)) s := by
  simp only [exec_scan, execScan, map_snd_values, scanWrites]

/-- Settles O9: the cross-lane results are functions of the active lanes' values of A. -/
theorem crossLaneOperationsComplete : Obligations.CrossLaneOperationsComplete := by
  unfold Obligations.CrossLaneOperationsComplete
  exact fun x ty => ⟨fun m => computes_of_issueLanes fun _ => exec_shfl_shuffled, fun m => computes_of_issueLanes fun _ => exec_vote,
    fun m => computes_of_issueLanes fun _ => exec_lred_lanes,
    fun m excl s c hi _ => exec_of_effect exec_scan_lanes hi rfl, computes_of_issueLanes fun _ => exec_rnd⟩

end Sys2Proof.Machine
end
